-- ==== Sys2Proof/Word.lean ====
section
/-! DEFINITION. The word types of the Trelwen D8: the 32-bit code word (R55), the 64-bit scalar register (R85), the
512-byte vector image (R115) and the 128-bit lane mask (R115). -/

namespace Sys2Proof

/-- A code word (R55). -/
abbrev Word := BitVec 32

/-- A scalar register's content, or an address or counter of 64 bits (R85). -/
abbrev Dword := BitVec 64

/-- A byte. -/
abbrev Byte := BitVec 8

/-- A vector register's or latch's 512-byte image: lane `l` holds bits `32 l + 31` to `32 l` (R115). -/
abbrev Vec := BitVec 4096

/-- A lane mask: bit `l` belongs to lane `l` (R115). -/
abbrev Mask := BitVec 128

end Sys2Proof
end

