-- ==== Sys2Proof/Sparse.lean ====
section
/-! DEFINITION. Finite maps keyed by a natural number, held as a list of pairs with strictly rising keys: plain data, so
that states can be compared and printed. A key that is not listed reads as the default the reader passes. -/

namespace Sys2Proof

/-- A finite map: pairs with strictly rising keys. -/
abbrev Sparse (α : Type) := List (Nat × α)

/-- The entry at key `k`, if one is listed. -/
def Sparse.find {α : Type} (m : Sparse α) (k : Nat) : Option α :=
  match m with
  | [] => none
  | (a, x) :: t => if a = k then some x else Sparse.find t k

/-- The entry at key `k`, or `d` where none is listed. -/
def Sparse.getD {α : Type} (m : Sparse α) (k : Nat) (d : α) : α :=
  match Sparse.find m k with
  | some x => x
  | none => d

/-- The map with `x` at key `k`. -/
def Sparse.put {α : Type} (m : Sparse α) (k : Nat) (x : α) : Sparse α :=
  match m with
  | [] => [(k, x)]
  | (a, y) :: t =>
    if k < a then (k, x) :: (a, y) :: t
    else if k = a then (k, x) :: t
    else (a, y) :: Sparse.put t k x

/-- The map with no entry at key `k`. -/
def Sparse.drop {α : Type} (m : Sparse α) (k : Nat) : Sparse α :=
  match m with
  | [] => []
  | (a, y) :: t => if a = k then t else (a, y) :: Sparse.drop t k

/-- The keys listed, in rising order. -/
def Sparse.keys {α : Type} (m : Sparse α) : List Nat := m.map (·.1)

/-- The entries listed, in rising order of their keys. -/
def Sparse.vals {α : Type} (m : Sparse α) : List α := m.map (·.2)

/-- The strictly rising order of the keys, every one above `lo`. -/
def Sparse.risesFrom {α : Type} (lo : Nat) (m : Sparse α) : Bool :=
  match m with
  | [] => true
  | (a, _) :: t => decide (lo ≤ a) && Sparse.risesFrom (a + 1) t

/-- The canonical form of the keys: strictly rising. -/
def Sparse.wf {α : Type} (m : Sparse α) : Bool := Sparse.risesFrom 0 m

/-- The map with every entry changed by `f`. -/
def Sparse.mapVals {α : Type} (f : Nat → α → α) (m : Sparse α) : Sparse α := m.map (fun e => (e.1, f e.1 e.2))

end Sys2Proof
end

