-- ==== Sys2Proof/Machine/Bits.lean ====
section
/-! DEFINITION. Bit fields, sign extension, byte order and shifts on plain numbers (R1, R2), and lanes of a vector image
(R115). -/

namespace Sys2Proof.Machine

/-- `Bits(x, lo + k - 1, lo)` (R1). -/
def bitsOf (x lo k : Nat) : Nat := x / 2 ^ lo % 2 ^ k

/-- Bit `i` of `x`. -/
def bitOf (x i : Nat) : Bool := decide (x / 2 ^ i % 2 = 1)

/-- `SignExt(x, 64)` of a `k`-bit value. -/
def signExt64 (k x : Nat) : Dword :=
  if 2 ^ (k - 1) ≤ x % 2 ^ k then BitVec.ofNat 64 (x % 2 ^ k + (2 ^ 64 - 2 ^ k)) else BitVec.ofNat 64 (x % 2 ^ k)

/-- The signed reading of a `k`-bit value. -/
def signedOf (k x : Nat) : Int :=
  if 2 ^ (k - 1) ≤ x % 2 ^ k then (x % 2 ^ k : Int) - 2 ^ k else (x % 2 ^ k : Int)

/-- The `k`-bit two's complement pattern of an integer. -/
def wrapTo (k : Nat) (i : Int) : Nat := (i % (2 ^ k : Int)).toNat

/-- The little-endian number of a list of bytes (R2). -/
def leNat (bs : List Byte) : Nat :=
  match bs with
  | [] => 0
  | b :: t => b.toNat + 256 * leNat t

/-- The `n` little-endian bytes of a number (R2). -/
def leBytes (n x : Nat) : List Byte :=
  match n with
  | 0 => []
  | k + 1 => BitVec.ofNat 8 x :: leBytes k (x / 256)

/-- Lane `l` of a vector image (R115). -/
def lane (v : Vec) (l : Nat) : Word := v.extractLsb' (32 * l) 32

/-- The number made of 32-bit lanes, lane 0 lowest. -/
def lanesNat (ls : List Word) : Nat :=
  match ls with
  | [] => 0
  | w :: t => w.toNat + 2 ^ 32 * lanesNat t

/-- The vector image of 128 lanes given by a function of the lane. -/
def ofLanes (f : Nat → Word) : Vec := BitVec.ofNat 4096 (lanesNat ((List.range 128).map f))

/-- The mask whose bit `l` is `f l`. -/
def ofMaskBits (f : Nat → Bool) : Mask :=
  BitVec.ofNat 128 (leNat ((List.range 16).map (fun i =>
    BitVec.ofNat 8 (((List.range 8).map (fun j => if f (8 * i + j) then 2 ^ j else 0)).foldl (· + ·) 0))))

/-- A vector image with lane `l` replaced. -/
def setLane (v : Vec) (l : Nat) (w : Word) : Vec := ofLanes (fun i => if i = l then w else lane v i)

/-- The number of one bits among the low `n` bits. -/
def popCount (n x : Nat) : Nat :=
  match n with
  | 0 => 0
  | k + 1 => x % 2 + popCount k (x / 2)

/-- The number of significant bits of `x`, at most `n`. -/
def bitLen (n x : Nat) : Nat :=
  match n with
  | 0 => 0
  | k + 1 => if x = 0 then 0 else 1 + bitLen k (x / 2)

/-- `ceil(a / b)` for a positive `b`. -/
def ceilDiv (a b : Nat) : Nat := (a + b - 1) / b

/-- A list with its element at `i` replaced. -/
def listSet {α : Type} (l : List α) (i : Nat) (x : α) : List α :=
  match l, i with
  | [], _ => []
  | _ :: t, 0 => x :: t
  | a :: t, k + 1 => a :: listSet t k x

/-- The first index below `n` that satisfies `f`, counted from `i`. -/
def firstFrom (f : Nat → Bool) (i n : Nat) : Option Nat :=
  match n with
  | 0 => none
  | k + 1 => if f i then some i else firstFrom f (i + 1) k

end Sys2Proof.Machine
end

