-- ==== Sys2Proof/Machine/Fp.lean ====
section
/-! DEFINITION. The element formats and their arithmetic (R23 to R46): exact values, one rounding, special cases and the
sticky flags each operation raises (R37 to R43, R51). Values are exact dyadic numbers; rounding happens once, at the end. -/

namespace Sys2Proof.Machine

/-- The flags of `aflags` (R51). -/
def flagV : BitVec 8 := 0x01
def flagZ : BitVec 8 := 0x02
def flagO : BitVec 8 := 0x04
def flagU : BitVec 8 := 0x08
def flagX : BitVec 8 := 0x10
def flagS : BitVec 8 := 0x20
def flagN : BitVec 8 := 0x40
def flagG : BitVec 8 := 0x80

/-- A floating-point format (R23): widths of exponent and fraction, bias, and whether it has infinities. -/
structure Fmt where
  ew : Nat
  fw : Nat
  bias : Nat
  inf : Bool
  deriving DecidableEq, Repr

def fp32 : Fmt := { ew := 8, fw := 23, bias := 127, inf := true }
def bf16 : Fmt := { ew := 8, fw := 7, bias := 127, inf := true }
def fp16 : Fmt := { ew := 5, fw := 10, bias := 15, inf := true }
def e5m2 : Fmt := { ew := 5, fw := 2, bias := 15, inf := true }
def e4m3 : Fmt := { ew := 4, fw := 3, bias := 7, inf := false }
def e2m1 : Fmt := { ew := 2, fw := 1, bias := 1, inf := false }

/-- An exact value: NaN, an infinity, or (−1)^s × m × 2^e. -/
inductive Fv where
  | nan
  | inf (s : Bool)
  | fin (s : Bool) (m : Nat) (e : Int)
  deriving DecidableEq, Repr

/-- The value of a pattern (R23, R24). E2M1 has no NaN of its own (R27); its code 0b1000 is read by the caller (R26). -/
def fpVal (f : Fmt) (x : Nat) : Fv :=
  let fr := x % 2 ^ f.fw
  let ex := x / 2 ^ f.fw % 2 ^ f.ew
  let sg := bitOf x (f.ew + f.fw)
  if f.inf && decide (ex = 2 ^ f.ew - 1) then (if fr = 0 then .inf sg else .nan)
  else if !f.inf && decide (f.ew = 4) && decide (ex = 15) && decide (fr = 7) then .nan
  else if ex = 0 then .fin sg fr (1 - (f.bias : Int) - f.fw)
  else .fin sg (2 ^ f.fw + fr) ((ex : Int) - f.bias - f.fw)

/-- The canonical NaN of a format (R25). -/
def fpNan (f : Fmt) : Nat :=
  if f.inf then (2 ^ f.ew - 1) * 2 ^ f.fw + 2 ^ (f.fw - 1) else 2 ^ (f.ew + f.fw) - 1

/-- The sign bit of a pattern. -/
def fpSign (f : Fmt) (s : Bool) : Nat := if s then 2 ^ (f.ew + f.fw) else 0

/-- An infinity's pattern. -/
def fpInf (f : Fmt) (s : Bool) : Nat := fpSign f s + (2 ^ f.ew - 1) * 2 ^ f.fw

/-- The largest finite value's pattern (R23). -/
def fpMax (f : Fmt) (s : Bool) : Nat :=
  fpSign f s + (if f.inf then (2 ^ f.ew - 1) * 2 ^ f.fw - 1 else if f.ew = 4 then 126 else 2 ^ (f.ew + f.fw) - 1)

/-- The hash of R44. -/
def srhMix (x0 : Nat) : Nat :=
  let x := x0 % 2 ^ 32
  let x := x ^^^ (x / 2 ^ 16)
  let x := x * 0x85EBCA6B % 2 ^ 32
  let x := x ^^^ (x / 2 ^ 13)
  let x := x * 0xC2B2AE35 % 2 ^ 32
  x ^^^ (x / 2 ^ 16)

/-- Whether a value with kept part `n` and dropped part `d` of `nb` bits rounds away from zero (R42, R44); `h` is the hash
of SRH. -/
def roundAway (mode : Nat) (h : Nat) (s : Bool) (n d nb : Nat) : Bool :=
  if d = 0 then false
  else match mode with
    | 0 => decide (2 ^ nb < 2 * d) || (decide (2 * d = 2 ^ nb) && decide (n % 2 = 1))
    | 1 => false
    | 2 => s
    | 3 => !s
    | _ =>
      if 32 < nb then decide (d / 2 ^ (nb - 32) ≠ 0) && decide (h < d / 2 ^ (nb - 32))
      else decide (h / 2 ^ (32 - nb) < d)

/-- What overflow gives (R37, R42). -/
def overflowTo (f : Fmt) (mode : Nat) (s : Bool) : Nat :=
  if !f.inf then fpMax f s
  else match mode with
    | 1 => fpMax f s
    | 2 => if s then fpInf f s else fpMax f s
    | 3 => if s then fpMax f s else fpInf f s
    | _ => fpInf f s

/-- Rounding of the exact value (−1)^s × m × 2^e to a format: the pattern and the flags (R36, R41, R42, R44). -/
def roundFin (f : Fmt) (mode h : Nat) (s : Bool) (m : Nat) (e : Int) : Nat × BitVec 8 :=
  if m = 0 then (fpSign f s, 0)
  else
    let top : Int := e + (Nat.log2 m : Int)
    let emin : Int := 1 - (f.bias : Int)
    let q : Int := (if top < emin then emin else top) - f.fw
    let nb := (q - e).toNat
    let n0 := if e < q then m / 2 ^ nb else m * 2 ^ (e - q).toNat
    let d := if e < q then m % 2 ^ nb else 0
    let n := if roundAway mode h s n0 d nb then n0 + 1 else n0
    let big1 : Bool :=
      let big := if f.inf then (2 ^ (f.fw + 1) - 1) else if f.ew = 4 then 14 else 2 ^ (f.fw + 1) - 1
      let qmax : Int := (2 ^ f.ew - (if f.inf then 2 else 1) : Int) - f.bias - f.fw
      decide (qmax < q) || (decide (q = qmax) && decide (big < n))
    if big1 then (overflowTo f mode s, flagO ||| flagX)
    else
      let ex : Nat := if n < 2 ^ f.fw then 0 else if n = 2 ^ (f.fw + 1) then (q - emin + f.fw + 2).toNat else (q - emin + f.fw + 1).toNat
      let fr : Nat := n % 2 ^ f.fw
      (fpSign f s + ex * 2 ^ f.fw + fr,
       if d = 0 then 0 else if n < 2 ^ f.fw then flagU ||| flagX else flagX)

/-- `RoundTo(fmt, mode, x)` (R41, R42): a NaN gives the canonical NaN; an infinity stays or saturates. -/
def roundFv (f : Fmt) (mode h : Nat) (x : Fv) : Nat × BitVec 8 :=
  match x with
  | .nan => (fpNan f, 0)
  | .inf s => if f.inf then (fpInf f s, 0) else (fpMax f s, flagO)
  | .fin s m e => roundFin f mode h s m e

/-- `RNE32(x)` of an exact value. -/
def rne32 (x : Fv) : Word := BitVec.ofNat 32 (roundFv fp32 0 0 x).1

/-- The signed integer of a magnitude. -/
def signed (s : Bool) (m : Nat) : Int := if s then - (m : Int) else (m : Int)

/-- The exact value of an integer times 2^e; an exact zero is +0. -/
def ofInt (i : Int) (e : Int) : Fv := .fin (decide (i < 0)) i.natAbs e

/-- Exact sum, with the IEEE 754 signs of zero (R32) and NaN for opposite infinities. -/
def fvAdd (x y : Fv) : Fv :=
  match x, y with
  | .nan, _ => .nan
  | _, .nan => .nan
  | .inf a, .inf b => if a = b then .inf a else .nan
  | .inf a, _ => .inf a
  | _, .inf b => .inf b
  | .fin a m e, .fin b n g =>
    if m = 0 ∧ n = 0 then .fin (a && b) 0 0
    else
      let lo := if e < g then e else g
      ofInt (signed a (m * 2 ^ (e - lo).toNat) + signed b (n * 2 ^ (g - lo).toNat)) lo

/-- Exact negation. -/
def fvNeg (x : Fv) : Fv :=
  match x with
  | .nan => .nan
  | .inf s => .inf (!s)
  | .fin s m e => .fin (!s) m e

/-- Exact product; 0 × ∞ is NaN. -/
def fvMul (x y : Fv) : Fv :=
  match x, y with
  | .nan, _ => .nan
  | _, .nan => .nan
  | .inf a, .inf b => .inf (a != b)
  | .inf a, .fin b m _ => if m = 0 then .nan else .inf (a != b)
  | .fin a m _, .inf b => if m = 0 then .nan else .inf (a != b)
  | .fin a m e, .fin b n g => .fin (a != b) (m * n) (e + g)

/-- The value is a NaN. -/
def isNan (x : Fv) : Bool := match x with | .nan => true | _ => false

/-- The value is an infinity. -/
def isInf (x : Fv) : Bool := match x with | .inf _ => true | _ => false

/-- The value is a zero. -/
def isZero (x : Fv) : Bool := match x with | .fin _ 0 _ => true | _ => false

/-- The value's sign is set. -/
def isNeg (x : Fv) : Bool := match x with | .nan => false | .inf s => s | .fin s _ _ => s

/-- 0 × ∞ (R37). -/
def zeroTimesInf (x y : Fv) : Bool := (isZero x && isInf y) || (isInf x && isZero y)

/-- The exact order `x < y` of two values that are no NaN; zeros are equal. -/
def fvLt (x y : Fv) : Bool :=
  match x, y with
  | .nan, _ => false
  | _, .nan => false
  | .inf a, .inf b => a && !b
  | .inf a, .fin _ _ _ => a
  | .fin _ _ _, .inf b => !b
  | .fin a m e, .fin b n g =>
    let lo := if e < g then e else g
    decide (signed a (m * 2 ^ (e - lo).toNat) < signed b (n * 2 ^ (g - lo).toNat))

/-- Equality of two values that are no NaN; zeros are equal. -/
def fvEq (x y : Fv) : Bool := !isNan x && !isNan y && !fvLt x y && !fvLt y x

/-- Subnormal in its own format. -/
def isSub (f : Fmt) (x : Nat) : Bool := decide (x / 2 ^ f.fw % 2 ^ f.ew = 0) && decide (x % 2 ^ f.fw ≠ 0)

/-- A vector operand's value: a subnormal is a zero of its sign under `vftz` (R39). -/
def vin (f : Fmt) (ftz : Bool) (x : Nat) : Fv :=
  if ftz && isSub f x then .fin (bitOf x (f.ew + f.fw)) 0 0 else fpVal f x

/-- A vector result: under `vftz` a subnormal becomes a zero of its sign, with U and X (R39). -/
def vout (f : Fmt) (ftz : Bool) (r : Nat × BitVec 8) : Nat × BitVec 8 :=
  if ftz && isSub f r.1 then (fpSign f (bitOf r.1 (f.ew + f.fw)), r.2 ||| flagU ||| flagX) else r

/-- Vector add in a format (R36, R37, R39). -/
def vAddF (f : Fmt) (ftz : Bool) (x y : Nat) : Nat × BitVec 8 :=
  let a := vin f ftz x
  let b := vin f ftz y
  if isNan a || isNan b then (fpNan f, 0)
  else if isInf a && isInf b && (isNeg a != isNeg b) then (fpNan f, flagV)
  else vout f ftz (roundFv f 0 0 (fvAdd a b))

/-- Vector subtract: the sum with the second operand negated; a NaN stays a NaN. -/
def vSubF (f : Fmt) (ftz : Bool) (x y : Nat) : Nat × BitVec 8 :=
  let a := vin f ftz x
  let b := fvNeg (vin f ftz y)
  if isNan a || isNan b then (fpNan f, 0)
  else if isInf a && isInf b && (isNeg a != isNeg b) then (fpNan f, flagV)
  else vout f ftz (roundFv f 0 0 (fvAdd a b))

/-- Vector multiply (R37). -/
def vMulF (f : Fmt) (ftz : Bool) (x y : Nat) : Nat × BitVec 8 :=
  let a := vin f ftz x
  let b := vin f ftz y
  if isNan a || isNan b then (fpNan f, 0)
  else if zeroTimesInf a b then (fpNan f, flagV)
  else vout f ftz (roundFv f 0 0 (fvMul a b))

/-- Vector fused multiply-add, one rounding (R36); 0 × ∞ raises V whatever the addend (R37). -/
def vFmaF (f : Fmt) (ftz : Bool) (x y z : Nat) : Nat × BitVec 8 :=
  let a := vin f ftz x
  let b := vin f ftz y
  let c := vin f ftz z
  if zeroTimesInf a b then (fpNan f, flagV)
  else if isNan a || isNan b || isNan c then (fpNan f, 0)
  else
    let p := fvMul a b
    if isInf p && isInf c && (isNeg p != isNeg c) then (fpNan f, flagV)
    else vout f ftz (roundFv f 0 0 (fvAdd p c))

/-- The larger of two FP32 values, or the smaller (R129): +0 is larger than −0, a NaN gives the canonical NaN. -/
def vMaxF (mx ftz : Bool) (x y : Nat) : Nat × BitVec 8 :=
  let a := vin fp32 ftz x
  let b := vin fp32 ftz y
  if isNan a || isNan b then (fpNan fp32, 0)
  else
    let less : Bool := fvLt a b || (isZero a && isZero b && isNeg a && !isNeg b)
    (if less = mx then (roundFv fp32 0 0 b).1 else (roundFv fp32 0 0 a).1, 0)

/-- The floor of the square root, digit by digit from bit `n`. -/
def isqrtFrom (n v r : Nat) : Nat :=
  match n with
  | 0 => if (r + 1) * (r + 1) ≤ v then r + 1 else r
  | k + 1 => isqrtFrom k v (if (r + 2 ^ (k + 1)) * (r + 2 ^ (k + 1)) ≤ v then r + 2 ^ (k + 1) else r)

/-- Correctly rounded 1/x (R38). -/
def vRcpF (ftz : Bool) (x : Nat) : Nat × BitVec 8 :=
  match vin fp32 ftz x with
  | .nan => (fpNan fp32, 0)
  | .inf s => (fpSign fp32 s, 0)
  | .fin s m e =>
    if m = 0 then (fpInf fp32 s, 0)
    else
      let q := 2 ^ 60 / m
      vout fp32 ftz (roundFin fp32 0 0 s (2 * q + (if q * m = 2 ^ 60 then 0 else 1)) (-61 - e))

/-- Correctly rounded 1/√x (R38). -/
def vRsqF (ftz : Bool) (x : Nat) : Nat × BitVec 8 :=
  match vin fp32 ftz x with
  | .nan => (fpNan fp32, 0)
  | .inf s => if s then (fpNan fp32, flagV) else (0, 0)
  | .fin s m e =>
    if m = 0 then (fpInf fp32 s, 0)
    else if s then (fpNan fp32, flagV)
    else
      let m2 := if e % 2 = 0 then m else 2 * m
      let e2 := if e % 2 = 0 then e else e - 1
      let q := isqrtFrom 50 (2 ^ 100 / m2) 0
      vout fp32 ftz (roundFin fp32 0 0 false (2 * q + (if q * q * m2 = 2 ^ 100 then 0 else 1)) (-51 - e2 / 2))

/-- ln 2 × 2^192, rounded down. -/
def ln2Scaled : Nat := 4350955369971217654477563090224794165364344896676135745069

/-- Σ_{i < n} of y^i / i! in fixed point with 192 fraction bits; `t` is the term at hand and `i` its index. -/
def expSeries (n y t i acc : Nat) : Nat :=
  match n with
  | 0 => acc
  | k + 1 => expSeries k y (t * y / 2 ^ 192 / (i + 1)) (i + 1) (acc + t)

/-- Correctly rounded 2^x (R38): an integer is exact; otherwise 2^x is irrational, and 192 fraction bits of it decide the
rounding of any FP32 input. Log entry 8. -/
def vExp2F (ftz : Bool) (x : Nat) : Nat × BitVec 8 :=
  match vin fp32 ftz x with
  | .nan => (fpNan fp32, 0)
  | .inf s => if s then (0, 0) else (fpInf fp32 false, 0)
  | .fin s m e =>
    if m = 0 then (0x3F800000, 0)
    else if !fvLt (.fin s m e) (.fin false 1 7) then (fpInf fp32 false, flagO ||| flagX)
    else if fvLt (.fin s m e) (.fin true 150 0) then vout fp32 ftz (0, flagU ||| flagX)
    else
      let sc : Int := signed s (if 0 ≤ e then m * 2 ^ (e.toNat + 192) else m * 2 ^ 192 / 2 ^ (-e).toNat)
      let n : Int := sc / (2 ^ 192 : Int)
      let fr : Nat := (sc % (2 ^ 192 : Int)).toNat
      if fr = 0 then vout fp32 ftz (roundFin fp32 0 0 false 1 n)
      else
        let r := expSeries 48 (fr * ln2Scaled / 2 ^ 192) (2 ^ 192) 0 0
        vout fp32 ftz (roundFin fp32 0 0 false (2 * r + 1) (n - 193))

/-- FP32 compares (R131, R37): the lane's truth and the flag. -/
def vCmpF (cc : Nat) (ftz : Bool) (x y : Nat) : Bool × BitVec 8 :=
  let a := vin fp32 ftz x
  let b := vin fp32 ftz y
  if isNan a || isNan b then (false, if cc = 0 then 0 else flagV)
  else match cc with
    | 0 => (fvEq a b, 0)
    | 1 => (fvLt a b, 0)
    | _ => (fvLt a b || fvEq a b, 0)

/-- FP32 to INT32 (R43): saturation raises S only, a NaN gives 0 with V only. -/
def vToInt (mode h : Nat) (ftz : Bool) (x : Nat) : Nat × BitVec 8 :=
  match vin fp32 ftz x with
  | .nan => (0, flagV)
  | .inf s => (if s then 0x80000000 else 0x7FFFFFFF, flagS)
  | .fin s m e =>
    let nb := (-e).toNat
    let n0 := if e < 0 then m / 2 ^ nb else m * 2 ^ e.toNat
    let d := if e < 0 then m % 2 ^ nb else 0
    let n := if roundAway mode h s n0 d nb then n0 + 1 else n0
    let i := signed s n
    if i < -2147483648 then (0x80000000, flagS)
    else if 2147483647 < i then (0x7FFFFFFF, flagS)
    else (wrapTo 32 i, if d = 0 then 0 else flagX)

/-- INT32 to FP32 (R41, R43). -/
def vFromInt (mode h : Nat) (x : Nat) : Nat × BitVec 8 :=
  let i := signedOf 32 x
  roundFin fp32 mode h (decide (i < 0)) i.natAbs 0

/-- FP32 to a narrower format in a narrowing mode (R41, R42, R39). -/
def vNarrow (f : Fmt) (mode h : Nat) (ftz : Bool) (x : Nat) : Nat × BitVec 8 :=
  vout f ftz (roundFv f mode h (vin fp32 ftz x))

/-- FP32 addition of the chain, the selvedge and the checks: RNE32, no flag (R32, R34). -/
def addF32 (x y : Word) : Word := rne32 (fvAdd (fpVal fp32 x.toNat) (fpVal fp32 y.toNat))

/-- FP32 multiplication without flags (R35). -/
def mulF32 (x y : Word) : Word := rne32 (fvMul (fpVal fp32 x.toNat) (fpVal fp32 y.toNat))

/-- The FP32 pattern is finite. -/
def finite32 (x : Word) : Bool := decide (x.toNat / 2 ^ 23 % 256 ≠ 255)

end Sys2Proof.Machine
end

