-- ==== Sys2Proof/Machine/Flags.lean ====
section
/-! DEFINITION. The results and flags of scalar division (R50) and the results of the scalar ALU words that need more than one
operation of a bit vector (R94, R95). The flags of the vector words stand with their arithmetic in Fp. -/

namespace Sys2Proof.Machine

/-- `div` (R50, R95): rounded toward zero; divisor 0 gives all ones and Z; −2^63 ÷ −1 gives −2^63 and O. -/
def divSigned (a b : Dword) : Dword × BitVec 8 :=
  if b = 0 then (0xFFFFFFFFFFFFFFFF, flagZ)
  else if a = 0x8000000000000000 ∧ b = 0xFFFFFFFFFFFFFFFF then (0x8000000000000000, flagO)
  else (BitVec.sdiv a b, 0)

/-- `divu` (R50, R95). -/
def divUnsigned (a b : Dword) : Dword × BitVec 8 :=
  if b = 0 then (0xFFFFFFFFFFFFFFFF, flagZ) else (BitVec.udiv a b, 0)

/-- `rem` (R50, R95): the remainder takes the sign of the dividend. -/
def remSigned (a b : Dword) : Dword × BitVec 8 :=
  if b = 0 then (a, flagZ)
  else if a = 0x8000000000000000 ∧ b = 0xFFFFFFFFFFFFFFFF then (0, flagO)
  else (BitVec.srem a b, 0)

/-- `remu` (R50, R95). -/
def remUnsigned (a b : Dword) : Dword × BitVec 8 :=
  if b = 0 then (a, flagZ) else (BitVec.umod a b, 0)

/-- `mulh` (R95): the high 64 bits of the signed product. -/
def mulHigh (a b : Dword) : Dword := BitVec.ofInt 64 (a.toInt * b.toInt / 2 ^ 64)

/-- `mulhu` (R95): the high 64 bits of the unsigned product. -/
def mulHighU (a b : Dword) : Dword := BitVec.ofNat 64 (a.toNat * b.toNat / 2 ^ 64)

/-- `clz` (R94): the leading zero bits; 64 for zero. -/
def leadingZeros (a : Dword) : Dword := BitVec.ofNat 64 (64 - bitLen 64 a.toNat)

/-- `popc` (R94): the number of one bits. -/
def onesCount (a : Dword) : Dword := BitVec.ofNat 64 (popCount 64 a.toNat)

/-- `min` (R94): the smaller as signed. -/
def minSigned (a b : Dword) : Dword := if a.toInt ≤ b.toInt then a else b

/-- `max` (R94): the larger as signed. -/
def maxSigned (a b : Dword) : Dword := if a.toInt ≤ b.toInt then b else a

/-- The result of a scalar compare by its code (R96): 0 equal, 1 less, 2 less unsigned, 3 at most, 4 at most unsigned. -/
def compareRes (cc : Nat) (a b : Dword) : Bool :=
  match cc with
  | 0 => decide (a = b)
  | 1 => decide (a.toInt < b.toInt)
  | 2 => decide (a.toNat < b.toNat)
  | 3 => decide (a.toInt ≤ b.toInt)
  | _ => decide (a.toNat ≤ b.toNat)

end Sys2Proof.Machine
end

