-- ==== Sys2Proof/Objects.lean ====
section
/-! DEFINITION. The plain-data objects that events carry and that the state holds in flight: clocks, the issue context of a
word, register results waiting to land, memory accesses waiting to perform, steps of macro words, hand-offs, messages,
chain partials, barrier messages, flits and host accesses. -/

namespace Sys2Proof

/-- The clock an event's time is counted on (R6): the hub's, a stack zone's own clock (a trap handler, R362), or the
kernel time of group `g` in zone `z` (R338). -/
inductive Clk where
  | hub
  | zone (z : Nat)
  | kern (g z : Nat)
  deriving DecidableEq, Repr

/-- The 16 bytes of a window-table entry (R277), as its two little-endian doublewords. -/
structure WEntry where
  lo : Dword
  hi : Dword
  deriving DecidableEq, Repr

/-- The 64 bytes of a shape record (R148), as one little-endian integer. -/
abbrev ShapeImg := BitVec 512

/-- What a word carries from its packet's issue to its engine (R57, R63, R65): the strand's bank and group, the packet's
issue kc, the word's addresses, the predicates and scalar operands as read at issue, prefix payloads, the vector unit,
the rounding state (R47), and the records, tolerances and window table captured at dispatch (R153, R203, R280). -/
structure Ctx where
  bank : Nat
  grp : Nat
  pkc : Nat
  hand : Bool
  /-- The number of the thing that an event without fields acts on. -/
  arg : Nat
  waddr : Nat
  hdr : Nat
  nxt : Nat
  word : Word
  preds : BitVec 16
  ra : Dword
  rb : Dword
  rc : Dword
  rd : Dword
  pre : List (BitVec 24)
  unit : Nat
  vrm : BitVec 3
  seed : BitVec 32
  serial : BitVec 32
  ftz : Bool
  recs : List ShapeImg
  tol : List (BitVec 16)
  tbl : List WEntry
  /-- The word finishes at once, under drain semantics (R369). -/
  drain : Bool
  deriving DecidableEq, Repr

/-- One register write of a landing result. -/
inductive RegWr where
  | s (r : Nat) (v : Dword)
  | p (r : Nat) (v : Bool)
  | v (r : Nat) (x : Vec)
  | x (r : Nat) (x : Vec)
  | k (r : Nat) (x : Mask)
  deriving DecidableEq, Repr

/-- What takes place when a result lands. -/
inductive LandKind where
  /-- Registers receive values (R63, R116). -/
  | regs (ws : List RegWr)
  /-- A slot is defined with a record and its handle goes to a register (R157). -/
  | srdef (slot : Nat) (img : ShapeImg) (b : Nat)
  /-- A slot is retired (R158). -/
  | srkill (h : Dword)
  /-- `tksplit` completes (R233). -/
  | tkSplit (id a b : Nat)
  /-- `tkjoin` completes (R233). -/
  | tkJoin (lo up a b : Nat)
  /-- `tkqry` samples (at t + 11) for its result at t + 12 (R234, R235). -/
  | tkQry (f id b scope : Nat)
  /-- `tkshare.rv` withdraws a grant (R230). -/
  | tkShareRv (id tgt : Nat)
  /-- `tkret.sh` releases a share (R232). -/
  | tkRetSh (id : Nat)
  /-- A take completes (R231). -/
  | tkTaken (id : Nat) (share : Bool)
  /-- `tkmint` completes (R236). -/
  | tkMint (id b : Nat)
  /-- `tkmint.new` completes (R236). -/
  | tkMintNew (region : Dword) (b : Nat)
  /-- `barr.q` reads the mirror's phase (R354). -/
  | barPhase (idx b : Nat)
  /-- A `barr` reaches its hand-off kc H (R354): the arrival leaves for the hub of the barrier's package. -/
  | barArrive (pkg idx : Nat)
  /-- A `bwait` in loose mode completes, 1 kc after it is satisfied (R354). -/
  | barPassed (idx : Nat)
  deriving DecidableEq, Repr

/-- A result in flight: what lands, and the flags that are set with it (R53). -/
structure Landing where
  kind : LandKind
  flags : BitVec 8
  deriving DecidableEq, Repr

/-- The operation of a memory access that waits for its perform kc (R105). -/
inductive AccOp where
  | load (d : Nat) (signed : Bool)
  | store (data : Dword)
  | amo (op d : Nat) (b c : Dword)
  | vload (d : Nat) (nw : Bool) (latch : Nat)
  | vstore (data : Vec)
  | vgather (d : Nat) (nw : Bool) (latch : Nat) (lanes : List (Option Nat))
  | srdef (slot b : Nat)
  /-- A frame access of the handler (R363), at a byte offset of the frame. -/
  | frameLoad (d : Nat) (signed : Bool)
  | frameStore (data : Dword)
  /-- Step `k` of macro word `id` of the row (R193, R299). -/
  | step (id k : Nat)
  deriving DecidableEq, Repr

/-- A memory access in flight: its virtual and physical address, its length, its ordering class, and the landing delay of
its result after the perform kc. A step of a macro word may reach further runs of the same length, may write, has the
operand selector that a late fault of it names (R359), and, where it writes its runs in part only, their byte masks (R449). -/
structure Access where
  op : AccOp
  va : Nat
  pa : Nat
  len : Nat
  cls : Nat
  lag : Nat
  more : List Nat := []
  wr : Bool := false
  sel : Nat := 13
  masks : List Nat := []
  deriving DecidableEq, Repr

/-- What a token hand-off does (R228). -/
inductive HandKind where
  | lend | pass | share | ret
  deriving DecidableEq, Repr

/-- A token hand-off: the token id, giver, target, scope, the giver's zone and the stamp H (R451). -/
structure Handoff where
  kind : HandKind
  tok : Nat
  giver : Nat
  target : Nat
  scope : Nat
  zone : Nat
  stamp : Nat
  deriving DecidableEq, Repr

/-- A message of `xsend` (R263): the receiving group's strand and channel, the sender, and the lines. -/
structure Message where
  grp : Nat
  gstack : Nat
  grow : Nat
  chan : Nat
  sgstack : Nat
  sgrow : Nat
  lines : List (BitVec 512)
  deriving DecidableEq, Repr

/-- A chain partial on a stack edge or edge link (R181): the receiving row of the package, its entry, and the 64 column
values with the checksum column's value behind them. -/
structure Partial where
  grp : Nat
  row : Nat
  entry : Nat
  vals : List Word
  deriving DecidableEq, Repr

/-- A `barm` or `barm.free` on its way to the hub (R353). -/
structure BarmMsg where
  free : Bool
  idx : Nat
  ctx : Nat
  kern : Nat
  n : Nat
  bytes : Nat
  sig : Bool
  ctr : Nat
  deriving DecidableEq, Repr

/-- A barrier event (R350): an arrival with its credit, and the place it comes from, which orders it (R351). -/
structure BarEvent where
  idx : Nat
  ctx : Nat
  credit : Nat
  src : Nat
  /-- The payload of another package's `barr`, whose strand learns of a refusal (R349); 0 for every other event. -/
  back : Nat := 0
  deriving DecidableEq, Repr

/-- A mirror notice (R349). -/
structure BarNotice where
  stack : Nat
  idx : Nat
  state : Nat
  ctx : Nat
  phase : Bool
  trips : Nat
  deriving DecidableEq, Repr

/-- A flit (R387): its header, its 256 payload bytes and its CRC. -/
structure Flit where
  hdr : Dword
  payload : BitVec 2048
  crc : Dword
  deriving DecidableEq, Repr

/-- A host access over CXL.mem (R396): a write or a read of `len` bytes at an offset of the HDM range. -/
structure HostAcc where
  wr : Bool
  off : Nat
  len : Nat
  data : List Byte
  deriving DecidableEq, Repr

/-- One change of a window table asked for by a shoot-down (R287): the entry's index and its new value. -/
structure WChange where
  idx : Nat
  ent : WEntry
  deriving DecidableEq, Repr

end Sys2Proof
end

