-- ==== Sys2Proof/Syntax.lean ====
section
/-! DEFINITION. The instructions and events of the Trelwen D8: one constructor for each row of the opcode table. The first
188 are code words (R55, R73 to R75), whose fields are named as the table names them (R69 to R72); the other 92 are the
part's indivisible events, which have no encoding and carry what they act on. -/

namespace Sys2Proof

/-- A row of the opcode table. -/
inductive Instr where
  /-- A packet header issues: the packet is timed by R62, validated as a whole by R65, and its control word executes while its other words are steered to their engines (R59). -/
  | packetHeader (i : BitVec 8) (c : BitVec 3) (j : BitVec 13)
  /-- Sets sd to sa + sb modulo 2^64 (R94). -/
  | add (g : BitVec 4) (d : BitVec 5) (a : BitVec 5) (b : BitVec 5)
  /-- Sets sd to sa - sb modulo 2^64 (R94). -/
  | sub (g : BitVec 4) (d : BitVec 5) (a : BitVec 5) (b : BitVec 5)
  /-- Sets sd to sa AND sb (R94). -/
  | and (g : BitVec 4) (d : BitVec 5) (a : BitVec 5) (b : BitVec 5)
  /-- Sets sd to sa OR sb (R94). -/
  | or (g : BitVec 4) (d : BitVec 5) (a : BitVec 5) (b : BitVec 5)
  /-- Sets sd to sa XOR sb (R94). -/
  | xor (g : BitVec 4) (d : BitVec 5) (a : BitVec 5) (b : BitVec 5)
  /-- Shifts sa left by the low six bits of sb (R94). -/
  | shl (g : BitVec 4) (d : BitVec 5) (a : BitVec 5) (b : BitVec 5)
  /-- Shifts sa right with zero fill by the low six bits of sb (R94). -/
  | shr (g : BitVec 4) (d : BitVec 5) (a : BitVec 5) (b : BitVec 5)
  /-- Shifts sa right with sign fill by the low six bits of sb (R94). -/
  | shra (g : BitVec 4) (d : BitVec 5) (a : BitVec 5) (b : BitVec 5)
  /-- Sets sd to the smaller of sa and sb as signed values (R94). -/
  | min (g : BitVec 4) (d : BitVec 5) (a : BitVec 5) (b : BitVec 5)
  /-- Sets sd to the larger of sa and sb as signed values (R94). -/
  | max (g : BitVec 4) (d : BitVec 5) (a : BitVec 5) (b : BitVec 5)
  /-- Counts the leading zero bits of sa (R94). -/
  | clz (g : BitVec 4) (d : BitVec 5) (a : BitVec 5)
  /-- Counts the one bits of sa (R94). -/
  | popc (g : BitVec 4) (d : BitVec 5) (a : BitVec 5)
  /-- Sets sd to the low 64 bits of sa x sb (R95). -/
  | mul (g : BitVec 4) (d : BitVec 5) (a : BitVec 5) (b : BitVec 5)
  /-- Sets sd to the high 64 bits of the signed 128-bit product (R95). -/
  | mulh (g : BitVec 4) (d : BitVec 5) (a : BitVec 5) (b : BitVec 5)
  /-- Sets sd to the high 64 bits of the unsigned 128-bit product (R95). -/
  | mulhu (g : BitVec 4) (d : BitVec 5) (a : BitVec 5) (b : BitVec 5)
  /-- Signed division rounded toward zero; the divider is busy for 18 kc (R95). -/
  | div (g : BitVec 4) (d : BitVec 5) (a : BitVec 5) (b : BitVec 5)
  /-- Unsigned division; the divider is busy for 18 kc (R95). -/
  | divu (g : BitVec 4) (d : BitVec 5) (a : BitVec 5) (b : BitVec 5)
  /-- Remainder of signed division, taking the sign of the dividend (R95). -/
  | rem (g : BitVec 4) (d : BitVec 5) (a : BitVec 5) (b : BitVec 5)
  /-- Remainder of unsigned division (R95). -/
  | remu (g : BitVec 4) (d : BitVec 5) (a : BitVec 5) (b : BitVec 5)
  /-- Writes a predicate pair with sa = sb and its complement (R96). -/
  | cmpEq (g : BitVec 4) (d : BitVec 5) (a : BitVec 5) (b : BitVec 5)
  /-- Writes a predicate pair with signed sa < sb and its complement (R96). -/
  | cmpLt (g : BitVec 4) (d : BitVec 5) (a : BitVec 5) (b : BitVec 5)
  /-- Writes a predicate pair with unsigned sa < sb and its complement (R96). -/
  | cmpLtu (g : BitVec 4) (d : BitVec 5) (a : BitVec 5) (b : BitVec 5)
  /-- Writes a predicate pair with signed sa <= sb and its complement (R96). -/
  | cmpLe (g : BitVec 4) (d : BitVec 5) (a : BitVec 5) (b : BitVec 5)
  /-- Writes a predicate pair with unsigned sa <= sb and its complement (R96). -/
  | cmpLeu (g : BitVec 4) (d : BitVec 5) (a : BitVec 5) (b : BitVec 5)
  /-- Sets predicate pd to pa AND pb (R97). -/
  | pand (g : BitVec 4) (d : BitVec 5) (a : BitVec 5) (b : BitVec 5)
  /-- Sets predicate pd to pa OR pb (R97). -/
  | por (g : BitVec 4) (d : BitVec 5) (a : BitVec 5) (b : BitVec 5)
  /-- Sets predicate pd to pa XOR pb (R97). -/
  | pxor (g : BitVec 4) (d : BitVec 5) (a : BitVec 5) (b : BitVec 5)
  /-- Sets predicate pd to pa AND NOT pb (R97). -/
  | pandn (g : BitVec 4) (d : BitVec 5) (a : BitVec 5) (b : BitVec 5)
  /-- Branches to the header address in sa and, for a nonzero d, writes a link (R99). -/
  | jr (g : BitVec 4) (d : BitVec 5) (a : BitVec 5)
  /-- Sets sd to sa plus a sign-extended immediate (R94). -/
  | addi (g : BitVec 4) (d : BitVec 5) (a : BitVec 5) (i : BitVec 9)
  /-- Sets sd to sa AND a sign-extended immediate (R94). -/
  | andi (g : BitVec 4) (d : BitVec 5) (a : BitVec 5) (i : BitVec 9)
  /-- Sets sd to sa OR a sign-extended immediate (R94). -/
  | ori (g : BitVec 4) (d : BitVec 5) (a : BitVec 5) (i : BitVec 9)
  /-- Sets sd to sa XOR a sign-extended immediate (R94). -/
  | xori (g : BitVec 4) (d : BitVec 5) (a : BitVec 5) (i : BitVec 9)
  /-- Shifts sa left by an immediate from 0 to 63 (R94). -/
  | shli (g : BitVec 4) (d : BitVec 5) (a : BitVec 5) (i : BitVec 9)
  /-- Shifts sa right with zero fill by an immediate (R94). -/
  | shri (g : BitVec 4) (d : BitVec 5) (a : BitVec 5) (i : BitVec 9)
  /-- Shifts sa right with sign fill by an immediate (R94). -/
  | shrai (g : BitVec 4) (d : BitVec 5) (a : BitVec 5) (i : BitVec 9)
  /-- Writes a predicate pair with sa equal to the immediate (R96). -/
  | cmpiEq (g : BitVec 4) (d : BitVec 5) (a : BitVec 5) (i : BitVec 9)
  /-- Writes a predicate pair with signed sa below the immediate (R96). -/
  | cmpiLt (g : BitVec 4) (d : BitVec 5) (a : BitVec 5) (i : BitVec 9)
  /-- Writes a predicate pair with unsigned sa below the sign-extended immediate (R96). -/
  | cmpiLtu (g : BitVec 4) (d : BitVec 5) (a : BitVec 5) (i : BitVec 9)
  /-- Branches to the packet at its own header plus 4 x off19 (R98). -/
  | br (g : BitVec 4) (o : BitVec 19)
  /-- Branches like br and writes s1 with the header address of the following packet (R98). -/
  | call (g : BitVec 4) (o : BitVec 19)
  /-- Starts a hardware loop with its trip count from register sa (R100). -/
  | loop (a : BitVec 5) (l : BitVec 14)
  /-- Starts a hardware loop with an immediate trip count (R100). -/
  | loopi (c : BitVec 10) (l : BitVec 9)
  /-- Loads a sign-extended byte (R103). -/
  | ldB (g : BitVec 4) (t : BitVec 5) (a : BitVec 5) (c : BitVec 4) (o : BitVec 5)
  /-- Loads a zero-extended byte (R103). -/
  | ldBu (g : BitVec 4) (t : BitVec 5) (a : BitVec 5) (c : BitVec 4) (o : BitVec 5)
  /-- Loads a sign-extended halfword (R103). -/
  | ldH (g : BitVec 4) (t : BitVec 5) (a : BitVec 5) (c : BitVec 4) (o : BitVec 5)
  /-- Loads a zero-extended halfword (R103). -/
  | ldHu (g : BitVec 4) (t : BitVec 5) (a : BitVec 5) (c : BitVec 4) (o : BitVec 5)
  /-- Loads a sign-extended word (R103). -/
  | ldW (g : BitVec 4) (t : BitVec 5) (a : BitVec 5) (c : BitVec 4) (o : BitVec 5)
  /-- Loads a zero-extended word (R103). -/
  | ldWu (g : BitVec 4) (t : BitVec 5) (a : BitVec 5) (c : BitVec 4) (o : BitVec 5)
  /-- Loads a doubleword (R103). -/
  | ldD (g : BitVec 4) (t : BitVec 5) (a : BitVec 5) (c : BitVec 4) (o : BitVec 5)
  /-- Stores a byte (R103). -/
  | stB (g : BitVec 4) (t : BitVec 5) (a : BitVec 5) (c : BitVec 4) (o : BitVec 5)
  /-- Stores a halfword (R103). -/
  | stH (g : BitVec 4) (t : BitVec 5) (a : BitVec 5) (c : BitVec 4) (o : BitVec 5)
  /-- Stores a word (R103). -/
  | stW (g : BitVec 4) (t : BitVec 5) (a : BitVec 5) (c : BitVec 4) (o : BitVec 5)
  /-- Stores a doubleword (R103). -/
  | stD (g : BitVec 4) (t : BitVec 5) (a : BitVec 5) (c : BitVec 4) (o : BitVec 5)
  /-- Atomically adds sb to the doubleword at sa and returns the old value (R106). -/
  | amoAdd (g : BitVec 4) (d : BitVec 5) (a : BitVec 5) (b : BitVec 5) (c : BitVec 4)
  /-- Atomically ANDs sb into the doubleword at sa (R106). -/
  | amoAnd (g : BitVec 4) (d : BitVec 5) (a : BitVec 5) (b : BitVec 5) (c : BitVec 4)
  /-- Atomically ORs sb into the doubleword at sa (R106). -/
  | amoOr (g : BitVec 4) (d : BitVec 5) (a : BitVec 5) (b : BitVec 5) (c : BitVec 4)
  /-- Atomically stores the signed maximum of the old value and sb (R106). -/
  | amoMax (g : BitVec 4) (d : BitVec 5) (a : BitVec 5) (b : BitVec 5) (c : BitVec 4)
  /-- Atomically swaps sb with the doubleword at sa (R106). -/
  | amoSwap (g : BitVec 4) (d : BitVec 5) (a : BitVec 5) (b : BitVec 5) (c : BitVec 4)
  /-- Atomically stores sb if the old value equals sd (R106). -/
  | amoCas (g : BitVec 4) (d : BitVec 5) (a : BitVec 5) (b : BitVec 5) (c : BitVec 4)
  /-- Reads a CSR into sd (R108). -/
  | csrr (g : BitVec 4) (d : BitVec 5) (c : BitVec 12)
  /-- Writes sa to the RW fields of a CSR (R108). -/
  | csrw (g : BitVec 4) (d : BitVec 5) (c : BitVec 12)
  /-- Sets the bits of sa in a CSR (R108). -/
  | csrs (g : BitVec 4) (d : BitVec 5) (c : BitVec 12)
  /-- Clears the bits of sa in a CSR (R108). -/
  | csrc (g : BitVec 4) (d : BitVec 5) (c : BitVec 12)
  /-- trap 0 ends the strand, which goes to done (R109). -/
  | trapEnd (g : BitVec 4)
  /-- trap 1 to 511 enters the handler with cause 0x38 under freeze semantics (R109). -/
  | trapService (g : BitVec 4) (n : BitVec 9)
  /-- Samples aflags AND aen and raises cause 0x20 if the result is nonzero (R111). -/
  | tfence (g : BitVec 4)
  /-- Adds FP32 lanes with one rounding (R129). -/
  | vfaddF32 (g : BitVec 4) (d : BitVec 6) (a : BitVec 6) (b : BitVec 6) (n : BitVec 1)
  /-- Adds the BF16 element pairs of each lane (R129). -/
  | vfaddBf16 (g : BitVec 4) (d : BitVec 6) (a : BitVec 6) (b : BitVec 6) (n : BitVec 1)
  /-- Subtracts FP32 lanes (R129). -/
  | vfsubF32 (g : BitVec 4) (d : BitVec 6) (a : BitVec 6) (b : BitVec 6) (n : BitVec 1)
  /-- Subtracts BF16 elements (R129). -/
  | vfsubBf16 (g : BitVec 4) (d : BitVec 6) (a : BitVec 6) (b : BitVec 6) (n : BitVec 1)
  /-- Multiplies FP32 lanes (R129). -/
  | vfmulF32 (g : BitVec 4) (d : BitVec 6) (a : BitVec 6) (b : BitVec 6) (n : BitVec 1)
  /-- Multiplies BF16 elements (R129). -/
  | vfmulBf16 (g : BitVec 4) (d : BitVec 6) (a : BitVec 6) (b : BitVec 6) (n : BitVec 1)
  /-- Fused multiply-add of FP32 lanes onto the destination operand (R129). -/
  | vfmaF32 (g : BitVec 4) (d : BitVec 6) (a : BitVec 6) (b : BitVec 6) (n : BitVec 1)
  /-- Fused multiply-add of BF16 elements (R129). -/
  | vfmaBf16 (g : BitVec 4) (d : BitVec 6) (a : BitVec 6) (b : BitVec 6) (n : BitVec 1)
  /-- Takes the larger FP32 value of each lane (R129). -/
  | vfmaxF32 (g : BitVec 4) (d : BitVec 6) (a : BitVec 6) (b : BitVec 6) (n : BitVec 1)
  /-- Takes the smaller FP32 value of each lane (R129). -/
  | vfminF32 (g : BitVec 4) (d : BitVec 6) (a : BitVec 6) (b : BitVec 6) (n : BitVec 1)
  /-- Computes the correctly rounded reciprocal of each lane (R130). -/
  | vfrcp (g : BitVec 4) (d : BitVec 6) (a : BitVec 6) (n : BitVec 1)
  /-- Computes the correctly rounded reciprocal square root of each lane (R130). -/
  | vfrsq (g : BitVec 4) (d : BitVec 6) (a : BitVec 6) (n : BitVec 1)
  /-- Computes 2^x for each lane (R130). -/
  | vfexp2 (g : BitVec 4) (d : BitVec 6) (a : BitVec 6) (n : BitVec 1)
  /-- Writes a lane mask of FP32 equality (R131). -/
  | vfcmpEq (g : BitVec 4) (d : BitVec 6) (a : BitVec 6) (b : BitVec 6)
  /-- Writes a lane mask of FP32 less-than (R131). -/
  | vfcmpLt (g : BitVec 4) (d : BitVec 6) (a : BitVec 6) (b : BitVec 6)
  /-- Writes a lane mask of FP32 less-or-equal (R131). -/
  | vfcmpLe (g : BitVec 4) (d : BitVec 6) (a : BitVec 6) (b : BitVec 6)
  /-- Adds lanes modulo 2^32 (R133). -/
  | vaddI32 (g : BitVec 4) (d : BitVec 6) (a : BitVec 6) (b : BitVec 6) (n : BitVec 1)
  /-- Adds 16-bit elements modulo 2^16 (R133). -/
  | vaddI16 (g : BitVec 4) (d : BitVec 6) (a : BitVec 6) (b : BitVec 6) (n : BitVec 1)
  /-- Subtracts lanes modulo 2^32 (R133). -/
  | vsubI32 (g : BitVec 4) (d : BitVec 6) (a : BitVec 6) (b : BitVec 6) (n : BitVec 1)
  /-- Keeps the low 32 bits of each lane product (R133). -/
  | vmulI32 (g : BitVec 4) (d : BitVec 6) (a : BitVec 6) (b : BitVec 6) (n : BitVec 1)
  /-- Bitwise AND of lanes (R133). -/
  | vand (g : BitVec 4) (d : BitVec 6) (a : BitVec 6) (b : BitVec 6) (n : BitVec 1)
  /-- Bitwise OR of lanes (R133). -/
  | vor (g : BitVec 4) (d : BitVec 6) (a : BitVec 6) (b : BitVec 6) (n : BitVec 1)
  /-- Bitwise XOR of lanes (R133). -/
  | vxor (g : BitVec 4) (d : BitVec 6) (a : BitVec 6) (b : BitVec 6) (n : BitVec 1)
  /-- Shifts each lane left (R133). -/
  | vshl (g : BitVec 4) (d : BitVec 6) (a : BitVec 6) (b : BitVec 6) (n : BitVec 1)
  /-- Shifts each lane right with zero fill (R133). -/
  | vshr (g : BitVec 4) (d : BitVec 6) (a : BitVec 6) (b : BitVec 6) (n : BitVec 1)
  /-- Shifts each lane right with sign fill (R133). -/
  | vshra (g : BitVec 4) (d : BitVec 6) (a : BitVec 6) (b : BitVec 6) (n : BitVec 1)
  /-- Takes the signed minimum of each lane (R133). -/
  | vminI32 (g : BitVec 4) (d : BitVec 6) (a : BitVec 6) (b : BitVec 6) (n : BitVec 1)
  /-- Takes the signed maximum of each lane (R133). -/
  | vmaxI32 (g : BitVec 4) (d : BitVec 6) (a : BitVec 6) (b : BitVec 6) (n : BitVec 1)
  /-- Computes a three-input bitwise function from the truth table in its prefix (R134). -/
  | vlut3 (g : BitVec 4) (d : BitVec 6) (a : BitVec 6) (b : BitVec 6) (n : BitVec 1)
  /-- Funnel-shifts each lane against a partner lane (R135). -/
  | vfsh (g : BitVec 4) (d : BitVec 6) (a : BitVec 6) (b : BitVec 6) (n : BitVec 1)
  /-- Writes a lane mask of bit-pattern equality (R131). -/
  | vcmpEq (g : BitVec 4) (d : BitVec 6) (a : BitVec 6) (b : BitVec 6)
  /-- Writes a lane mask of signed less-than (R131). -/
  | vcmpLt (g : BitVec 4) (d : BitVec 6) (a : BitVec 6) (b : BitVec 6)
  /-- Writes a lane mask of unsigned less-than (R131). -/
  | vcmpLtu (g : BitVec 4) (d : BitVec 6) (a : BitVec 6) (b : BitVec 6)
  /-- Narrows two FP32 sources to BF16 in the vrm mode (R138). -/
  | vcvtBf16F32 (g : BitVec 4) (d : BitVec 6) (a : BitVec 6) (b : BitVec 6) (n : BitVec 1)
  /-- Widens one BF16 half of each lane to FP32 (R138). -/
  | vcvtF32Bf16 (g : BitVec 4) (d : BitVec 6) (a : BitVec 6) (h : BitVec 1) (n : BitVec 1)
  /-- Converts INT32 lanes to FP32 in the vrm mode (R138). -/
  | vcvtF32I32 (g : BitVec 4) (d : BitVec 6) (a : BitVec 6) (n : BitVec 1)
  /-- Converts FP32 lanes to INT32 with saturation (R43). -/
  | vcvtI32F32 (g : BitVec 4) (d : BitVec 6) (a : BitVec 6) (n : BitVec 1)
  /-- Packs 128 FP32 values as E4M3 codes into one quarter of the destination (R138). -/
  | vcvtE4m3F32 (g : BitVec 4) (d : BitVec 6) (a : BitVec 6) (q : BitVec 2) (n : BitVec 1)
  /-- Expands one quarter of E4M3 codes to FP32 exactly (R138). -/
  | vcvtF32E4m3 (g : BitVec 4) (d : BitVec 6) (a : BitVec 6) (q : BitVec 2) (n : BitVec 1)
  /-- Quantises 128 FP32 lanes into one E2M1 block and its header (R139). -/
  | vqntE2m1 (g : BitVec 4) (d : BitVec 6) (a : BitVec 6) (q : BitVec 2) (n : BitVec 1)
  /-- Dequantises one E2M1 block to FP32 (R140). -/
  | vdqntE2m1 (g : BitVec 4) (d : BitVec 6) (a : BitVec 6) (q : BitVec 2) (n : BitVec 1)
  /-- Copies a vector or latch (R136). -/
  | vmov (g : BitVec 4) (d : BitVec 6) (a : BitVec 6) (n : BitVec 1)
  /-- Broadcasts the low 32 bits of a scalar to every lane (R136). -/
  | vbcast (g : BitVec 4) (d : BitVec 6) (s : BitVec 5)
  /-- Rotates lanes within aligned segments (R137). -/
  | vrot (g : BitVec 4) (d : BitVec 6) (a : BitVec 6) (i : BitVec 6) (n : BitVec 1)
  /-- Permutes lanes by an index vector (R136). -/
  | vperm (g : BitVec 4) (d : BitVec 6) (a : BitVec 6) (b : BitVec 6) (n : BitVec 1)
  /-- Selects lanes from a or b by mask k0 (R136). -/
  | vsel (g : BitVec 4) (d : BitVec 6) (a : BitVec 6) (b : BitVec 6) (n : BitVec 1)
  /-- Loads a 512-byte vector from scratchpad or stack SRAM (R141). -/
  | vld (g : BitVec 4) (d : BitVec 6) (s : BitVec 5) (o : BitVec 4) (c : BitVec 4)
  /-- Stores a 512-byte vector or latch (R141). -/
  | vst (g : BitVec 4) (d : BitVec 6) (s : BitVec 5) (o : BitVec 4) (c : BitVec 4)
  /-- Gathers one word per lane from the gather region; out-of-range lanes return zero and raise G (R142). -/
  | vldg (g : BitVec 4) (d : BitVec 6) (a : BitVec 6) (s : BitVec 5) (c : BitVec 2)
  /-- Tree-sums FP32 lanes within segments (R143). -/
  | vredAdd (g : BitVec 4) (d : BitVec 6) (a : BitVec 6) (s : BitVec 3) (n : BitVec 1)
  /-- Tree-maximises FP32 lanes within segments (R143). -/
  | vredMax (g : BitVec 4) (d : BitVec 6) (a : BitVec 6) (s : BitVec 3) (n : BitVec 1)
  /-- Sets a predicate slot to whether any bit of a mask is set (R132). -/
  | vany (g : BitVec 4) (d : BitVec 6) (a : BitVec 6)
  /-- Appends the lanes selected by k0 to a stream (R144). -/
  | vpush (g : BitVec 4) (d : BitVec 6) (a : BitVec 6)
  /-- Appends the selected lanes through the routing switch, balancing the paired streams (R145). -/
  | vpushBal (g : BitVec 4) (d : BitVec 6) (a : BitVec 6)
  /-- Takes up to 128 entries from a stream head into a vector and a mask (R146). -/
  | vpop (g : BitVec 4) (d : BitVec 6) (a : BitVec 6) (b : BitVec 6) (n : BitVec 1)
  /-- ANDs two lane masks (R132). -/
  | kand (g : BitVec 4) (d : BitVec 6) (a : BitVec 6) (b : BitVec 6)
  /-- ORs two lane masks (R132). -/
  | kor (g : BitVec 4) (d : BitVec 6) (a : BitVec 6) (b : BitVec 6)
  /-- Inverts a lane mask (R132). -/
  | knot (g : BitVec 4) (d : BitVec 6) (a : BitVec 6)
  /-- Fills a creel buffer of the active cells with one pass of a creel-order record (R172). -/
  | mload (g : BitVec 4) (a : BitVec 5) (b : BitVec 5) (c : BitVec 1)
  /-- Fills a creel buffer from k-major lines, transposing them (R168). -/
  | mloadt (g : BitVec 4) (a : BitVec 5) (b : BitVec 5) (c : BitVec 1)
  /-- Multiplies M activation rows by E2M1 weights into a tile (R175). -/
  | mmulE2m1 (g : BitVec 4) (t : BitVec 2) (a : BitVec 5) (b : BitVec 5) (c : BitVec 1) (k : BitVec 1) (u : BitVec 1)
  /-- Matrix product in E4M3 (R175). -/
  | mmulE4m3 (g : BitVec 4) (t : BitVec 2) (a : BitVec 5) (b : BitVec 5) (c : BitVec 1) (k : BitVec 1) (u : BitVec 1)
  /-- Matrix product in E5M2 (R175). -/
  | mmulE5m2 (g : BitVec 4) (t : BitVec 2) (a : BitVec 5) (b : BitVec 5) (c : BitVec 1) (k : BitVec 1) (u : BitVec 1)
  /-- Matrix product in INT8 with INT32 accumulation (R175). -/
  | mmulI8 (g : BitVec 4) (t : BitVec 2) (a : BitVec 5) (b : BitVec 5) (c : BitVec 1) (k : BitVec 1) (u : BitVec 1)
  /-- Matrix product in BF16 (R175). -/
  | mmulBf16 (g : BitVec 4) (t : BitVec 2) (a : BitVec 5) (b : BitVec 5) (c : BitVec 1) (k : BitVec 1) (u : BitVec 1)
  /-- Matrix product in FP16 (R175). -/
  | mmulF16 (g : BitVec 4) (t : BitVec 2) (a : BitVec 5) (b : BitVec 5) (c : BitVec 1) (k : BitVec 1) (u : BitVec 1)
  /-- Matrix product with activation rows gathered by an index vector (R178). -/
  | mmulg (g : BitVec 4) (t : BitVec 2) (a : BitVec 5) (b : BitVec 5) (f : BitVec 3) (c : BitVec 1) (k : BitVec 1) (u : BitVec 1)
  /-- Runs G ragged groups, each loading its own weights and multiplying its rows (R180). -/
  | mgrp (g : BitVec 4) (t : BitVec 2) (a : BitVec 5) (b : BitVec 5) (f : BitVec 3) (c : BitVec 1) (k : BitVec 1) (u : BitVec 1)
  /-- Matrix product with activation rows formed by implicit convolution (R179). -/
  | mconv (g : BitVec 4) (t : BitVec 2) (a : BitVec 5) (b : BitVec 5) (f : BitVec 3) (c : BitVec 1) (k : BitVec 1) (u : BitVec 1)
  /-- Scales a source tile by column and row scales into a destination tile (R186). -/
  | mscl (g : BitVec 4) (t : BitVec 2) (a : BitVec 5) (b : BitVec 5) (u : BitVec 1)
  /-- Drains tile rows unchanged to scratchpad, optionally after the checksum comparison (R187). -/
  | mdrainF32 (g : BitVec 4) (t : BitVec 2) (a : BitVec 5) (b : BitVec 5) (k : BitVec 1) (z : BitVec 1)
  /-- Drains FP32 tile rows as BF16 in the mmode rounding mode (R187). -/
  | mdrainBf16 (g : BitVec 4) (t : BitVec 2) (a : BitVec 5) (b : BitVec 5) (k : BitVec 1) (z : BitVec 1)
  /-- Clears a tile from any state (R188). -/
  | mzero (g : BitVec 4) (t : BitVec 2)
  /-- Sets the row's drain-mode entry: mode, SRH seed and serial base (R189). -/
  | mmode (g : BitVec 4) (a : BitVec 5) (b : BitVec 5)
  /-- Reruns the comparison on a held tile and writes failing-line bitmaps (R212). -/
  | ckloc (g : BitVec 4) (t : BitVec 2) (a : BitVec 5)
  /-- Recomputes the single located element of a held tile and rechecks it (R213). -/
  | ckfix (g : BitVec 4) (t : BitVec 2)
  /-- Arms a one-shot bit-flip injection on a tile (R214). -/
  | ckinj (g : BitVec 4) (t : BitVec 2) (b : BitVec 5)
  /-- Writes stored tile or checksum values to scratchpad (R215). -/
  | ckrd (g : BitVec 4) (t : BitVec 2) (a : BitVec 5) (b : BitVec 5)
  /-- Reruns a held tile's single product with checks (R216). -/
  | mrty (g : BitVec 4) (t : BitVec 2)
  /-- Copies elements between two records within the zone, optionally swapping dim0 and dim1 (R260). -/
  | xcopy (g : BitVec 4) (a : BitVec 5) (b : BitVec 5) (c : BitVec 5) (l : BitVec 4)
  /-- Sends the lines of a record to a receive channel of a strand of the group (R263). -/
  | xsend (g : BitVec 4) (a : BitVec 5) (b : BitVec 5) (l : BitVec 4)
  /-- Takes a channel's message and writes it to a destination record (R264). -/
  | xrecv (g : BitVec 4) (a : BitVec 5) (b : BitVec 5) (c : BitVec 5) (l : BitVec 4)
  /-- Submits a job card (R268). -/
  | xjob (g : BitVec 4) (a : BitVec 5) (b : BitVec 5)
  /-- Submits a job card that carries a follow-on M word (R268). -/
  | xjobf (g : BitVec 4) (a : BitVec 5) (b : BitVec 5)
  /-- Orders the later covered events after the earlier ones have performed at a scope (R251). -/
  | fence (g : BitVec 4) (s : BitVec 4) (m : BitVec 16)
  /-- Lends an owned token to a target agent (R229). -/
  | tklend (g : BitVec 4) (a : BitVec 5) (b : BitVec 5) (s : BitVec 4)
  /-- Hands an owned token over for good (R229). -/
  | tklendPass (g : BitVec 4) (a : BitVec 5) (b : BitVec 5) (s : BitVec 4)
  /-- Grants a read share of an owned token (R230). -/
  | tkshare (g : BitVec 4) (a : BitVec 5) (b : BitVec 5) (s : BitVec 4)
  /-- Withdraws a share grant that has not been taken (R230). -/
  | tkshareRv (g : BitVec 4) (a : BitVec 5) (b : BitVec 5) (s : BitVec 4)
  /-- Takes a token handed to the caller, within a slack in timed mode (R231). -/
  | tktake (g : BitVec 4) (a : BitVec 5) (b : BitVec 5) (s : BitVec 4)
  /-- Takes a read share granted to the caller (R231). -/
  | tktakeSh (g : BitVec 4) (a : BitVec 5) (b : BitVec 5) (s : BitVec 4)
  /-- Returns a lent token to its lender (R232). -/
  | tkret (g : BitVec 4) (a : BitVec 5) (s : BitVec 4)
  /-- Releases the caller's read share (R232). -/
  | tkretSh (g : BitVec 4) (a : BitVec 5) (s : BitVec 4)
  /-- Splits an owned token's region into two halves (R233). -/
  | tksplit (g : BitVec 4) (a : BitVec 5) (b : BitVec 5)
  /-- Joins two adjacent owned tokens into one (R233). -/
  | tkjoin (g : BitVec 4) (a : BitVec 5) (b : BitVec 5)
  /-- Returns a token's holder, size, shares and state (R234). -/
  | tkqry (g : BitVec 4) (a : BitVec 5) (b : BitVec 5) (s : BitVec 4)
  /-- Returns a token region's global physical base (R234). -/
  | tkqryBase (g : BitVec 4) (a : BitVec 5) (b : BitVec 5) (s : BitVec 4)
  /-- Returns a token's target and lender (R234). -/
  | tkqryAg (g : BitVec 4) (a : BitVec 5) (b : BitVec 5) (s : BitVec 4)
  /-- Recovers a lost or orphaned token for the recovery strand (R236). -/
  | tkmint (g : BitVec 4) (a : BitVec 5) (b : BitVec 5)
  /-- Mints a new token for a region (R236). -/
  | tkmintNew (g : BitVec 4) (a : BitVec 5) (b : BitVec 5)
  /-- Arms a free barrier of the own package with arrival and byte counts (R353). -/
  | barm (g : BitVec 4) (a : BitVec 5) (b : BitVec 5)
  /-- Returns a barrier to free (R353). -/
  | barmFree (g : BitVec 4) (a : BitVec 5)
  /-- Arrives at a barrier as a release (R354). -/
  | barr (g : BitVec 4) (a : BitVec 5) (s : BitVec 4)
  /-- Reads a barrier's mirrored phase without arriving (R354). -/
  | barrQ (g : BitVec 4) (a : BitVec 5) (b : BitVec 5) (s : BitVec 4)
  /-- Waits for a barrier's phase to change from the one expected (R354). -/
  | bwait (g : BitVec 4) (a : BitVec 5) (b : BitVec 5) (s : BitVec 4)
  /-- Arms a stop of the group's kernel time at kc K for realignment of all zones (R345). -/
  | realign (g : BitVec 4) (a : BitVec 5) (b : BitVec 5) (s : BitVec 4)
  /-- Copies a shape record image into a slot and returns the new handle (R157). -/
  | srdef (g : BitVec 4) (a : BitVec 5) (b : BitVec 5)
  /-- Retires the slot that a handle names (R158). -/
  | srkill (g : BitVec 4) (a : BitVec 5)
  /-- Bit-serial add of bank operands (R295). -/
  | badd (g : BitVec 4) (a : BitVec 5) (b : BitVec 5) (d : BitVec 5) (t : BitVec 1) (u : BitVec 1)
  /-- Bit-serial subtract of bank operands (R295). -/
  | bsub (g : BitVec 4) (a : BitVec 5) (b : BitVec 5) (d : BitVec 5) (t : BitVec 1) (u : BitVec 1)
  /-- Bit-serial multiply of bank operands (R295). -/
  | bmul (g : BitVec 4) (a : BitVec 5) (b : BitVec 5) (d : BitVec 5) (t : BitVec 1) (u : BitVec 1)
  /-- Bit-serial multiply-accumulate into d (R295). -/
  | bmac (g : BitVec 4) (a : BitVec 5) (b : BitVec 5) (d : BitVec 5) (t : BitVec 1) (u : BitVec 1)
  /-- Bit-serial compare of bank operands into a 0/1 result (R295). -/
  | bcmp (g : BitVec 4) (a : BitVec 5) (b : BitVec 5) (d : BitVec 5) (v : BitVec 1) (c : BitVec 2)
  /-- Bit-serial two-input logic by a 4-bit table (R295). -/
  | blog (g : BitVec 4) (a : BitVec 5) (b : BitVec 5) (d : BitVec 5) (t : BitVec 4)
  /-- Reduces each slice of a bank operand into one element (R295). -/
  | bsum (g : BitVec 4) (a : BitVec 5) (d : BitVec 5) (t : BitVec 1) (u : BitVec 1)
  /-- A loose-mode wait at issue ends and the held packet issues (R83). -/
  | looseWaitEnd (bank : Nat)
  /-- The M word at the queue head issues once the engine, its resources and its inputs are ready (R163). -/
  | mQueueIssue (row win : Nat)
  /-- The B word at the queue head issues once the engine and its bank groups are free (R296). -/
  | bQueueIssue (row : Nat)
  /-- A word's result lands in its latch and destination register at issue plus latency (R116). -/
  | resultLand (l : Landing)
  /-- A memory access performs at its perform kc, checked at the memory for residency and data integrity (R105). -/
  | accessPerform (a : Access)
  /-- After the page move completes, bounced lines are applied, the entry marked resident and the word released (R283). -/
  | pagerRelease (pf : Nat)
  /-- A banked-out strand whose page is resident is switched back in (R92). -/
  | bankedOutReturn (bank : Nat)
  /-- When a freeze ends, every zone resumes at its stopped frame kc P frames later (R343). -/
  | freezeRelease (g : Nat)
  /-- The lowest pending interrupt is taken at the next packet point while ie is set (R370). -/
  | interruptTaken (bank : Nat)
  /-- Kernel time reaches the armed timer kc and sub-code 0x01 becomes pending (R370). -/
  | interruptTimerExpiry (bank : Nat)
  /-- After the resubmitted jobs complete, kernel time restarts from the snapshots (R452). -/
  | phaseRestart (g : Nat)
  /-- The management path enables a queue (R322). -/
  | queueEnable (blk : Nat)
  /-- The runtime restarts a stopped queue with a new ci (R322). -/
  | queueRestart (q ci : Nat)
  /-- The runtime opens a context with a well-formed block (R304). -/
  | contextOpen (blk : Nat)
  /-- A placed wave is released and kernel time starts at each zone's frame boundary (R346). -/
  | waveRelease (w : Nat)
  /-- A completing kernel hands over tokens, writes res and adds to done (R332). -/
  | kernelComplete (k : Nat)
  /-- The scheduler posts a yield request with a count d (R309). -/
  | yieldRequestPost (g d : Nat)
  /-- A zone arms the arriving request, setting yreq and ydl (R309). -/
  | yieldRequestArm (g z d : Nat)
  /-- The yield deadline expires and the group is forcibly pre-empted (R309). -/
  | yieldDeadlineExpiry (g : Nat)
  /-- The runtime posts a shoot-down and stacks with locked copies are marked pending (R287). -/
  | shootdownPost (k : Nat) (chg : List WChange)
  /-- A stack acknowledges once its strands have stopped at node packets (R288). -/
  | shootdownAck (k z : Nat)
  /-- After every acknowledgement the hub writes the changed entries and kernel time restarts (R287). -/
  | shootdownUpdate (k : Nat)
  /-- The runtime arms a strand's timer interrupt through the management path (R370). -/
  | timerArm (bank kc : Nat)
  /-- The runtime posts a message interrupt to a strand (R370). -/
  | runtimeMessagePost (bank payload : Nat)
  /-- The runtime registers a context's host window table (R396). -/
  | hostWindowTableRegister (c addr n : Nat)
  /-- A zone stops the group's kernel time at the end of kc K and reports to the hub (R345). -/
  | realignStop (g z : Nat)
  /-- After every zone reports, the hub releases the group to resume at K + 1 (R345). -/
  | realignRelease (g : Nat)
  /-- A timed realign slack expires and the strand takes 0x13 (R345). -/
  | realignTimeout (bank : Nat)
  /-- At hand-off kc H the giver's writes are written back and the token goes in flight (R228). -/
  | handoffRelease (h : Handoff)
  /-- A hand-off reaches its target, completing a waiting take or restoring the lender (R451). -/
  | handoffArrival (h : Handoff)
  /-- A timed take's slack expires without the hand-off and raises 0x13 (R231). -/
  | tktakeTimeout (id : Nat) (share : Bool)
  /-- A ready job is chosen by priority and runs its accesses (R270). -/
  | jobStart (job : Nat)
  /-- Bounce space frees and a parked job retries its write (R270). -/
  | jobUnpark (job : Nat)
  /-- A completed job disposes its tokens, credits its barrier and enqueues its follow-on (R271). -/
  | jobComplete (job : Nat)
  /-- An xsend message reaches its channel whole, or is orphaned if the channel is full (R263). -/
  | messageArrival (m : Message)
  /-- A timed receive's slack expires with no message and raises 0x13 (R264). -/
  | xrecvTimeout (id : Nat)
  /-- A held message unconsumed 256 kc after arrival raises 0x12 and is discarded (R265). -/
  | orphanMessageTimeout (chan serial : Nat)
  /-- A chain partial arrives over a stack or package edge into the edge buffer (R182). -/
  | chainPartialArrival (p : Partial)
  /-- A barm or barm.free reaches the hub and arms or frees the barrier (R353). -/
  | barmArrival (m : BarmMsg)
  /-- An arrival or credit counts at the hub and may trip, fault or be dropped (R350). -/
  | barrierEvent (e : BarEvent)
  /-- A notice of a barrier change reaches a stack's mirror (R349). -/
  | barrierNotice (n : BarNotice)
  /-- A timed bwait reaches t + w and completes or raises 0x13 (R354). -/
  | bwaitDeadline (idx : Nat) (trips : Nat)
  /-- A flit is received and CRC-checked, acknowledging it or requesting a replay (R389). -/
  | flitReceive (link : Nat) (f : Flit)
  /-- Training or retraining ends, leaving the link up, degraded or retired (R390). -/
  | linkTrainingDone (link failed : Nat) (passed : Bool)
  /-- A W1C write clears bits of a link's replay count (R392). -/
  | lstatRplyClear (link : Nat) (ones : BitVec 32)
  /-- A host CXL.mem access is translated by the host window table and checked (R396). -/
  | hostMemAccess (a : HostAcc)
  /-- The side-band sets the package number through PLDM (R398). -/
  | packageNumberSet (n east : Nat)
  /-- A signed firmware image is written to the idle bank and verified (R401). -/
  | firmwareUpdate (image sig : List Byte)
  /-- The reader advances elog.rd (R386). -/
  | elogRdWrite (slot : Nat)
  /-- A W1C write clears bits of elog.lost (R386). -/
  | elogLostClear (ones : BitVec 32)
  /-- The management path mints or recovers a lost or orphaned token, as tkmint does (R236). -/
  | managementPathTkmint (fresh : Bool) (val : Dword)
  /-- The management path arms a barrier, including a barrier that no strand of its package arms (R347). -/
  | managementPathBarrierArm (m : BarmMsg)
  /-- The management path frees a barrier, and any waiters on it fault (R347). -/
  | managementPathBarrierFree (idx : Nat)
  /-- Restores the trap frame, clears status.trap and ends the strand's part in the freeze (R368). -/
  | rett
  /-- Writes the node snapshot of the strand (R112). -/
  | node0
  /-- Writes the node snapshot and commits the current buffer phase (R307). -/
  | node1
  /-- Writes the node snapshot and yields if a yield request is pending (R112). -/
  | node2
  /-- Writes the snapshot, and the strand goes to yielded (R112). -/
  | yield
  /-- The checker core detects a mismatch, raising 0x30 and restarting the group from its snapshot (R93). -/
  | checkerMismatch
  /-- A cell's refresh slot rewrites queued corrected lines and runs patrol scrubbing, then performs held accesses (R376). -/
  | refreshSlot
  /-- A zone finishes its 15,616-kc frame and waits in the frame gap (R338). -/
  | frameEnd
  /-- The hub's frame pulse starts every zone's next frame (R338). -/
  | framePulse
  /-- A LAUNCH packet is checked at parse and its kernel passed to placement or refused (R327). -/
  | launch
  /-- A FENCE packet holds the queue until its counters meet their thresholds (R318). -/
  | fencePacket
  /-- A fenced queue re-reads its counters every 64 hub kc (R322). -/
  | fencePoll
  /-- A SIGNAL packet applies an atomic to a counter and may send MSI-X (R319). -/
  | signal
  /-- A JOB packet submits a card to the hub's scheduler for the host agent (R320). -/
  | jobPacket
  /-- TOKEN packet op 0 mints a token (R321). -/
  | tokenMint
  /-- TOKEN packet op 1 lends a host token (R321). -/
  | tokenLend
  /-- TOKEN packet op 2 passes a host token (R321). -/
  | tokenPass
  /-- TOKEN packet op 3 returns a lent token (R321). -/
  | tokenReturn
  /-- A NOP packet does nothing, or holds the queue with ord (R321). -/
  | nop
  /-- An eligible queue's level rises by one after each 2^20 hub kc unparsed (R323). -/
  | queueLevelAging
  /-- A queue is disabled and unparsed packets are dropped (R322). -/
  | queueDisable
  /-- The runtime closes a context and its groups are pre-empted (R304). -/
  | contextClose
  /-- A closing context with no group or job frees its tokens and number (R304). -/
  | contextFree
  /-- The placement logic places a wave: wakes rows, loads code, tables, slots, tokens and banks (R330). -/
  | placeWave
  /-- The hub requests gating of a row that no longer needs its array-die part (R124). -/
  | gateRequest
  /-- A draining row's path and engines go idle and its 16-kc counter starts (R124). -/
  | drainingQuiet
  /-- The counter expires and the row is gated, discarding its state (R124). -/
  | gateCounterExpiry
  /-- The hub requests a row to wake (R124). -/
  | wakeRequest
  /-- 512 kc after the wake request the row is on (R124). -/
  | wakeComplete
  /-- Management takes a stack offline, evacuating its pages or refusing (R289). -/
  | stackOffline
  /-- A forced offline sends unevacuated pages and their tokens to lost (R290). -/
  | forcedOffline
  /-- The debugger halts a strand and its group's kernel time stops (R83). -/
  | debuggerHalt
  /-- The debugger resumes a halted strand (R83). -/
  | debuggerResume
  /-- The management path clears a core's mismatch count (R93). -/
  | coreCountClear
  /-- A link replay completes and the link returns to its previous state (R390). -/
  | replayComplete
  /-- A retraining link not passed within 262,144 kc is retired (R390). -/
  | retrainTimeout
  /-- Management requests a link retrain (R390). -/
  | linkRetrainRequest
  /-- Management requests a link retirement (R390). -/
  | linkRetireRequest
  /-- Management resets a retired link to down (R393). -/
  | linkReset
  /-- The package runs bring-up steps 0 to 4 and sets DEVSTAT.ready or fail (R397). -/
  | powerUp
  /-- An SPDM request returns measurements of the running image, fuses and latency table (R401). -/
  | measurementRequest
  /-- A sensor above 95 C holds wave release and sets thold (R404). -/
  | temperatureHigh
  /-- All sensors at or below 90 C resume release and clear thold (R404). -/
  | temperatureNormal
  /-- The scheduler parses a queue packet whose kind is 0 or 7 to 255, and the queue stops with reason 1 (R316). -/
  | malformedPacket
  deriving DecidableEq, Repr

end Sys2Proof
end

