-- ==== Sys2Proof/WellFormed.lean ====
section
/-! DEFINITION. Which instructions are legal as words: the ranges of R66, R70 to R72 and R125, and the ranges that a word's
own rule sets. Events carry no encoding and are always well formed. -/

namespace Sys2Proof

/-- The destination of a compare: an even slot from 2 to 14 (R70). -/
def pairDest (d : BitVec 5) : Bool :=
  decide (d.toNat % 2 = 0) && decide (2 ≤ d.toNat) && decide (d.toNat ≤ 14)

/-- A scope code from 1 to 12 (R72). -/
def scopeCode (s : BitVec 4) : Bool := decide (1 ≤ s.toNat) && decide (s.toNat ≤ 12)

/-- The CSR indices of R87. -/
def csrIndices : List Nat :=
  [0x000, 0x001, 0x002, 0x003, 0x004, 0x005, 0x010, 0x011, 0x012, 0x013, 0x020, 0x021, 0x030, 0x031, 0x032, 0x033,
   0x034, 0x035, 0x040, 0x050, 0x051, 0x058, 0x059, 0x05A, 0x05B, 0x05C, 0x05D]

/-- The CSRs with an RW field (R87, R88). -/
def csrWritables : List Nat :=
  [0x002, 0x010, 0x011, 0x012, 0x013, 0x051, 0x058, 0x059, 0x05A, 0x05B, 0x05C, 0x05D]

/-- The index is listed in R87. -/
def csrKnown (c : BitVec 12) : Bool := csrIndices.contains c.toNat

/-- The index names a CSR with an RW field (R108). -/
def csrWritable (c : BitVec 12) : Bool := csrWritables.contains c.toNat

/-- The word is legal by itself: every field in the range its format and its rule give (R66). -/
def Instr.wf (i : Instr) : Bool :=
  match i with
  | .packetHeader _ _ _ => true
  | .add _ _ _ _ => true
  | .sub _ _ _ _ => true
  | .and _ _ _ _ => true
  | .or _ _ _ _ => true
  | .xor _ _ _ _ => true
  | .shl _ _ _ _ => true
  | .shr _ _ _ _ => true
  | .shra _ _ _ _ => true
  | .min _ _ _ _ => true
  | .max _ _ _ _ => true
  | .clz _ _ _ => true
  | .popc _ _ _ => true
  | .mul _ _ _ _ => true
  | .mulh _ _ _ _ => true
  | .mulhu _ _ _ _ => true
  | .div _ _ _ _ => true
  | .divu _ _ _ _ => true
  | .rem _ _ _ _ => true
  | .remu _ _ _ _ => true
  | .cmpEq _ d _ _ => pairDest d
  | .cmpLt _ d _ _ => pairDest d
  | .cmpLtu _ d _ _ => pairDest d
  | .cmpLe _ d _ _ => pairDest d
  | .cmpLeu _ d _ _ => pairDest d
  | .pand _ d a b => decide (1 ≤ d.toNat) && decide (d.toNat ≤ 15) && decide (a.toNat ≤ 15) && decide (b.toNat ≤ 15)
  | .por _ d a b => decide (1 ≤ d.toNat) && decide (d.toNat ≤ 15) && decide (a.toNat ≤ 15) && decide (b.toNat ≤ 15)
  | .pxor _ d a b => decide (1 ≤ d.toNat) && decide (d.toNat ≤ 15) && decide (a.toNat ≤ 15) && decide (b.toNat ≤ 15)
  | .pandn _ d a b => decide (1 ≤ d.toNat) && decide (d.toNat ≤ 15) && decide (a.toNat ≤ 15) && decide (b.toNat ≤ 15)
  | .jr _ _ _ => true
  | .addi _ _ _ _ => true
  | .andi _ _ _ _ => true
  | .ori _ _ _ _ => true
  | .xori _ _ _ _ => true
  | .shli _ _ _ i => decide (i.toNat ≤ 63)
  | .shri _ _ _ i => decide (i.toNat ≤ 63)
  | .shrai _ _ _ i => decide (i.toNat ≤ 63)
  | .cmpiEq _ d _ _ => pairDest d
  | .cmpiLt _ d _ _ => pairDest d
  | .cmpiLtu _ d _ _ => pairDest d
  | .br _ _ => true
  | .call _ _ => true
  | .loop _ l => decide (l.toNat ≠ 0)
  | .loopi _ l => decide (l.toNat ≠ 0)
  | .ldB _ _ _ _ _ => true
  | .ldBu _ _ _ _ _ => true
  | .ldH _ _ _ _ _ => true
  | .ldHu _ _ _ _ _ => true
  | .ldW _ _ _ _ _ => true
  | .ldWu _ _ _ _ _ => true
  | .ldD _ _ _ _ _ => true
  | .stB _ _ _ _ _ => true
  | .stH _ _ _ _ _ => true
  | .stW _ _ _ _ _ => true
  | .stD _ _ _ _ _ => true
  | .amoAdd _ _ _ _ _ => true
  | .amoAnd _ _ _ _ _ => true
  | .amoOr _ _ _ _ _ => true
  | .amoMax _ _ _ _ _ => true
  | .amoSwap _ _ _ _ _ => true
  | .amoCas _ _ _ _ _ => true
  | .csrr _ _ c => csrKnown c
  | .csrw _ _ c => csrWritable c
  | .csrs _ _ c => csrWritable c
  | .csrc _ _ c => csrWritable c
  | .trapEnd _ => true
  | .trapService _ n => decide (n.toNat ≠ 0)
  | .rett => true
  | .tfence _ => true
  | .node0 => true
  | .node1 => true
  | .node2 => true
  | .yield => true
  | .vfaddF32 _ d _ _ _ => decide (d.toNat ≤ 47)
  | .vfaddBf16 _ d _ _ _ => decide (d.toNat ≤ 47)
  | .vfsubF32 _ d _ _ _ => decide (d.toNat ≤ 47)
  | .vfsubBf16 _ d _ _ _ => decide (d.toNat ≤ 47)
  | .vfmulF32 _ d _ _ _ => decide (d.toNat ≤ 47)
  | .vfmulBf16 _ d _ _ _ => decide (d.toNat ≤ 47)
  | .vfmaF32 _ d _ _ _ => decide (d.toNat ≤ 47)
  | .vfmaBf16 _ d _ _ _ => decide (d.toNat ≤ 47)
  | .vfmaxF32 _ d _ _ _ => decide (d.toNat ≤ 47)
  | .vfminF32 _ d _ _ _ => decide (d.toNat ≤ 47)
  | .vfrcp _ d _ _ => decide (d.toNat ≤ 47)
  | .vfrsq _ d _ _ => decide (d.toNat ≤ 47)
  | .vfexp2 _ d _ _ => decide (d.toNat ≤ 47)
  | .vfcmpEq _ d _ _ => decide (d.toNat ≤ 7)
  | .vfcmpLt _ d _ _ => decide (d.toNat ≤ 7)
  | .vfcmpLe _ d _ _ => decide (d.toNat ≤ 7)
  | .vaddI32 _ d _ _ _ => decide (d.toNat ≤ 47)
  | .vaddI16 _ d _ _ _ => decide (d.toNat ≤ 47)
  | .vsubI32 _ d _ _ _ => decide (d.toNat ≤ 47)
  | .vmulI32 _ d _ _ _ => decide (d.toNat ≤ 47)
  | .vand _ d _ _ _ => decide (d.toNat ≤ 47)
  | .vor _ d _ _ _ => decide (d.toNat ≤ 47)
  | .vxor _ d _ _ _ => decide (d.toNat ≤ 47)
  | .vshl _ d _ _ _ => decide (d.toNat ≤ 47)
  | .vshr _ d _ _ _ => decide (d.toNat ≤ 47)
  | .vshra _ d _ _ _ => decide (d.toNat ≤ 47)
  | .vminI32 _ d _ _ _ => decide (d.toNat ≤ 47)
  | .vmaxI32 _ d _ _ _ => decide (d.toNat ≤ 47)
  | .vlut3 _ d _ _ _ => decide (d.toNat ≤ 47)
  | .vfsh _ d _ _ _ => decide (d.toNat ≤ 47)
  | .vcmpEq _ d _ _ => decide (d.toNat ≤ 7)
  | .vcmpLt _ d _ _ => decide (d.toNat ≤ 7)
  | .vcmpLtu _ d _ _ => decide (d.toNat ≤ 7)
  | .vcvtBf16F32 _ d _ _ _ => decide (d.toNat ≤ 47)
  | .vcvtF32Bf16 _ d _ _ _ => decide (d.toNat ≤ 47)
  | .vcvtF32I32 _ d _ _ => decide (d.toNat ≤ 47)
  | .vcvtI32F32 _ d _ _ => decide (d.toNat ≤ 47)
  | .vcvtE4m3F32 _ d _ _ _ => decide (d.toNat ≤ 47)
  | .vcvtF32E4m3 _ d _ _ _ => decide (d.toNat ≤ 47)
  | .vqntE2m1 _ d _ _ _ => decide (d.toNat ≤ 47)
  | .vdqntE2m1 _ d _ _ _ => decide (d.toNat ≤ 47)
  | .vmov _ d _ _ => decide (d.toNat ≤ 47)
  | .vbcast _ d _ => decide (d.toNat ≤ 47)
  | .vrot _ d _ _ _ => decide (d.toNat ≤ 47)
  | .vperm _ d _ _ _ => decide (d.toNat ≤ 47)
  | .vsel _ d _ _ _ => decide (d.toNat ≤ 47)
  | .vld _ d _ _ _ => decide (d.toNat ≤ 47)
  | .vst _ _ _ _ _ => true
  | .vldg _ d _ _ _ => decide (d.toNat ≤ 47)
  | .vredAdd _ d _ _ _ => decide (d.toNat ≤ 47)
  | .vredMax _ d _ _ _ => decide (d.toNat ≤ 47)
  | .vany _ d a => decide (1 ≤ d.toNat) && decide (d.toNat ≤ 15) && decide (a.toNat ≤ 7)
  | .vpush _ d _ => decide (d.toNat ≤ 3)
  | .vpushBal _ d _ => decide (d.toNat ≤ 3)
  | .vpop _ d a b _ => decide (d.toNat ≤ 47) && decide (a.toNat ≤ 3) && decide (b.toNat ≤ 7)
  | .kand _ d a b => decide (d.toNat ≤ 7) && decide (a.toNat ≤ 7) && decide (b.toNat ≤ 7)
  | .kor _ d a b => decide (d.toNat ≤ 7) && decide (a.toNat ≤ 7) && decide (b.toNat ≤ 7)
  | .knot _ d a => decide (d.toNat ≤ 7) && decide (a.toNat ≤ 7)
  | .mload _ _ _ _ => true
  | .mloadt _ _ _ _ => true
  | .mmulE2m1 _ _ _ _ _ _ _ => true
  | .mmulE4m3 _ _ _ _ _ _ _ => true
  | .mmulE5m2 _ _ _ _ _ _ _ => true
  | .mmulI8 _ _ _ _ _ _ _ => true
  | .mmulBf16 _ _ _ _ _ _ _ => true
  | .mmulF16 _ _ _ _ _ _ _ => true
  | .mmulg _ _ _ _ f _ _ _ => decide (f.toNat ≤ 5)
  | .mgrp _ _ _ _ f _ _ _ => decide (f.toNat ≤ 5)
  | .mconv _ _ _ _ f _ _ _ => decide (f.toNat ≤ 5)
  | .mscl _ _ _ _ _ => true
  | .mdrainF32 _ _ _ _ _ _ => true
  | .mdrainBf16 _ _ _ _ _ _ => true
  | .mzero _ _ => true
  | .mmode _ _ _ => true
  | .ckloc _ _ _ => true
  | .ckfix _ _ => true
  | .ckinj _ _ _ => true
  | .ckrd _ _ _ _ => true
  | .mrty _ _ => true
  | .xcopy _ _ _ _ _ => true
  | .xsend _ _ _ _ => true
  | .xrecv _ _ _ _ _ => true
  | .xjob _ _ _ => true
  | .xjobf _ _ _ => true
  | .fence _ s m => scopeCode s && decide (m.toNat ≠ 0)
  | .tklend _ _ _ s => scopeCode s
  | .tklendPass _ _ _ s => scopeCode s
  | .tkshare _ _ _ s => scopeCode s
  | .tkshareRv _ _ _ s => scopeCode s
  | .tktake _ _ _ s => scopeCode s
  | .tktakeSh _ _ _ s => scopeCode s
  | .tkret _ _ s => scopeCode s
  | .tkretSh _ _ s => scopeCode s
  | .tksplit _ _ _ => true
  | .tkjoin _ _ _ => true
  | .tkqry _ _ _ s => (decide (s.toNat = 4) || decide (s.toNat = 7))
  | .tkqryBase _ _ _ s => (decide (s.toNat = 4) || decide (s.toNat = 7))
  | .tkqryAg _ _ _ s => (decide (s.toNat = 4) || decide (s.toNat = 7))
  | .tkmint _ _ _ => true
  | .tkmintNew _ _ _ => true
  | .barm _ _ _ => true
  | .barmFree _ _ => true
  | .barr _ _ s => scopeCode s
  | .barrQ _ _ _ s => scopeCode s
  | .bwait _ _ _ s => scopeCode s
  | .realign _ _ _ s => decide (4 ≤ s.toNat) && decide (s.toNat ≤ 10)
  | .srdef _ _ _ => true
  | .srkill _ _ => true
  | .badd _ _ _ _ _ _ => true
  | .bsub _ _ _ _ _ _ => true
  | .bmul _ _ _ _ _ _ => true
  | .bmac _ _ _ _ _ _ => true
  | .bcmp _ _ _ _ _ _ => true
  | .blog _ _ _ _ _ => true
  | .bsum _ _ _ _ _ => true
  | .looseWaitEnd _ => true
  | .mQueueIssue _ _ => true
  | .bQueueIssue _ => true
  | .resultLand _ => true
  | .accessPerform _ => true
  | .pagerRelease _ => true
  | .bankedOutReturn _ => true
  | .freezeRelease _ => true
  | .interruptTaken _ => true
  | .interruptTimerExpiry _ => true
  | .checkerMismatch => true
  | .phaseRestart _ => true
  | .refreshSlot => true
  | .frameEnd => true
  | .framePulse => true
  | .launch => true
  | .fencePacket => true
  | .fencePoll => true
  | .signal => true
  | .jobPacket => true
  | .tokenMint => true
  | .tokenLend => true
  | .tokenPass => true
  | .tokenReturn => true
  | .nop => true
  | .queueLevelAging => true
  | .queueEnable _ => true
  | .queueRestart _ _ => true
  | .queueDisable => true
  | .contextOpen _ => true
  | .contextClose => true
  | .contextFree => true
  | .placeWave => true
  | .waveRelease _ => true
  | .kernelComplete _ => true
  | .gateRequest => true
  | .drainingQuiet => true
  | .gateCounterExpiry => true
  | .wakeRequest => true
  | .wakeComplete => true
  | .yieldRequestPost _ _ => true
  | .yieldRequestArm _ _ _ => true
  | .yieldDeadlineExpiry _ => true
  | .shootdownPost _ _ => true
  | .shootdownAck _ _ => true
  | .shootdownUpdate _ => true
  | .stackOffline => true
  | .forcedOffline => true
  | .debuggerHalt => true
  | .debuggerResume => true
  | .coreCountClear => true
  | .timerArm _ _ => true
  | .runtimeMessagePost _ _ => true
  | .hostWindowTableRegister _ _ _ => true
  | .realignStop _ _ => true
  | .realignRelease _ => true
  | .realignTimeout _ => true
  | .handoffRelease _ => true
  | .handoffArrival _ => true
  | .tktakeTimeout _ _ => true
  | .jobStart _ => true
  | .jobUnpark _ => true
  | .jobComplete _ => true
  | .messageArrival _ => true
  | .xrecvTimeout _ => true
  | .orphanMessageTimeout _ _ => true
  | .chainPartialArrival _ => true
  | .barmArrival _ => true
  | .barrierEvent _ => true
  | .barrierNotice _ => true
  | .bwaitDeadline _ _ => true
  | .flitReceive _ _ => true
  | .replayComplete => true
  | .linkTrainingDone _ _ _ => true
  | .retrainTimeout => true
  | .linkRetrainRequest => true
  | .linkRetireRequest => true
  | .linkReset => true
  | .lstatRplyClear _ _ => true
  | .hostMemAccess _ => true
  | .powerUp => true
  | .packageNumberSet _ _ => true
  | .firmwareUpdate _ _ => true
  | .measurementRequest => true
  | .elogRdWrite _ => true
  | .elogLostClear _ => true
  | .temperatureHigh => true
  | .temperatureNormal => true
  | .malformedPacket => true
  | .managementPathTkmint _ _ => true
  | .managementPathBarrierArm _ => true
  | .managementPathBarrierFree _ => true

end Sys2Proof
end

