-- ==== Sys2Proof/Decode.lean ====
section
/-! DEFINITION. Decoding a 32-bit word (R55, R56, R59, R69 to R75), total and rejecting by name (R66), and the encoder that
the same tables give. A decoded word is well formed. -/

namespace Sys2Proof

/-- Why a word is no instruction (R66). -/
inductive DecodeError where
  /-- E = 111 (R56). -/
  | reservedEngine
  /-- The op value is not assigned in its engine (R73 to R75). -/
  | unassignedOp
  /-- The function sub-code is not assigned to its op, or a field the word does not use is nonzero. -/
  | unassignedField
  /-- A register, predicate, mask, scope or count field is outside its range (R70 to R72). -/
  | fieldRange
  /-- A guard where R72 forbids one, or bits [28:25] of a P word. -/
  | guardForbidden
  /-- The word is a prefix (R60): no instruction by itself. -/
  | prefixWord
  deriving DecidableEq, Repr

/-- The `k`-bit field at bit `lo` of a word. -/
def fld (w lo k : Nat) : BitVec k := BitVec.ofNat k (w / 2 ^ lo % 2 ^ k)

/-- The value of the `k`-bit field at bit `lo` of a word. -/
def bitsAt (w lo k : Nat) : Nat := w / 2 ^ lo % 2 ^ k

/-- C op 0x01: ADD, SUB, AND, OR, XOR, SHL, SHR, SHRA, MIN, MAX, CLZ, POPC (R73). -/
def decC01 (w : Nat) : Except DecodeError Instr :=
  if bitsAt w 0 4 = 0 then .ok (.add (fld w 25 4) (fld w 14 5) (fld w 9 5) (fld w 4 5))
  else if bitsAt w 0 4 = 1 then .ok (.sub (fld w 25 4) (fld w 14 5) (fld w 9 5) (fld w 4 5))
  else if bitsAt w 0 4 = 2 then .ok (.and (fld w 25 4) (fld w 14 5) (fld w 9 5) (fld w 4 5))
  else if bitsAt w 0 4 = 3 then .ok (.or (fld w 25 4) (fld w 14 5) (fld w 9 5) (fld w 4 5))
  else if bitsAt w 0 4 = 4 then .ok (.xor (fld w 25 4) (fld w 14 5) (fld w 9 5) (fld w 4 5))
  else if bitsAt w 0 4 = 5 then .ok (.shl (fld w 25 4) (fld w 14 5) (fld w 9 5) (fld w 4 5))
  else if bitsAt w 0 4 = 6 then .ok (.shr (fld w 25 4) (fld w 14 5) (fld w 9 5) (fld w 4 5))
  else if bitsAt w 0 4 = 7 then .ok (.shra (fld w 25 4) (fld w 14 5) (fld w 9 5) (fld w 4 5))
  else if bitsAt w 0 4 = 8 then .ok (.min (fld w 25 4) (fld w 14 5) (fld w 9 5) (fld w 4 5))
  else if bitsAt w 0 4 = 9 then .ok (.max (fld w 25 4) (fld w 14 5) (fld w 9 5) (fld w 4 5))
  else if bitsAt w 0 9 = 10 then .ok (.clz (fld w 25 4) (fld w 14 5) (fld w 9 5))
  else if bitsAt w 0 9 = 11 then .ok (.popc (fld w 25 4) (fld w 14 5) (fld w 9 5))
  else .error .unassignedField

/-- C op 0x02: MUL, MULH, MULHU, DIV, DIVU, REM, REMU (R73). -/
def decC02 (w : Nat) : Except DecodeError Instr :=
  if bitsAt w 0 4 = 0 then .ok (.mul (fld w 25 4) (fld w 14 5) (fld w 9 5) (fld w 4 5))
  else if bitsAt w 0 4 = 1 then .ok (.mulh (fld w 25 4) (fld w 14 5) (fld w 9 5) (fld w 4 5))
  else if bitsAt w 0 4 = 2 then .ok (.mulhu (fld w 25 4) (fld w 14 5) (fld w 9 5) (fld w 4 5))
  else if bitsAt w 0 4 = 3 then .ok (.div (fld w 25 4) (fld w 14 5) (fld w 9 5) (fld w 4 5))
  else if bitsAt w 0 4 = 4 then .ok (.divu (fld w 25 4) (fld w 14 5) (fld w 9 5) (fld w 4 5))
  else if bitsAt w 0 4 = 5 then .ok (.rem (fld w 25 4) (fld w 14 5) (fld w 9 5) (fld w 4 5))
  else if bitsAt w 0 4 = 6 then .ok (.remu (fld w 25 4) (fld w 14 5) (fld w 9 5) (fld w 4 5))
  else .error .unassignedField

/-- C op 0x03: CMP_EQ, CMP_LT, CMP_LTU, CMP_LE, CMP_LEU (R73). -/
def decC03 (w : Nat) : Except DecodeError Instr :=
  if bitsAt w 0 4 = 0 then .ok (.cmpEq (fld w 25 4) (fld w 14 5) (fld w 9 5) (fld w 4 5))
  else if bitsAt w 0 4 = 1 then .ok (.cmpLt (fld w 25 4) (fld w 14 5) (fld w 9 5) (fld w 4 5))
  else if bitsAt w 0 4 = 2 then .ok (.cmpLtu (fld w 25 4) (fld w 14 5) (fld w 9 5) (fld w 4 5))
  else if bitsAt w 0 4 = 3 then .ok (.cmpLe (fld w 25 4) (fld w 14 5) (fld w 9 5) (fld w 4 5))
  else if bitsAt w 0 4 = 4 then .ok (.cmpLeu (fld w 25 4) (fld w 14 5) (fld w 9 5) (fld w 4 5))
  else .error .unassignedField

/-- C op 0x04: PAND, POR, PXOR, PANDN (R73). -/
def decC04 (w : Nat) : Except DecodeError Instr :=
  if bitsAt w 0 4 = 0 then .ok (.pand (fld w 25 4) (fld w 14 5) (fld w 9 5) (fld w 4 5))
  else if bitsAt w 0 4 = 1 then .ok (.por (fld w 25 4) (fld w 14 5) (fld w 9 5) (fld w 4 5))
  else if bitsAt w 0 4 = 2 then .ok (.pxor (fld w 25 4) (fld w 14 5) (fld w 9 5) (fld w 4 5))
  else if bitsAt w 0 4 = 3 then .ok (.pandn (fld w 25 4) (fld w 14 5) (fld w 9 5) (fld w 4 5))
  else .error .unassignedField

/-- C op 0x05: JR (R73). -/
def decC05 (w : Nat) : Except DecodeError Instr :=
  if bitsAt w 0 9 = 0 then .ok (.jr (fld w 25 4) (fld w 14 5) (fld w 9 5))
  else .error .unassignedField

/-- C op 0x08: ADDI (R73). -/
def decC08 (w : Nat) : Except DecodeError Instr :=
  .ok (.addi (fld w 25 4) (fld w 14 5) (fld w 9 5) (fld w 0 9))

/-- C op 0x09: ANDI (R73). -/
def decC09 (w : Nat) : Except DecodeError Instr :=
  .ok (.andi (fld w 25 4) (fld w 14 5) (fld w 9 5) (fld w 0 9))

/-- C op 0x0A: ORI (R73). -/
def decC0A (w : Nat) : Except DecodeError Instr :=
  .ok (.ori (fld w 25 4) (fld w 14 5) (fld w 9 5) (fld w 0 9))

/-- C op 0x0B: XORI (R73). -/
def decC0B (w : Nat) : Except DecodeError Instr :=
  .ok (.xori (fld w 25 4) (fld w 14 5) (fld w 9 5) (fld w 0 9))

/-- C op 0x0C: SHLI (R73). -/
def decC0C (w : Nat) : Except DecodeError Instr :=
  .ok (.shli (fld w 25 4) (fld w 14 5) (fld w 9 5) (fld w 0 9))

/-- C op 0x0D: SHRI (R73). -/
def decC0D (w : Nat) : Except DecodeError Instr :=
  .ok (.shri (fld w 25 4) (fld w 14 5) (fld w 9 5) (fld w 0 9))

/-- C op 0x0E: SHRAI (R73). -/
def decC0E (w : Nat) : Except DecodeError Instr :=
  .ok (.shrai (fld w 25 4) (fld w 14 5) (fld w 9 5) (fld w 0 9))

/-- C op 0x0F: CMPI_EQ (R73). -/
def decC0F (w : Nat) : Except DecodeError Instr :=
  .ok (.cmpiEq (fld w 25 4) (fld w 14 5) (fld w 9 5) (fld w 0 9))

/-- C op 0x10: CMPI_LT (R73). -/
def decC10 (w : Nat) : Except DecodeError Instr :=
  .ok (.cmpiLt (fld w 25 4) (fld w 14 5) (fld w 9 5) (fld w 0 9))

/-- C op 0x11: CMPI_LTU (R73). -/
def decC11 (w : Nat) : Except DecodeError Instr :=
  .ok (.cmpiLtu (fld w 25 4) (fld w 14 5) (fld w 9 5) (fld w 0 9))

/-- C op 0x14: BR (R73). -/
def decC14 (w : Nat) : Except DecodeError Instr :=
  .ok (.br (fld w 25 4) (fld w 0 19))

/-- C op 0x15: CALL (R73). -/
def decC15 (w : Nat) : Except DecodeError Instr :=
  .ok (.call (fld w 25 4) (fld w 0 19))

/-- C op 0x16: LOOP (R73). -/
def decC16 (w : Nat) : Except DecodeError Instr :=
  if bitsAt w 25 4 ≠ 0 then .error .guardForbidden else .ok (.loop (fld w 14 5) (fld w 0 14))

/-- C op 0x17: LOOPI (R73). -/
def decC17 (w : Nat) : Except DecodeError Instr :=
  if bitsAt w 25 4 ≠ 0 then .error .guardForbidden else .ok (.loopi (fld w 9 10) (fld w 0 9))

/-- C op 0x18: LD_B (R73). -/
def decC18 (w : Nat) : Except DecodeError Instr :=
  .ok (.ldB (fld w 25 4) (fld w 14 5) (fld w 9 5) (fld w 5 4) (fld w 0 5))

/-- C op 0x19: LD_BU (R73). -/
def decC19 (w : Nat) : Except DecodeError Instr :=
  .ok (.ldBu (fld w 25 4) (fld w 14 5) (fld w 9 5) (fld w 5 4) (fld w 0 5))

/-- C op 0x1A: LD_H (R73). -/
def decC1A (w : Nat) : Except DecodeError Instr :=
  .ok (.ldH (fld w 25 4) (fld w 14 5) (fld w 9 5) (fld w 5 4) (fld w 0 5))

/-- C op 0x1B: LD_HU (R73). -/
def decC1B (w : Nat) : Except DecodeError Instr :=
  .ok (.ldHu (fld w 25 4) (fld w 14 5) (fld w 9 5) (fld w 5 4) (fld w 0 5))

/-- C op 0x1C: LD_W (R73). -/
def decC1C (w : Nat) : Except DecodeError Instr :=
  .ok (.ldW (fld w 25 4) (fld w 14 5) (fld w 9 5) (fld w 5 4) (fld w 0 5))

/-- C op 0x1D: LD_WU (R73). -/
def decC1D (w : Nat) : Except DecodeError Instr :=
  .ok (.ldWu (fld w 25 4) (fld w 14 5) (fld w 9 5) (fld w 5 4) (fld w 0 5))

/-- C op 0x1E: LD_D (R73). -/
def decC1E (w : Nat) : Except DecodeError Instr :=
  .ok (.ldD (fld w 25 4) (fld w 14 5) (fld w 9 5) (fld w 5 4) (fld w 0 5))

/-- C op 0x20: ST_B (R73). -/
def decC20 (w : Nat) : Except DecodeError Instr :=
  .ok (.stB (fld w 25 4) (fld w 14 5) (fld w 9 5) (fld w 5 4) (fld w 0 5))

/-- C op 0x21: ST_H (R73). -/
def decC21 (w : Nat) : Except DecodeError Instr :=
  .ok (.stH (fld w 25 4) (fld w 14 5) (fld w 9 5) (fld w 5 4) (fld w 0 5))

/-- C op 0x22: ST_W (R73). -/
def decC22 (w : Nat) : Except DecodeError Instr :=
  .ok (.stW (fld w 25 4) (fld w 14 5) (fld w 9 5) (fld w 5 4) (fld w 0 5))

/-- C op 0x23: ST_D (R73). -/
def decC23 (w : Nat) : Except DecodeError Instr :=
  .ok (.stD (fld w 25 4) (fld w 14 5) (fld w 9 5) (fld w 5 4) (fld w 0 5))

/-- C op 0x24: AMO_ADD (R73). -/
def decC24 (w : Nat) : Except DecodeError Instr :=
  .ok (.amoAdd (fld w 25 4) (fld w 14 5) (fld w 9 5) (fld w 4 5) (fld w 0 4))

/-- C op 0x25: AMO_AND (R73). -/
def decC25 (w : Nat) : Except DecodeError Instr :=
  .ok (.amoAnd (fld w 25 4) (fld w 14 5) (fld w 9 5) (fld w 4 5) (fld w 0 4))

/-- C op 0x26: AMO_OR (R73). -/
def decC26 (w : Nat) : Except DecodeError Instr :=
  .ok (.amoOr (fld w 25 4) (fld w 14 5) (fld w 9 5) (fld w 4 5) (fld w 0 4))

/-- C op 0x27: AMO_MAX (R73). -/
def decC27 (w : Nat) : Except DecodeError Instr :=
  .ok (.amoMax (fld w 25 4) (fld w 14 5) (fld w 9 5) (fld w 4 5) (fld w 0 4))

/-- C op 0x28: AMO_SWAP (R73). -/
def decC28 (w : Nat) : Except DecodeError Instr :=
  .ok (.amoSwap (fld w 25 4) (fld w 14 5) (fld w 9 5) (fld w 4 5) (fld w 0 4))

/-- C op 0x29: AMO_CAS (R73). -/
def decC29 (w : Nat) : Except DecodeError Instr :=
  .ok (.amoCas (fld w 25 4) (fld w 14 5) (fld w 9 5) (fld w 4 5) (fld w 0 4))

/-- C op 0x30: CSRR (R73). -/
def decC30 (w : Nat) : Except DecodeError Instr :=
  if bitsAt w 0 2 = 0 then .ok (.csrr (fld w 25 4) (fld w 14 5) (fld w 2 12))
  else .error .unassignedField

/-- C op 0x31: CSRW (R73). -/
def decC31 (w : Nat) : Except DecodeError Instr :=
  if bitsAt w 0 2 = 0 then .ok (.csrw (fld w 25 4) (fld w 14 5) (fld w 2 12))
  else .error .unassignedField

/-- C op 0x32: CSRS (R73). -/
def decC32 (w : Nat) : Except DecodeError Instr :=
  if bitsAt w 0 2 = 0 then .ok (.csrs (fld w 25 4) (fld w 14 5) (fld w 2 12))
  else .error .unassignedField

/-- C op 0x33: CSRC (R73). -/
def decC33 (w : Nat) : Except DecodeError Instr :=
  if bitsAt w 0 2 = 0 then .ok (.csrc (fld w 25 4) (fld w 14 5) (fld w 2 12))
  else .error .unassignedField

/-- C op 0x38: TRAP_END, TRAP_SERVICE (R73). -/
def decC38 (w : Nat) : Except DecodeError Instr :=
  if bitsAt w 0 19 = 0 then .ok (.trapEnd (fld w 25 4))
  else if bitsAt w 9 10 = 0 then .ok (.trapService (fld w 25 4) (fld w 0 9))
  else .error .unassignedField

/-- C op 0x39: RETT (R73). -/
def decC39 (w : Nat) : Except DecodeError Instr :=
  if bitsAt w 0 19 = 0 then
    (if bitsAt w 25 4 ≠ 0 then .error .guardForbidden else .ok (.rett))
  else .error .unassignedField

/-- C op 0x3A: TFENCE (R73). -/
def decC3A (w : Nat) : Except DecodeError Instr :=
  if bitsAt w 0 19 = 0 then .ok (.tfence (fld w 25 4))
  else .error .unassignedField

/-- C op 0x3B: NODE_0, NODE_1, NODE_2 (R73). -/
def decC3B (w : Nat) : Except DecodeError Instr :=
  if bitsAt w 0 19 = 0 then
    (if bitsAt w 25 4 ≠ 0 then .error .guardForbidden else .ok (.node0))
  else if bitsAt w 0 19 = 1 then
    (if bitsAt w 25 4 ≠ 0 then .error .guardForbidden else .ok (.node1))
  else if bitsAt w 0 19 = 2 then
    (if bitsAt w 25 4 ≠ 0 then .error .guardForbidden else .ok (.node2))
  else .error .unassignedField

/-- C op 0x3C: YIELD (R73). -/
def decC3C (w : Nat) : Except DecodeError Instr :=
  if bitsAt w 0 19 = 0 then
    (if bitsAt w 25 4 ≠ 0 then .error .guardForbidden else .ok (.yield))
  else .error .unassignedField

/-- The C engine's words by op value (R73). -/
def decC (w : Nat) : Except DecodeError Instr :=
  match bitsAt w 19 6 with
  | 1 => decC01 w
  | 2 => decC02 w
  | 3 => decC03 w
  | 4 => decC04 w
  | 5 => decC05 w
  | 8 => decC08 w
  | 9 => decC09 w
  | 10 => decC0A w
  | 11 => decC0B w
  | 12 => decC0C w
  | 13 => decC0D w
  | 14 => decC0E w
  | 15 => decC0F w
  | 16 => decC10 w
  | 17 => decC11 w
  | 20 => decC14 w
  | 21 => decC15 w
  | 22 => decC16 w
  | 23 => decC17 w
  | 24 => decC18 w
  | 25 => decC19 w
  | 26 => decC1A w
  | 27 => decC1B w
  | 28 => decC1C w
  | 29 => decC1D w
  | 30 => decC1E w
  | 32 => decC20 w
  | 33 => decC21 w
  | 34 => decC22 w
  | 35 => decC23 w
  | 36 => decC24 w
  | 37 => decC25 w
  | 38 => decC26 w
  | 39 => decC27 w
  | 40 => decC28 w
  | 41 => decC29 w
  | 48 => decC30 w
  | 49 => decC31 w
  | 50 => decC32 w
  | 51 => decC33 w
  | 56 => decC38 w
  | 57 => decC39 w
  | 58 => decC3A w
  | 59 => decC3B w
  | 60 => decC3C w
  | _ => .error .unassignedOp

/-- V op 0x01: VFADD_F32 (R74). -/
def decV01 (w : Nat) : Except DecodeError Instr :=
  .ok (.vfaddF32 (fld w 25 4) (fld w 13 6) (fld w 7 6) (fld w 1 6) (fld w 0 1))

/-- V op 0x02: VFADD_BF16 (R74). -/
def decV02 (w : Nat) : Except DecodeError Instr :=
  .ok (.vfaddBf16 (fld w 25 4) (fld w 13 6) (fld w 7 6) (fld w 1 6) (fld w 0 1))

/-- V op 0x03: VFSUB_F32 (R74). -/
def decV03 (w : Nat) : Except DecodeError Instr :=
  .ok (.vfsubF32 (fld w 25 4) (fld w 13 6) (fld w 7 6) (fld w 1 6) (fld w 0 1))

/-- V op 0x04: VFSUB_BF16 (R74). -/
def decV04 (w : Nat) : Except DecodeError Instr :=
  .ok (.vfsubBf16 (fld w 25 4) (fld w 13 6) (fld w 7 6) (fld w 1 6) (fld w 0 1))

/-- V op 0x05: VFMUL_F32 (R74). -/
def decV05 (w : Nat) : Except DecodeError Instr :=
  .ok (.vfmulF32 (fld w 25 4) (fld w 13 6) (fld w 7 6) (fld w 1 6) (fld w 0 1))

/-- V op 0x06: VFMUL_BF16 (R74). -/
def decV06 (w : Nat) : Except DecodeError Instr :=
  .ok (.vfmulBf16 (fld w 25 4) (fld w 13 6) (fld w 7 6) (fld w 1 6) (fld w 0 1))

/-- V op 0x07: VFMA_F32 (R74). -/
def decV07 (w : Nat) : Except DecodeError Instr :=
  .ok (.vfmaF32 (fld w 25 4) (fld w 13 6) (fld w 7 6) (fld w 1 6) (fld w 0 1))

/-- V op 0x08: VFMA_BF16 (R74). -/
def decV08 (w : Nat) : Except DecodeError Instr :=
  .ok (.vfmaBf16 (fld w 25 4) (fld w 13 6) (fld w 7 6) (fld w 1 6) (fld w 0 1))

/-- V op 0x09: VFMAX_F32 (R74). -/
def decV09 (w : Nat) : Except DecodeError Instr :=
  .ok (.vfmaxF32 (fld w 25 4) (fld w 13 6) (fld w 7 6) (fld w 1 6) (fld w 0 1))

/-- V op 0x0A: VFMIN_F32 (R74). -/
def decV0A (w : Nat) : Except DecodeError Instr :=
  .ok (.vfminF32 (fld w 25 4) (fld w 13 6) (fld w 7 6) (fld w 1 6) (fld w 0 1))

/-- V op 0x0B: VFRCP (R74). -/
def decV0B (w : Nat) : Except DecodeError Instr :=
  if bitsAt w 1 6 = 0 then .ok (.vfrcp (fld w 25 4) (fld w 13 6) (fld w 7 6) (fld w 0 1))
  else .error .unassignedField

/-- V op 0x0C: VFRSQ (R74). -/
def decV0C (w : Nat) : Except DecodeError Instr :=
  if bitsAt w 1 6 = 0 then .ok (.vfrsq (fld w 25 4) (fld w 13 6) (fld w 7 6) (fld w 0 1))
  else .error .unassignedField

/-- V op 0x0D: VFEXP2 (R74). -/
def decV0D (w : Nat) : Except DecodeError Instr :=
  if bitsAt w 1 6 = 0 then .ok (.vfexp2 (fld w 25 4) (fld w 13 6) (fld w 7 6) (fld w 0 1))
  else .error .unassignedField

/-- V op 0x0E: VFCMP_EQ (R74). -/
def decV0E (w : Nat) : Except DecodeError Instr :=
  if bitsAt w 0 1 = 0 then .ok (.vfcmpEq (fld w 25 4) (fld w 13 6) (fld w 7 6) (fld w 1 6))
  else .error .unassignedField

/-- V op 0x0F: VFCMP_LT (R74). -/
def decV0F (w : Nat) : Except DecodeError Instr :=
  if bitsAt w 0 1 = 0 then .ok (.vfcmpLt (fld w 25 4) (fld w 13 6) (fld w 7 6) (fld w 1 6))
  else .error .unassignedField

/-- V op 0x10: VFCMP_LE (R74). -/
def decV10 (w : Nat) : Except DecodeError Instr :=
  if bitsAt w 0 1 = 0 then .ok (.vfcmpLe (fld w 25 4) (fld w 13 6) (fld w 7 6) (fld w 1 6))
  else .error .unassignedField

/-- V op 0x11: VADD_I32 (R74). -/
def decV11 (w : Nat) : Except DecodeError Instr :=
  .ok (.vaddI32 (fld w 25 4) (fld w 13 6) (fld w 7 6) (fld w 1 6) (fld w 0 1))

/-- V op 0x12: VADD_I16 (R74). -/
def decV12 (w : Nat) : Except DecodeError Instr :=
  .ok (.vaddI16 (fld w 25 4) (fld w 13 6) (fld w 7 6) (fld w 1 6) (fld w 0 1))

/-- V op 0x13: VSUB_I32 (R74). -/
def decV13 (w : Nat) : Except DecodeError Instr :=
  .ok (.vsubI32 (fld w 25 4) (fld w 13 6) (fld w 7 6) (fld w 1 6) (fld w 0 1))

/-- V op 0x14: VMUL_I32 (R74). -/
def decV14 (w : Nat) : Except DecodeError Instr :=
  .ok (.vmulI32 (fld w 25 4) (fld w 13 6) (fld w 7 6) (fld w 1 6) (fld w 0 1))

/-- V op 0x15: VAND (R74). -/
def decV15 (w : Nat) : Except DecodeError Instr :=
  .ok (.vand (fld w 25 4) (fld w 13 6) (fld w 7 6) (fld w 1 6) (fld w 0 1))

/-- V op 0x16: VOR (R74). -/
def decV16 (w : Nat) : Except DecodeError Instr :=
  .ok (.vor (fld w 25 4) (fld w 13 6) (fld w 7 6) (fld w 1 6) (fld w 0 1))

/-- V op 0x17: VXOR (R74). -/
def decV17 (w : Nat) : Except DecodeError Instr :=
  .ok (.vxor (fld w 25 4) (fld w 13 6) (fld w 7 6) (fld w 1 6) (fld w 0 1))

/-- V op 0x18: VSHL (R74). -/
def decV18 (w : Nat) : Except DecodeError Instr :=
  .ok (.vshl (fld w 25 4) (fld w 13 6) (fld w 7 6) (fld w 1 6) (fld w 0 1))

/-- V op 0x19: VSHR (R74). -/
def decV19 (w : Nat) : Except DecodeError Instr :=
  .ok (.vshr (fld w 25 4) (fld w 13 6) (fld w 7 6) (fld w 1 6) (fld w 0 1))

/-- V op 0x1A: VSHRA (R74). -/
def decV1A (w : Nat) : Except DecodeError Instr :=
  .ok (.vshra (fld w 25 4) (fld w 13 6) (fld w 7 6) (fld w 1 6) (fld w 0 1))

/-- V op 0x1B: VMIN_I32 (R74). -/
def decV1B (w : Nat) : Except DecodeError Instr :=
  .ok (.vminI32 (fld w 25 4) (fld w 13 6) (fld w 7 6) (fld w 1 6) (fld w 0 1))

/-- V op 0x1C: VMAX_I32 (R74). -/
def decV1C (w : Nat) : Except DecodeError Instr :=
  .ok (.vmaxI32 (fld w 25 4) (fld w 13 6) (fld w 7 6) (fld w 1 6) (fld w 0 1))

/-- V op 0x1D: VLUT3 (R74). -/
def decV1D (w : Nat) : Except DecodeError Instr :=
  .ok (.vlut3 (fld w 25 4) (fld w 13 6) (fld w 7 6) (fld w 1 6) (fld w 0 1))

/-- V op 0x1E: VFSH (R74). -/
def decV1E (w : Nat) : Except DecodeError Instr :=
  .ok (.vfsh (fld w 25 4) (fld w 13 6) (fld w 7 6) (fld w 1 6) (fld w 0 1))

/-- V op 0x1F: VCMP_EQ (R74). -/
def decV1F (w : Nat) : Except DecodeError Instr :=
  if bitsAt w 0 1 = 0 then .ok (.vcmpEq (fld w 25 4) (fld w 13 6) (fld w 7 6) (fld w 1 6))
  else .error .unassignedField

/-- V op 0x20: VCMP_LT (R74). -/
def decV20 (w : Nat) : Except DecodeError Instr :=
  if bitsAt w 0 1 = 0 then .ok (.vcmpLt (fld w 25 4) (fld w 13 6) (fld w 7 6) (fld w 1 6))
  else .error .unassignedField

/-- V op 0x21: VCMP_LTU (R74). -/
def decV21 (w : Nat) : Except DecodeError Instr :=
  if bitsAt w 0 1 = 0 then .ok (.vcmpLtu (fld w 25 4) (fld w 13 6) (fld w 7 6) (fld w 1 6))
  else .error .unassignedField

/-- V op 0x22: VCVT_BF16_F32 (R74). -/
def decV22 (w : Nat) : Except DecodeError Instr :=
  .ok (.vcvtBf16F32 (fld w 25 4) (fld w 13 6) (fld w 7 6) (fld w 1 6) (fld w 0 1))

/-- V op 0x23: VCVT_F32_BF16 (R74). -/
def decV23 (w : Nat) : Except DecodeError Instr :=
  if bitsAt w 2 5 = 0 then .ok (.vcvtF32Bf16 (fld w 25 4) (fld w 13 6) (fld w 7 6) (fld w 1 1) (fld w 0 1))
  else .error .unassignedField

/-- V op 0x24: VCVT_F32_I32 (R74). -/
def decV24 (w : Nat) : Except DecodeError Instr :=
  if bitsAt w 1 6 = 0 then .ok (.vcvtF32I32 (fld w 25 4) (fld w 13 6) (fld w 7 6) (fld w 0 1))
  else .error .unassignedField

/-- V op 0x25: VCVT_I32_F32 (R74). -/
def decV25 (w : Nat) : Except DecodeError Instr :=
  if bitsAt w 1 6 = 0 then .ok (.vcvtI32F32 (fld w 25 4) (fld w 13 6) (fld w 7 6) (fld w 0 1))
  else .error .unassignedField

/-- V op 0x26: VCVT_E4M3_F32 (R74). -/
def decV26 (w : Nat) : Except DecodeError Instr :=
  if bitsAt w 3 4 = 0 then .ok (.vcvtE4m3F32 (fld w 25 4) (fld w 13 6) (fld w 7 6) (fld w 1 2) (fld w 0 1))
  else .error .unassignedField

/-- V op 0x27: VCVT_F32_E4M3 (R74). -/
def decV27 (w : Nat) : Except DecodeError Instr :=
  if bitsAt w 3 4 = 0 then .ok (.vcvtF32E4m3 (fld w 25 4) (fld w 13 6) (fld w 7 6) (fld w 1 2) (fld w 0 1))
  else .error .unassignedField

/-- V op 0x28: VQNT_E2M1 (R74). -/
def decV28 (w : Nat) : Except DecodeError Instr :=
  if bitsAt w 3 4 = 0 then .ok (.vqntE2m1 (fld w 25 4) (fld w 13 6) (fld w 7 6) (fld w 1 2) (fld w 0 1))
  else .error .unassignedField

/-- V op 0x29: VDQNT_E2M1 (R74). -/
def decV29 (w : Nat) : Except DecodeError Instr :=
  if bitsAt w 3 4 = 0 then .ok (.vdqntE2m1 (fld w 25 4) (fld w 13 6) (fld w 7 6) (fld w 1 2) (fld w 0 1))
  else .error .unassignedField

/-- V op 0x2A: VMOV (R74). -/
def decV2A (w : Nat) : Except DecodeError Instr :=
  if bitsAt w 1 6 = 0 then .ok (.vmov (fld w 25 4) (fld w 13 6) (fld w 7 6) (fld w 0 1))
  else .error .unassignedField

/-- V op 0x2B: VBCAST (R74). -/
def decV2B (w : Nat) : Except DecodeError Instr :=
  if bitsAt w 0 8 = 0 then .ok (.vbcast (fld w 25 4) (fld w 13 6) (fld w 8 5))
  else .error .unassignedField

/-- V op 0x2C: VROT (R74). -/
def decV2C (w : Nat) : Except DecodeError Instr :=
  .ok (.vrot (fld w 25 4) (fld w 13 6) (fld w 7 6) (fld w 1 6) (fld w 0 1))

/-- V op 0x2D: VPERM (R74). -/
def decV2D (w : Nat) : Except DecodeError Instr :=
  .ok (.vperm (fld w 25 4) (fld w 13 6) (fld w 7 6) (fld w 1 6) (fld w 0 1))

/-- V op 0x2E: VSEL (R74). -/
def decV2E (w : Nat) : Except DecodeError Instr :=
  .ok (.vsel (fld w 25 4) (fld w 13 6) (fld w 7 6) (fld w 1 6) (fld w 0 1))

/-- V op 0x2F: VLD (R74). -/
def decV2F (w : Nat) : Except DecodeError Instr :=
  .ok (.vld (fld w 25 4) (fld w 13 6) (fld w 8 5) (fld w 4 4) (fld w 0 4))

/-- V op 0x30: VST (R74). -/
def decV30 (w : Nat) : Except DecodeError Instr :=
  .ok (.vst (fld w 25 4) (fld w 13 6) (fld w 8 5) (fld w 4 4) (fld w 0 4))

/-- V op 0x31: VLDG (R74). -/
def decV31 (w : Nat) : Except DecodeError Instr :=
  .ok (.vldg (fld w 25 4) (fld w 13 6) (fld w 7 6) (fld w 2 5) (fld w 0 2))

/-- V op 0x32: VRED_ADD (R74). -/
def decV32 (w : Nat) : Except DecodeError Instr :=
  if bitsAt w 4 3 = 0 then .ok (.vredAdd (fld w 25 4) (fld w 13 6) (fld w 7 6) (fld w 1 3) (fld w 0 1))
  else .error .unassignedField

/-- V op 0x33: VRED_MAX (R74). -/
def decV33 (w : Nat) : Except DecodeError Instr :=
  if bitsAt w 4 3 = 0 then .ok (.vredMax (fld w 25 4) (fld w 13 6) (fld w 7 6) (fld w 1 3) (fld w 0 1))
  else .error .unassignedField

/-- V op 0x34: VANY (R74). -/
def decV34 (w : Nat) : Except DecodeError Instr :=
  if bitsAt w 0 7 = 0 then .ok (.vany (fld w 25 4) (fld w 13 6) (fld w 7 6))
  else .error .unassignedField

/-- V op 0x35: VPUSH, VPUSH_BAL (R74). -/
def decV35 (w : Nat) : Except DecodeError Instr :=
  if bitsAt w 0 7 = 0 then .ok (.vpush (fld w 25 4) (fld w 13 6) (fld w 7 6))
  else if bitsAt w 0 7 = 2 then .ok (.vpushBal (fld w 25 4) (fld w 13 6) (fld w 7 6))
  else .error .unassignedField

/-- V op 0x36: VPOP (R74). -/
def decV36 (w : Nat) : Except DecodeError Instr :=
  .ok (.vpop (fld w 25 4) (fld w 13 6) (fld w 7 6) (fld w 1 6) (fld w 0 1))

/-- V op 0x37: KAND (R74). -/
def decV37 (w : Nat) : Except DecodeError Instr :=
  if bitsAt w 0 1 = 0 then .ok (.kand (fld w 25 4) (fld w 13 6) (fld w 7 6) (fld w 1 6))
  else .error .unassignedField

/-- V op 0x38: KOR (R74). -/
def decV38 (w : Nat) : Except DecodeError Instr :=
  if bitsAt w 0 1 = 0 then .ok (.kor (fld w 25 4) (fld w 13 6) (fld w 7 6) (fld w 1 6))
  else .error .unassignedField

/-- V op 0x39: KNOT (R74). -/
def decV39 (w : Nat) : Except DecodeError Instr :=
  if bitsAt w 0 7 = 0 then .ok (.knot (fld w 25 4) (fld w 13 6) (fld w 7 6))
  else .error .unassignedField

/-- The V engine's words by op value (R74). -/
def decV (w : Nat) : Except DecodeError Instr :=
  match bitsAt w 19 6 with
  | 1 => decV01 w
  | 2 => decV02 w
  | 3 => decV03 w
  | 4 => decV04 w
  | 5 => decV05 w
  | 6 => decV06 w
  | 7 => decV07 w
  | 8 => decV08 w
  | 9 => decV09 w
  | 10 => decV0A w
  | 11 => decV0B w
  | 12 => decV0C w
  | 13 => decV0D w
  | 14 => decV0E w
  | 15 => decV0F w
  | 16 => decV10 w
  | 17 => decV11 w
  | 18 => decV12 w
  | 19 => decV13 w
  | 20 => decV14 w
  | 21 => decV15 w
  | 22 => decV16 w
  | 23 => decV17 w
  | 24 => decV18 w
  | 25 => decV19 w
  | 26 => decV1A w
  | 27 => decV1B w
  | 28 => decV1C w
  | 29 => decV1D w
  | 30 => decV1E w
  | 31 => decV1F w
  | 32 => decV20 w
  | 33 => decV21 w
  | 34 => decV22 w
  | 35 => decV23 w
  | 36 => decV24 w
  | 37 => decV25 w
  | 38 => decV26 w
  | 39 => decV27 w
  | 40 => decV28 w
  | 41 => decV29 w
  | 42 => decV2A w
  | 43 => decV2B w
  | 44 => decV2C w
  | 45 => decV2D w
  | 46 => decV2E w
  | 47 => decV2F w
  | 48 => decV30 w
  | 49 => decV31 w
  | 50 => decV32 w
  | 51 => decV33 w
  | 52 => decV34 w
  | 53 => decV35 w
  | 54 => decV36 w
  | 55 => decV37 w
  | 56 => decV38 w
  | 57 => decV39 w
  | _ => .error .unassignedOp

/-- M op 0x01: MLOAD (R75). -/
def decM01 (w : Nat) : Except DecodeError Instr :=
  if bitsAt w 0 3 = 0 ∧ bitsAt w 4 3 = 0 ∧ bitsAt w 17 2 = 0 then .ok (.mload (fld w 25 4) (fld w 12 5) (fld w 7 5) (fld w 3 1))
  else .error .unassignedField

/-- M op 0x02: MLOADT (R75). -/
def decM02 (w : Nat) : Except DecodeError Instr :=
  if bitsAt w 0 3 = 0 ∧ bitsAt w 4 3 = 0 ∧ bitsAt w 17 2 = 0 then .ok (.mloadt (fld w 25 4) (fld w 12 5) (fld w 7 5) (fld w 3 1))
  else .error .unassignedField

/-- M op 0x03: MMUL_E2M1 (R75). -/
def decM03 (w : Nat) : Except DecodeError Instr :=
  if bitsAt w 0 1 = 0 ∧ bitsAt w 4 3 = 0 then .ok (.mmulE2m1 (fld w 25 4) (fld w 17 2) (fld w 12 5) (fld w 7 5) (fld w 3 1) (fld w 2 1) (fld w 1 1))
  else .error .unassignedField

/-- M op 0x04: MMUL_E4M3 (R75). -/
def decM04 (w : Nat) : Except DecodeError Instr :=
  if bitsAt w 0 1 = 0 ∧ bitsAt w 4 3 = 0 then .ok (.mmulE4m3 (fld w 25 4) (fld w 17 2) (fld w 12 5) (fld w 7 5) (fld w 3 1) (fld w 2 1) (fld w 1 1))
  else .error .unassignedField

/-- M op 0x05: MMUL_E5M2 (R75). -/
def decM05 (w : Nat) : Except DecodeError Instr :=
  if bitsAt w 0 1 = 0 ∧ bitsAt w 4 3 = 0 then .ok (.mmulE5m2 (fld w 25 4) (fld w 17 2) (fld w 12 5) (fld w 7 5) (fld w 3 1) (fld w 2 1) (fld w 1 1))
  else .error .unassignedField

/-- M op 0x06: MMUL_I8 (R75). -/
def decM06 (w : Nat) : Except DecodeError Instr :=
  if bitsAt w 0 1 = 0 ∧ bitsAt w 4 3 = 0 then .ok (.mmulI8 (fld w 25 4) (fld w 17 2) (fld w 12 5) (fld w 7 5) (fld w 3 1) (fld w 2 1) (fld w 1 1))
  else .error .unassignedField

/-- M op 0x07: MMUL_BF16 (R75). -/
def decM07 (w : Nat) : Except DecodeError Instr :=
  if bitsAt w 0 1 = 0 ∧ bitsAt w 4 3 = 0 then .ok (.mmulBf16 (fld w 25 4) (fld w 17 2) (fld w 12 5) (fld w 7 5) (fld w 3 1) (fld w 2 1) (fld w 1 1))
  else .error .unassignedField

/-- M op 0x08: MMUL_F16 (R75). -/
def decM08 (w : Nat) : Except DecodeError Instr :=
  if bitsAt w 0 1 = 0 ∧ bitsAt w 4 3 = 0 then .ok (.mmulF16 (fld w 25 4) (fld w 17 2) (fld w 12 5) (fld w 7 5) (fld w 3 1) (fld w 2 1) (fld w 1 1))
  else .error .unassignedField

/-- M op 0x09: MMULG (R75). -/
def decM09 (w : Nat) : Except DecodeError Instr :=
  if bitsAt w 0 1 = 0 then .ok (.mmulg (fld w 25 4) (fld w 17 2) (fld w 12 5) (fld w 7 5) (fld w 4 3) (fld w 3 1) (fld w 2 1) (fld w 1 1))
  else .error .unassignedField

/-- M op 0x0A: MGRP (R75). -/
def decM0A (w : Nat) : Except DecodeError Instr :=
  if bitsAt w 0 1 = 0 then .ok (.mgrp (fld w 25 4) (fld w 17 2) (fld w 12 5) (fld w 7 5) (fld w 4 3) (fld w 3 1) (fld w 2 1) (fld w 1 1))
  else .error .unassignedField

/-- M op 0x0B: MCONV (R75). -/
def decM0B (w : Nat) : Except DecodeError Instr :=
  if bitsAt w 0 1 = 0 then .ok (.mconv (fld w 25 4) (fld w 17 2) (fld w 12 5) (fld w 7 5) (fld w 4 3) (fld w 3 1) (fld w 2 1) (fld w 1 1))
  else .error .unassignedField

/-- M op 0x0C: MSCL (R75). -/
def decM0C (w : Nat) : Except DecodeError Instr :=
  if bitsAt w 0 1 = 0 ∧ bitsAt w 2 5 = 0 then .ok (.mscl (fld w 25 4) (fld w 17 2) (fld w 12 5) (fld w 7 5) (fld w 1 1))
  else .error .unassignedField

/-- M op 0x0D: MDRAIN_F32 (R75). -/
def decM0D (w : Nat) : Except DecodeError Instr :=
  if bitsAt w 1 1 = 0 ∧ bitsAt w 3 4 = 0 then .ok (.mdrainF32 (fld w 25 4) (fld w 17 2) (fld w 12 5) (fld w 7 5) (fld w 2 1) (fld w 0 1))
  else .error .unassignedField

/-- M op 0x0E: MDRAIN_BF16 (R75). -/
def decM0E (w : Nat) : Except DecodeError Instr :=
  if bitsAt w 1 1 = 0 ∧ bitsAt w 3 4 = 0 then .ok (.mdrainBf16 (fld w 25 4) (fld w 17 2) (fld w 12 5) (fld w 7 5) (fld w 2 1) (fld w 0 1))
  else .error .unassignedField

/-- M op 0x0F: MZERO (R75). -/
def decM0F (w : Nat) : Except DecodeError Instr :=
  if bitsAt w 0 17 = 0 then .ok (.mzero (fld w 25 4) (fld w 17 2))
  else .error .unassignedField

/-- M op 0x10: MMODE (R75). -/
def decM10 (w : Nat) : Except DecodeError Instr :=
  if bitsAt w 0 7 = 0 ∧ bitsAt w 17 2 = 0 then .ok (.mmode (fld w 25 4) (fld w 12 5) (fld w 7 5))
  else .error .unassignedField

/-- M op 0x11: CKLOC (R75). -/
def decM11 (w : Nat) : Except DecodeError Instr :=
  if bitsAt w 0 12 = 0 then .ok (.ckloc (fld w 25 4) (fld w 17 2) (fld w 12 5))
  else .error .unassignedField

/-- M op 0x12: CKFIX (R75). -/
def decM12 (w : Nat) : Except DecodeError Instr :=
  if bitsAt w 0 17 = 0 then .ok (.ckfix (fld w 25 4) (fld w 17 2))
  else .error .unassignedField

/-- M op 0x13: CKINJ (R75). -/
def decM13 (w : Nat) : Except DecodeError Instr :=
  if bitsAt w 0 7 = 0 ∧ bitsAt w 12 5 = 0 then .ok (.ckinj (fld w 25 4) (fld w 17 2) (fld w 7 5))
  else .error .unassignedField

/-- M op 0x14: CKRD (R75). -/
def decM14 (w : Nat) : Except DecodeError Instr :=
  if bitsAt w 0 7 = 0 then .ok (.ckrd (fld w 25 4) (fld w 17 2) (fld w 12 5) (fld w 7 5))
  else .error .unassignedField

/-- M op 0x15: MRTY (R75). -/
def decM15 (w : Nat) : Except DecodeError Instr :=
  if bitsAt w 0 17 = 0 then .ok (.mrty (fld w 25 4) (fld w 17 2))
  else .error .unassignedField

/-- The M engine's words by op value (R75). -/
def decM (w : Nat) : Except DecodeError Instr :=
  match bitsAt w 19 6 with
  | 1 => decM01 w
  | 2 => decM02 w
  | 3 => decM03 w
  | 4 => decM04 w
  | 5 => decM05 w
  | 6 => decM06 w
  | 7 => decM07 w
  | 8 => decM08 w
  | 9 => decM09 w
  | 10 => decM0A w
  | 11 => decM0B w
  | 12 => decM0C w
  | 13 => decM0D w
  | 14 => decM0E w
  | 15 => decM0F w
  | 16 => decM10 w
  | 17 => decM11 w
  | 18 => decM12 w
  | 19 => decM13 w
  | 20 => decM14 w
  | 21 => decM15 w
  | _ => .error .unassignedOp

/-- X op 0x01: XCOPY (R75). -/
def decX01 (w : Nat) : Except DecodeError Instr :=
  .ok (.xcopy (fld w 25 4) (fld w 14 5) (fld w 9 5) (fld w 4 5) (fld w 0 4))

/-- X op 0x02: XSEND (R75). -/
def decX02 (w : Nat) : Except DecodeError Instr :=
  if bitsAt w 4 5 = 0 then .ok (.xsend (fld w 25 4) (fld w 14 5) (fld w 9 5) (fld w 0 4))
  else .error .unassignedField

/-- X op 0x03: XRECV (R75). -/
def decX03 (w : Nat) : Except DecodeError Instr :=
  .ok (.xrecv (fld w 25 4) (fld w 14 5) (fld w 9 5) (fld w 4 5) (fld w 0 4))

/-- X op 0x04: XJOB (R75). -/
def decX04 (w : Nat) : Except DecodeError Instr :=
  if bitsAt w 0 9 = 0 then .ok (.xjob (fld w 25 4) (fld w 14 5) (fld w 9 5))
  else .error .unassignedField

/-- X op 0x05: XJOBF (R75). -/
def decX05 (w : Nat) : Except DecodeError Instr :=
  if bitsAt w 0 9 = 0 then .ok (.xjobf (fld w 25 4) (fld w 14 5) (fld w 9 5))
  else .error .unassignedField

/-- The X engine's words by op value (R75). -/
def decX (w : Nat) : Except DecodeError Instr :=
  match bitsAt w 19 6 with
  | 1 => decX01 w
  | 2 => decX02 w
  | 3 => decX03 w
  | 4 => decX04 w
  | 5 => decX05 w
  | _ => .error .unassignedOp

/-- S op 0x00: FENCE (R75). -/
def decS00 (w : Nat) : Except DecodeError Instr :=
  .ok (.fence (fld w 25 4) (fld w 16 4) (fld w 0 16))

/-- S op 0x01: TKLEND, TKLEND_PASS (R75). -/
def decS01 (w : Nat) : Except DecodeError Instr :=
  if bitsAt w 0 6 = 0 then .ok (.tklend (fld w 25 4) (fld w 15 5) (fld w 10 5) (fld w 6 4))
  else if bitsAt w 0 6 = 1 then .ok (.tklendPass (fld w 25 4) (fld w 15 5) (fld w 10 5) (fld w 6 4))
  else .error .unassignedField

/-- S op 0x02: TKSHARE, TKSHARE_RV (R75). -/
def decS02 (w : Nat) : Except DecodeError Instr :=
  if bitsAt w 0 6 = 0 then .ok (.tkshare (fld w 25 4) (fld w 15 5) (fld w 10 5) (fld w 6 4))
  else if bitsAt w 0 6 = 1 then .ok (.tkshareRv (fld w 25 4) (fld w 15 5) (fld w 10 5) (fld w 6 4))
  else .error .unassignedField

/-- S op 0x03: TKTAKE, TKTAKE_SH (R75). -/
def decS03 (w : Nat) : Except DecodeError Instr :=
  if bitsAt w 0 6 = 0 then .ok (.tktake (fld w 25 4) (fld w 15 5) (fld w 10 5) (fld w 6 4))
  else if bitsAt w 0 6 = 1 then .ok (.tktakeSh (fld w 25 4) (fld w 15 5) (fld w 10 5) (fld w 6 4))
  else .error .unassignedField

/-- S op 0x04: TKRET, TKRET_SH (R75). -/
def decS04 (w : Nat) : Except DecodeError Instr :=
  if bitsAt w 0 6 = 0 ∧ bitsAt w 10 5 = 0 then .ok (.tkret (fld w 25 4) (fld w 15 5) (fld w 6 4))
  else if bitsAt w 0 6 = 1 ∧ bitsAt w 10 5 = 0 then .ok (.tkretSh (fld w 25 4) (fld w 15 5) (fld w 6 4))
  else .error .unassignedField

/-- S op 0x05: TKSPLIT (R75). -/
def decS05 (w : Nat) : Except DecodeError Instr :=
  if bitsAt w 0 10 = 256 then .ok (.tksplit (fld w 25 4) (fld w 15 5) (fld w 10 5))
  else .error .unassignedField

/-- S op 0x06: TKJOIN (R75). -/
def decS06 (w : Nat) : Except DecodeError Instr :=
  if bitsAt w 0 10 = 256 then .ok (.tkjoin (fld w 25 4) (fld w 15 5) (fld w 10 5))
  else .error .unassignedField

/-- S op 0x07: TKQRY, TKQRY_BASE, TKQRY_AG (R75). -/
def decS07 (w : Nat) : Except DecodeError Instr :=
  if bitsAt w 0 6 = 0 then .ok (.tkqry (fld w 25 4) (fld w 15 5) (fld w 10 5) (fld w 6 4))
  else if bitsAt w 0 6 = 1 then .ok (.tkqryBase (fld w 25 4) (fld w 15 5) (fld w 10 5) (fld w 6 4))
  else if bitsAt w 0 6 = 2 then .ok (.tkqryAg (fld w 25 4) (fld w 15 5) (fld w 10 5) (fld w 6 4))
  else .error .unassignedField

/-- S op 0x08: TKMINT, TKMINT_NEW (R75). -/
def decS08 (w : Nat) : Except DecodeError Instr :=
  if bitsAt w 0 10 = 448 then .ok (.tkmint (fld w 25 4) (fld w 15 5) (fld w 10 5))
  else if bitsAt w 0 10 = 449 then .ok (.tkmintNew (fld w 25 4) (fld w 15 5) (fld w 10 5))
  else .error .unassignedField

/-- S op 0x09: BARM, BARM_FREE (R75). -/
def decS09 (w : Nat) : Except DecodeError Instr :=
  if bitsAt w 0 10 = 448 then .ok (.barm (fld w 25 4) (fld w 15 5) (fld w 10 5))
  else if bitsAt w 0 15 = 449 then .ok (.barmFree (fld w 25 4) (fld w 15 5))
  else .error .unassignedField

/-- S op 0x0A: BARR, BARR_Q (R75). -/
def decS0A (w : Nat) : Except DecodeError Instr :=
  if bitsAt w 0 6 = 0 ∧ bitsAt w 10 5 = 0 then .ok (.barr (fld w 25 4) (fld w 15 5) (fld w 6 4))
  else if bitsAt w 0 6 = 1 then .ok (.barrQ (fld w 25 4) (fld w 15 5) (fld w 10 5) (fld w 6 4))
  else .error .unassignedField

/-- S op 0x0B: BWAIT (R75). -/
def decS0B (w : Nat) : Except DecodeError Instr :=
  if bitsAt w 0 6 = 0 then .ok (.bwait (fld w 25 4) (fld w 15 5) (fld w 10 5) (fld w 6 4))
  else .error .unassignedField

/-- S op 0x0C: REALIGN (R75). -/
def decS0C (w : Nat) : Except DecodeError Instr :=
  if bitsAt w 0 6 = 0 then .ok (.realign (fld w 25 4) (fld w 15 5) (fld w 10 5) (fld w 6 4))
  else .error .unassignedField

/-- S op 0x0D: SRDEF (R75). -/
def decS0D (w : Nat) : Except DecodeError Instr :=
  if bitsAt w 0 10 = 256 then .ok (.srdef (fld w 25 4) (fld w 15 5) (fld w 10 5))
  else .error .unassignedField

/-- S op 0x0E: SRKILL (R75). -/
def decS0E (w : Nat) : Except DecodeError Instr :=
  if bitsAt w 0 15 = 256 then .ok (.srkill (fld w 25 4) (fld w 15 5))
  else .error .unassignedField

/-- The S engine's words by op value (R75). -/
def decS (w : Nat) : Except DecodeError Instr :=
  match bitsAt w 20 5 with
  | 0 => decS00 w
  | 1 => decS01 w
  | 2 => decS02 w
  | 3 => decS03 w
  | 4 => decS04 w
  | 5 => decS05 w
  | 6 => decS06 w
  | 7 => decS07 w
  | 8 => decS08 w
  | 9 => decS09 w
  | 10 => decS0A w
  | 11 => decS0B w
  | 12 => decS0C w
  | 13 => decS0D w
  | 14 => decS0E w
  | _ => .error .unassignedOp

/-- B op 0x01: BADD (R75). -/
def decB01 (w : Nat) : Except DecodeError Instr :=
  if bitsAt w 2 2 = 0 then .ok (.badd (fld w 25 4) (fld w 14 5) (fld w 9 5) (fld w 4 5) (fld w 1 1) (fld w 0 1))
  else .error .unassignedField

/-- B op 0x02: BSUB (R75). -/
def decB02 (w : Nat) : Except DecodeError Instr :=
  if bitsAt w 2 2 = 0 then .ok (.bsub (fld w 25 4) (fld w 14 5) (fld w 9 5) (fld w 4 5) (fld w 1 1) (fld w 0 1))
  else .error .unassignedField

/-- B op 0x03: BMUL (R75). -/
def decB03 (w : Nat) : Except DecodeError Instr :=
  if bitsAt w 2 2 = 0 then .ok (.bmul (fld w 25 4) (fld w 14 5) (fld w 9 5) (fld w 4 5) (fld w 1 1) (fld w 0 1))
  else .error .unassignedField

/-- B op 0x04: BMAC (R75). -/
def decB04 (w : Nat) : Except DecodeError Instr :=
  if bitsAt w 2 2 = 0 then .ok (.bmac (fld w 25 4) (fld w 14 5) (fld w 9 5) (fld w 4 5) (fld w 1 1) (fld w 0 1))
  else .error .unassignedField

/-- B op 0x05: BCMP (R75). -/
def decB05 (w : Nat) : Except DecodeError Instr :=
  if bitsAt w 3 1 = 0 then .ok (.bcmp (fld w 25 4) (fld w 14 5) (fld w 9 5) (fld w 4 5) (fld w 2 1) (fld w 0 2))
  else .error .unassignedField

/-- B op 0x06: BLOG (R75). -/
def decB06 (w : Nat) : Except DecodeError Instr :=
  .ok (.blog (fld w 25 4) (fld w 14 5) (fld w 9 5) (fld w 4 5) (fld w 0 4))

/-- B op 0x07: BSUM (R75). -/
def decB07 (w : Nat) : Except DecodeError Instr :=
  if bitsAt w 2 2 = 0 ∧ bitsAt w 9 5 = 0 then .ok (.bsum (fld w 25 4) (fld w 14 5) (fld w 4 5) (fld w 1 1) (fld w 0 1))
  else .error .unassignedField

/-- The B engine's words by op value (R75). -/
def decB (w : Nat) : Except DecodeError Instr :=
  match bitsAt w 19 6 with
  | 1 => decB01 w
  | 2 => decB02 w
  | 3 => decB03 w
  | 4 => decB04 w
  | 5 => decB05 w
  | 6 => decB06 w
  | 7 => decB07 w
  | _ => .error .unassignedOp

/-- The packet header (R59); a prefix (R60) is no instruction by itself. -/
def decP (w : Nat) : Except DecodeError Instr :=
  if bitsAt w 25 4 ≠ 0 then .error .guardForbidden
  else if bitsAt w 24 1 = 0 then .ok (.packetHeader (fld w 16 8) (fld w 13 3) (fld w 0 13))
  else .error .prefixWord

/-- A word's fields, before the range checks: the engine field selects the table (R56). -/
def decodeFields (w : Nat) : Except DecodeError Instr :=
  match bitsAt w 29 3 with
  | 0 => decC w
  | 1 => decV w
  | 2 => decM w
  | 3 => decX w
  | 4 => decS w
  | 5 => decB w
  | 6 => decP w
  | _ => .error .reservedEngine

/-- Decoding of a 32-bit word: total, and rejecting by name (R66). -/
def decode (w : Word) : Except DecodeError Instr :=
  match decodeFields w.toNat with
  | .ok i => if i.wf then .ok i else .error .fieldRange
  | .error e => .error e

/-- A field's value at its place in the word. -/
def put {k : Nat} (x : BitVec k) (lo : Nat) : Nat := x.toNat * 2 ^ lo

/-- The sum of the fields' values. -/
def tot (l : List Nat) : Nat :=
  match l with
  | [] => 0
  | a :: t => a + tot t

/-- The value of a word as the encoding tables give it; events have no encoding. -/
def encodeNat (i : Instr) : Option Nat :=
  match i with
  | .packetHeader i c j => some (0xC0000000 + tot [put i 16, put c 13, put j 0])
  | .add g d a b => some (0x00080000 + tot [put g 25, put d 14, put a 9, put b 4])
  | .sub g d a b => some (0x00080001 + tot [put g 25, put d 14, put a 9, put b 4])
  | .and g d a b => some (0x00080002 + tot [put g 25, put d 14, put a 9, put b 4])
  | .or g d a b => some (0x00080003 + tot [put g 25, put d 14, put a 9, put b 4])
  | .xor g d a b => some (0x00080004 + tot [put g 25, put d 14, put a 9, put b 4])
  | .shl g d a b => some (0x00080005 + tot [put g 25, put d 14, put a 9, put b 4])
  | .shr g d a b => some (0x00080006 + tot [put g 25, put d 14, put a 9, put b 4])
  | .shra g d a b => some (0x00080007 + tot [put g 25, put d 14, put a 9, put b 4])
  | .min g d a b => some (0x00080008 + tot [put g 25, put d 14, put a 9, put b 4])
  | .max g d a b => some (0x00080009 + tot [put g 25, put d 14, put a 9, put b 4])
  | .clz g d a => some (0x0008000A + tot [put g 25, put d 14, put a 9])
  | .popc g d a => some (0x0008000B + tot [put g 25, put d 14, put a 9])
  | .mul g d a b => some (0x00100000 + tot [put g 25, put d 14, put a 9, put b 4])
  | .mulh g d a b => some (0x00100001 + tot [put g 25, put d 14, put a 9, put b 4])
  | .mulhu g d a b => some (0x00100002 + tot [put g 25, put d 14, put a 9, put b 4])
  | .div g d a b => some (0x00100003 + tot [put g 25, put d 14, put a 9, put b 4])
  | .divu g d a b => some (0x00100004 + tot [put g 25, put d 14, put a 9, put b 4])
  | .rem g d a b => some (0x00100005 + tot [put g 25, put d 14, put a 9, put b 4])
  | .remu g d a b => some (0x00100006 + tot [put g 25, put d 14, put a 9, put b 4])
  | .cmpEq g d a b => some (0x00180000 + tot [put g 25, put d 14, put a 9, put b 4])
  | .cmpLt g d a b => some (0x00180001 + tot [put g 25, put d 14, put a 9, put b 4])
  | .cmpLtu g d a b => some (0x00180002 + tot [put g 25, put d 14, put a 9, put b 4])
  | .cmpLe g d a b => some (0x00180003 + tot [put g 25, put d 14, put a 9, put b 4])
  | .cmpLeu g d a b => some (0x00180004 + tot [put g 25, put d 14, put a 9, put b 4])
  | .pand g d a b => some (0x00200000 + tot [put g 25, put d 14, put a 9, put b 4])
  | .por g d a b => some (0x00200001 + tot [put g 25, put d 14, put a 9, put b 4])
  | .pxor g d a b => some (0x00200002 + tot [put g 25, put d 14, put a 9, put b 4])
  | .pandn g d a b => some (0x00200003 + tot [put g 25, put d 14, put a 9, put b 4])
  | .jr g d a => some (0x00280000 + tot [put g 25, put d 14, put a 9])
  | .addi g d a i => some (0x00400000 + tot [put g 25, put d 14, put a 9, put i 0])
  | .andi g d a i => some (0x00480000 + tot [put g 25, put d 14, put a 9, put i 0])
  | .ori g d a i => some (0x00500000 + tot [put g 25, put d 14, put a 9, put i 0])
  | .xori g d a i => some (0x00580000 + tot [put g 25, put d 14, put a 9, put i 0])
  | .shli g d a i => some (0x00600000 + tot [put g 25, put d 14, put a 9, put i 0])
  | .shri g d a i => some (0x00680000 + tot [put g 25, put d 14, put a 9, put i 0])
  | .shrai g d a i => some (0x00700000 + tot [put g 25, put d 14, put a 9, put i 0])
  | .cmpiEq g d a i => some (0x00780000 + tot [put g 25, put d 14, put a 9, put i 0])
  | .cmpiLt g d a i => some (0x00800000 + tot [put g 25, put d 14, put a 9, put i 0])
  | .cmpiLtu g d a i => some (0x00880000 + tot [put g 25, put d 14, put a 9, put i 0])
  | .br g o => some (0x00A00000 + tot [put g 25, put o 0])
  | .call g o => some (0x00A80000 + tot [put g 25, put o 0])
  | .loop a l => some (0x00B00000 + tot [put a 14, put l 0])
  | .loopi c l => some (0x00B80000 + tot [put c 9, put l 0])
  | .ldB g t a c o => some (0x00C00000 + tot [put g 25, put t 14, put a 9, put c 5, put o 0])
  | .ldBu g t a c o => some (0x00C80000 + tot [put g 25, put t 14, put a 9, put c 5, put o 0])
  | .ldH g t a c o => some (0x00D00000 + tot [put g 25, put t 14, put a 9, put c 5, put o 0])
  | .ldHu g t a c o => some (0x00D80000 + tot [put g 25, put t 14, put a 9, put c 5, put o 0])
  | .ldW g t a c o => some (0x00E00000 + tot [put g 25, put t 14, put a 9, put c 5, put o 0])
  | .ldWu g t a c o => some (0x00E80000 + tot [put g 25, put t 14, put a 9, put c 5, put o 0])
  | .ldD g t a c o => some (0x00F00000 + tot [put g 25, put t 14, put a 9, put c 5, put o 0])
  | .stB g t a c o => some (0x01000000 + tot [put g 25, put t 14, put a 9, put c 5, put o 0])
  | .stH g t a c o => some (0x01080000 + tot [put g 25, put t 14, put a 9, put c 5, put o 0])
  | .stW g t a c o => some (0x01100000 + tot [put g 25, put t 14, put a 9, put c 5, put o 0])
  | .stD g t a c o => some (0x01180000 + tot [put g 25, put t 14, put a 9, put c 5, put o 0])
  | .amoAdd g d a b c => some (0x01200000 + tot [put g 25, put d 14, put a 9, put b 4, put c 0])
  | .amoAnd g d a b c => some (0x01280000 + tot [put g 25, put d 14, put a 9, put b 4, put c 0])
  | .amoOr g d a b c => some (0x01300000 + tot [put g 25, put d 14, put a 9, put b 4, put c 0])
  | .amoMax g d a b c => some (0x01380000 + tot [put g 25, put d 14, put a 9, put b 4, put c 0])
  | .amoSwap g d a b c => some (0x01400000 + tot [put g 25, put d 14, put a 9, put b 4, put c 0])
  | .amoCas g d a b c => some (0x01480000 + tot [put g 25, put d 14, put a 9, put b 4, put c 0])
  | .csrr g d c => some (0x01800000 + tot [put g 25, put d 14, put c 2])
  | .csrw g d c => some (0x01880000 + tot [put g 25, put d 14, put c 2])
  | .csrs g d c => some (0x01900000 + tot [put g 25, put d 14, put c 2])
  | .csrc g d c => some (0x01980000 + tot [put g 25, put d 14, put c 2])
  | .trapEnd g => some (0x01C00000 + tot [put g 25])
  | .trapService g n => some (0x01C00000 + tot [put g 25, put n 0])
  | .rett => some (0x01C80000 + tot [])
  | .tfence g => some (0x01D00000 + tot [put g 25])
  | .node0 => some (0x01D80000 + tot [])
  | .node1 => some (0x01D80001 + tot [])
  | .node2 => some (0x01D80002 + tot [])
  | .yield => some (0x01E00000 + tot [])
  | .vfaddF32 g d a b n => some (0x20080000 + tot [put g 25, put d 13, put a 7, put b 1, put n 0])
  | .vfaddBf16 g d a b n => some (0x20100000 + tot [put g 25, put d 13, put a 7, put b 1, put n 0])
  | .vfsubF32 g d a b n => some (0x20180000 + tot [put g 25, put d 13, put a 7, put b 1, put n 0])
  | .vfsubBf16 g d a b n => some (0x20200000 + tot [put g 25, put d 13, put a 7, put b 1, put n 0])
  | .vfmulF32 g d a b n => some (0x20280000 + tot [put g 25, put d 13, put a 7, put b 1, put n 0])
  | .vfmulBf16 g d a b n => some (0x20300000 + tot [put g 25, put d 13, put a 7, put b 1, put n 0])
  | .vfmaF32 g d a b n => some (0x20380000 + tot [put g 25, put d 13, put a 7, put b 1, put n 0])
  | .vfmaBf16 g d a b n => some (0x20400000 + tot [put g 25, put d 13, put a 7, put b 1, put n 0])
  | .vfmaxF32 g d a b n => some (0x20480000 + tot [put g 25, put d 13, put a 7, put b 1, put n 0])
  | .vfminF32 g d a b n => some (0x20500000 + tot [put g 25, put d 13, put a 7, put b 1, put n 0])
  | .vfrcp g d a n => some (0x20580000 + tot [put g 25, put d 13, put a 7, put n 0])
  | .vfrsq g d a n => some (0x20600000 + tot [put g 25, put d 13, put a 7, put n 0])
  | .vfexp2 g d a n => some (0x20680000 + tot [put g 25, put d 13, put a 7, put n 0])
  | .vfcmpEq g d a b => some (0x20700000 + tot [put g 25, put d 13, put a 7, put b 1])
  | .vfcmpLt g d a b => some (0x20780000 + tot [put g 25, put d 13, put a 7, put b 1])
  | .vfcmpLe g d a b => some (0x20800000 + tot [put g 25, put d 13, put a 7, put b 1])
  | .vaddI32 g d a b n => some (0x20880000 + tot [put g 25, put d 13, put a 7, put b 1, put n 0])
  | .vaddI16 g d a b n => some (0x20900000 + tot [put g 25, put d 13, put a 7, put b 1, put n 0])
  | .vsubI32 g d a b n => some (0x20980000 + tot [put g 25, put d 13, put a 7, put b 1, put n 0])
  | .vmulI32 g d a b n => some (0x20A00000 + tot [put g 25, put d 13, put a 7, put b 1, put n 0])
  | .vand g d a b n => some (0x20A80000 + tot [put g 25, put d 13, put a 7, put b 1, put n 0])
  | .vor g d a b n => some (0x20B00000 + tot [put g 25, put d 13, put a 7, put b 1, put n 0])
  | .vxor g d a b n => some (0x20B80000 + tot [put g 25, put d 13, put a 7, put b 1, put n 0])
  | .vshl g d a b n => some (0x20C00000 + tot [put g 25, put d 13, put a 7, put b 1, put n 0])
  | .vshr g d a b n => some (0x20C80000 + tot [put g 25, put d 13, put a 7, put b 1, put n 0])
  | .vshra g d a b n => some (0x20D00000 + tot [put g 25, put d 13, put a 7, put b 1, put n 0])
  | .vminI32 g d a b n => some (0x20D80000 + tot [put g 25, put d 13, put a 7, put b 1, put n 0])
  | .vmaxI32 g d a b n => some (0x20E00000 + tot [put g 25, put d 13, put a 7, put b 1, put n 0])
  | .vlut3 g d a b n => some (0x20E80000 + tot [put g 25, put d 13, put a 7, put b 1, put n 0])
  | .vfsh g d a b n => some (0x20F00000 + tot [put g 25, put d 13, put a 7, put b 1, put n 0])
  | .vcmpEq g d a b => some (0x20F80000 + tot [put g 25, put d 13, put a 7, put b 1])
  | .vcmpLt g d a b => some (0x21000000 + tot [put g 25, put d 13, put a 7, put b 1])
  | .vcmpLtu g d a b => some (0x21080000 + tot [put g 25, put d 13, put a 7, put b 1])
  | .vcvtBf16F32 g d a b n => some (0x21100000 + tot [put g 25, put d 13, put a 7, put b 1, put n 0])
  | .vcvtF32Bf16 g d a h n => some (0x21180000 + tot [put g 25, put d 13, put a 7, put h 1, put n 0])
  | .vcvtF32I32 g d a n => some (0x21200000 + tot [put g 25, put d 13, put a 7, put n 0])
  | .vcvtI32F32 g d a n => some (0x21280000 + tot [put g 25, put d 13, put a 7, put n 0])
  | .vcvtE4m3F32 g d a q n => some (0x21300000 + tot [put g 25, put d 13, put a 7, put q 1, put n 0])
  | .vcvtF32E4m3 g d a q n => some (0x21380000 + tot [put g 25, put d 13, put a 7, put q 1, put n 0])
  | .vqntE2m1 g d a q n => some (0x21400000 + tot [put g 25, put d 13, put a 7, put q 1, put n 0])
  | .vdqntE2m1 g d a q n => some (0x21480000 + tot [put g 25, put d 13, put a 7, put q 1, put n 0])
  | .vmov g d a n => some (0x21500000 + tot [put g 25, put d 13, put a 7, put n 0])
  | .vbcast g d s => some (0x21580000 + tot [put g 25, put d 13, put s 8])
  | .vrot g d a i n => some (0x21600000 + tot [put g 25, put d 13, put a 7, put i 1, put n 0])
  | .vperm g d a b n => some (0x21680000 + tot [put g 25, put d 13, put a 7, put b 1, put n 0])
  | .vsel g d a b n => some (0x21700000 + tot [put g 25, put d 13, put a 7, put b 1, put n 0])
  | .vld g d s o c => some (0x21780000 + tot [put g 25, put d 13, put s 8, put o 4, put c 0])
  | .vst g d s o c => some (0x21800000 + tot [put g 25, put d 13, put s 8, put o 4, put c 0])
  | .vldg g d a s c => some (0x21880000 + tot [put g 25, put d 13, put a 7, put s 2, put c 0])
  | .vredAdd g d a s n => some (0x21900000 + tot [put g 25, put d 13, put a 7, put s 1, put n 0])
  | .vredMax g d a s n => some (0x21980000 + tot [put g 25, put d 13, put a 7, put s 1, put n 0])
  | .vany g d a => some (0x21A00000 + tot [put g 25, put d 13, put a 7])
  | .vpush g d a => some (0x21A80000 + tot [put g 25, put d 13, put a 7])
  | .vpushBal g d a => some (0x21A80002 + tot [put g 25, put d 13, put a 7])
  | .vpop g d a b n => some (0x21B00000 + tot [put g 25, put d 13, put a 7, put b 1, put n 0])
  | .kand g d a b => some (0x21B80000 + tot [put g 25, put d 13, put a 7, put b 1])
  | .kor g d a b => some (0x21C00000 + tot [put g 25, put d 13, put a 7, put b 1])
  | .knot g d a => some (0x21C80000 + tot [put g 25, put d 13, put a 7])
  | .mload g a b c => some (0x40080000 + tot [put g 25, put a 12, put b 7, put c 3])
  | .mloadt g a b c => some (0x40100000 + tot [put g 25, put a 12, put b 7, put c 3])
  | .mmulE2m1 g t a b c k u => some (0x40180000 + tot [put g 25, put t 17, put a 12, put b 7, put c 3, put k 2, put u 1])
  | .mmulE4m3 g t a b c k u => some (0x40200000 + tot [put g 25, put t 17, put a 12, put b 7, put c 3, put k 2, put u 1])
  | .mmulE5m2 g t a b c k u => some (0x40280000 + tot [put g 25, put t 17, put a 12, put b 7, put c 3, put k 2, put u 1])
  | .mmulI8 g t a b c k u => some (0x40300000 + tot [put g 25, put t 17, put a 12, put b 7, put c 3, put k 2, put u 1])
  | .mmulBf16 g t a b c k u => some (0x40380000 + tot [put g 25, put t 17, put a 12, put b 7, put c 3, put k 2, put u 1])
  | .mmulF16 g t a b c k u => some (0x40400000 + tot [put g 25, put t 17, put a 12, put b 7, put c 3, put k 2, put u 1])
  | .mmulg g t a b f c k u => some (0x40480000 + tot [put g 25, put t 17, put a 12, put b 7, put f 4, put c 3, put k 2, put u 1])
  | .mgrp g t a b f c k u => some (0x40500000 + tot [put g 25, put t 17, put a 12, put b 7, put f 4, put c 3, put k 2, put u 1])
  | .mconv g t a b f c k u => some (0x40580000 + tot [put g 25, put t 17, put a 12, put b 7, put f 4, put c 3, put k 2, put u 1])
  | .mscl g t a b u => some (0x40600000 + tot [put g 25, put t 17, put a 12, put b 7, put u 1])
  | .mdrainF32 g t a b k z => some (0x40680000 + tot [put g 25, put t 17, put a 12, put b 7, put k 2, put z 0])
  | .mdrainBf16 g t a b k z => some (0x40700000 + tot [put g 25, put t 17, put a 12, put b 7, put k 2, put z 0])
  | .mzero g t => some (0x40780000 + tot [put g 25, put t 17])
  | .mmode g a b => some (0x40800000 + tot [put g 25, put a 12, put b 7])
  | .ckloc g t a => some (0x40880000 + tot [put g 25, put t 17, put a 12])
  | .ckfix g t => some (0x40900000 + tot [put g 25, put t 17])
  | .ckinj g t b => some (0x40980000 + tot [put g 25, put t 17, put b 7])
  | .ckrd g t a b => some (0x40A00000 + tot [put g 25, put t 17, put a 12, put b 7])
  | .mrty g t => some (0x40A80000 + tot [put g 25, put t 17])
  | .xcopy g a b c l => some (0x60080000 + tot [put g 25, put a 14, put b 9, put c 4, put l 0])
  | .xsend g a b l => some (0x60100000 + tot [put g 25, put a 14, put b 9, put l 0])
  | .xrecv g a b c l => some (0x60180000 + tot [put g 25, put a 14, put b 9, put c 4, put l 0])
  | .xjob g a b => some (0x60200000 + tot [put g 25, put a 14, put b 9])
  | .xjobf g a b => some (0x60280000 + tot [put g 25, put a 14, put b 9])
  | .fence g s m => some (0x80000000 + tot [put g 25, put s 16, put m 0])
  | .tklend g a b s => some (0x80100000 + tot [put g 25, put a 15, put b 10, put s 6])
  | .tklendPass g a b s => some (0x80100001 + tot [put g 25, put a 15, put b 10, put s 6])
  | .tkshare g a b s => some (0x80200000 + tot [put g 25, put a 15, put b 10, put s 6])
  | .tkshareRv g a b s => some (0x80200001 + tot [put g 25, put a 15, put b 10, put s 6])
  | .tktake g a b s => some (0x80300000 + tot [put g 25, put a 15, put b 10, put s 6])
  | .tktakeSh g a b s => some (0x80300001 + tot [put g 25, put a 15, put b 10, put s 6])
  | .tkret g a s => some (0x80400000 + tot [put g 25, put a 15, put s 6])
  | .tkretSh g a s => some (0x80400001 + tot [put g 25, put a 15, put s 6])
  | .tksplit g a b => some (0x80500100 + tot [put g 25, put a 15, put b 10])
  | .tkjoin g a b => some (0x80600100 + tot [put g 25, put a 15, put b 10])
  | .tkqry g a b s => some (0x80700000 + tot [put g 25, put a 15, put b 10, put s 6])
  | .tkqryBase g a b s => some (0x80700001 + tot [put g 25, put a 15, put b 10, put s 6])
  | .tkqryAg g a b s => some (0x80700002 + tot [put g 25, put a 15, put b 10, put s 6])
  | .tkmint g a b => some (0x808001C0 + tot [put g 25, put a 15, put b 10])
  | .tkmintNew g a b => some (0x808001C1 + tot [put g 25, put a 15, put b 10])
  | .barm g a b => some (0x809001C0 + tot [put g 25, put a 15, put b 10])
  | .barmFree g a => some (0x809001C1 + tot [put g 25, put a 15])
  | .barr g a s => some (0x80A00000 + tot [put g 25, put a 15, put s 6])
  | .barrQ g a b s => some (0x80A00001 + tot [put g 25, put a 15, put b 10, put s 6])
  | .bwait g a b s => some (0x80B00000 + tot [put g 25, put a 15, put b 10, put s 6])
  | .realign g a b s => some (0x80C00000 + tot [put g 25, put a 15, put b 10, put s 6])
  | .srdef g a b => some (0x80D00100 + tot [put g 25, put a 15, put b 10])
  | .srkill g a => some (0x80E00100 + tot [put g 25, put a 15])
  | .badd g a b d t u => some (0xA0080000 + tot [put g 25, put a 14, put b 9, put d 4, put t 1, put u 0])
  | .bsub g a b d t u => some (0xA0100000 + tot [put g 25, put a 14, put b 9, put d 4, put t 1, put u 0])
  | .bmul g a b d t u => some (0xA0180000 + tot [put g 25, put a 14, put b 9, put d 4, put t 1, put u 0])
  | .bmac g a b d t u => some (0xA0200000 + tot [put g 25, put a 14, put b 9, put d 4, put t 1, put u 0])
  | .bcmp g a b d v c => some (0xA0280000 + tot [put g 25, put a 14, put b 9, put d 4, put v 2, put c 0])
  | .blog g a b d t => some (0xA0300000 + tot [put g 25, put a 14, put b 9, put d 4, put t 0])
  | .bsum g a d t u => some (0xA0380000 + tot [put g 25, put a 14, put d 4, put t 1, put u 0])
  | .looseWaitEnd _ => none
  | .mQueueIssue _ _ => none
  | .bQueueIssue _ => none
  | .resultLand _ => none
  | .accessPerform _ => none
  | .pagerRelease _ => none
  | .bankedOutReturn _ => none
  | .freezeRelease _ => none
  | .interruptTaken _ => none
  | .interruptTimerExpiry _ => none
  | .checkerMismatch => none
  | .phaseRestart _ => none
  | .refreshSlot => none
  | .frameEnd => none
  | .framePulse => none
  | .launch => none
  | .fencePacket => none
  | .fencePoll => none
  | .signal => none
  | .jobPacket => none
  | .tokenMint => none
  | .tokenLend => none
  | .tokenPass => none
  | .tokenReturn => none
  | .nop => none
  | .queueLevelAging => none
  | .queueEnable _ => none
  | .queueRestart _ _ => none
  | .queueDisable => none
  | .contextOpen _ => none
  | .contextClose => none
  | .contextFree => none
  | .placeWave => none
  | .waveRelease _ => none
  | .kernelComplete _ => none
  | .gateRequest => none
  | .drainingQuiet => none
  | .gateCounterExpiry => none
  | .wakeRequest => none
  | .wakeComplete => none
  | .yieldRequestPost _ _ => none
  | .yieldRequestArm _ _ _ => none
  | .yieldDeadlineExpiry _ => none
  | .shootdownPost _ _ => none
  | .shootdownAck _ _ => none
  | .shootdownUpdate _ => none
  | .stackOffline => none
  | .forcedOffline => none
  | .debuggerHalt => none
  | .debuggerResume => none
  | .coreCountClear => none
  | .timerArm _ _ => none
  | .runtimeMessagePost _ _ => none
  | .hostWindowTableRegister _ _ _ => none
  | .realignStop _ _ => none
  | .realignRelease _ => none
  | .realignTimeout _ => none
  | .handoffRelease _ => none
  | .handoffArrival _ => none
  | .tktakeTimeout _ _ => none
  | .jobStart _ => none
  | .jobUnpark _ => none
  | .jobComplete _ => none
  | .messageArrival _ => none
  | .xrecvTimeout _ => none
  | .orphanMessageTimeout _ _ => none
  | .chainPartialArrival _ => none
  | .barmArrival _ => none
  | .barrierEvent _ => none
  | .barrierNotice _ => none
  | .bwaitDeadline _ _ => none
  | .flitReceive _ _ => none
  | .replayComplete => none
  | .linkTrainingDone _ _ _ => none
  | .retrainTimeout => none
  | .linkRetrainRequest => none
  | .linkRetireRequest => none
  | .linkReset => none
  | .lstatRplyClear _ _ => none
  | .hostMemAccess _ => none
  | .powerUp => none
  | .packageNumberSet _ _ => none
  | .firmwareUpdate _ _ => none
  | .measurementRequest => none
  | .elogRdWrite _ => none
  | .elogLostClear _ => none
  | .temperatureHigh => none
  | .temperatureNormal => none
  | .malformedPacket => none
  | .managementPathTkmint _ _ => none
  | .managementPathBarrierArm _ => none
  | .managementPathBarrierFree _ => none

/-- The words of an instruction: one for a code word, none for an event. -/
def encode (i : Instr) : List Word :=
  match encodeNat i with
  | some n => [BitVec.ofNat 32 n]
  | none => []

/-- The four bytes of a word as instruction memory holds them, the least significant first (R55). -/
def wordBytes (w : Nat) : List Byte :=
  [BitVec.ofNat 8 w, BitVec.ofNat 8 (w / 2 ^ 8), BitVec.ofNat 8 (w / 2 ^ 16), BitVec.ofNat 8 (w / 2 ^ 24)]

/-- The word that four bytes of instruction memory hold (R55). -/
def bytesWord (bs : List Byte) : Nat :=
  match bs with
  | [] => 0
  | b :: t => b.toNat + 256 * bytesWord t

/-- Decoding from the bytes at an address: the instruction and the bytes behind it. -/
def decodeBytes (bs : List Byte) : Except DecodeError (Instr × List Byte) :=
  match bs with
  | a :: b :: c :: d :: rest =>
    match decode (BitVec.ofNat 32 (bytesWord [a, b, c, d])) with
    | .ok i => .ok (i, rest)
    | .error e => .error e
  | _ => .error .unassignedOp

/-- The instruction that the decoder reads from a table row's bits (every encoded row is one word of 32 bits). -/
def decodeTableWord (nbits w : Nat) : Option Instr :=
  if nbits = 32 ∧ w < 2 ^ 32 then
    match decodeBytes (wordBytes w) with
    | .ok (i, _) => some i
    | .error _ => none
  else none

end Sys2Proof
end

