-- ==== Sys2Proof/Config.lean ====
section
/-! DEFINITION. What an implementation fixes and the spec leaves open. The free values are opaque: nothing in Lean can
evaluate them or prove a value of them, so a statement about one holds for every value. -/

namespace Sys2Proof

/-- A free choice among the outcomes the spec allows (R7): the value for the `n`-th choice the machine makes. The state's
counter `freeCtr` numbers the choices. Log entry 3. -/
opaque Config.freeNat : Nat → Nat

/-- The bytes a read of another package's or an outside agent's memory returns, for the `n`-th such read. Log entry 3. -/
opaque Config.freeByte : Nat → BitVec 8

/-- Whether zone `z` stretches its clock at hub kc `h` (R18, R338); the step bounds how often it may. Log entry 4. -/
opaque Config.stretch : Nat → Nat → Bool

/-- Whether a firmware image with its signature verifies (R401): ECDSA over Brainpool P-384 with SHA-384, whose key the
spec does not give. Log entry 5. -/
opaque Config.verifies : List (BitVec 8) → List (BitVec 8) → Bool

/-- The SHA-384 digest of a byte string (R401), as a 384-bit value: the digest's computation is not part of the spec. Log
entry 5. -/
opaque Config.digest : List (BitVec 8) → BitVec 384

/-- The position in the output that a row of a convolution has whose output width is not positive (R179): by the row's pixel number, twice it for the
line and one more for the column. Log entry 113. -/
opaque Config.freePosition : Nat → Nat

/-- Where the trap frame of a bank lies in its stack's SRAM (R366), in doublewords, by the bank's number: the spec says that
`frame` reads it and gives no address. Log entry 3. -/
opaque Config.frameSlot : Nat → Nat

/-- The refresh frame of a stack zone, in kc (R338). -/
def Config.frameKc : Nat := 15616

/-- The period of the frame pulse, in hub kc (R338). -/
def Config.pulseKc : Nat := 15712

end Sys2Proof
end

