-- ==== Sys2Proof/Machine/State.lean ====
section
/-! DEFINITION. The state of one Trelwen D8 package: everything the spec names, as plain data. Memory is one list of
(address, byte) pairs in canonical form; other maps are sparse maps. `State.reset` is the package at power-on, before
bring-up. Reset values the spec does not give are named in log entries 1, 2 and 6. -/

namespace Sys2Proof.Machine

/-- Why the machine stops. -/
inductive Fault where
  /-- Raised by a memory access that performs at a physical address the map of R274 does not have. Safe: R278 lets no
  window-table entry map such an address, so no run that started from a checked launch reaches it. -/
  | noSuchAddress (pa : Nat)
  deriving DecidableEq, Repr

/-- Why an instruction has no meaning here. -/
inductive Refusal where
  /-- Raised by an arm of `exec` whose instruction has no meaning yet. Safe: the machine does not go on. -/
  | notModelled (mnemonic : String)
  deriving DecidableEq, Repr

/-- The states of a strand (R82). -/
inductive StrandState where
  | unloaded | ready | running | waiting | trapped | frozen | bankedOut | yielded | halted | done | failed
  deriving DecidableEq, Repr

/-- What a strand in loose or safelight mode waits for (R82). A packet may leave it several waits. -/
inductive WaitFor where
  /-- Held at issue by R58, R63, R64, R123, R245 or R251. -/
  | issue
  /-- A take of a token, or of a share (R231). -/
  | take (id : Nat) (share : Bool)
  /-- A barrier's trip (R354): the barrier, the phase expected, the mirror's trips when the word issued, and its packet's kc and address. -/
  | barrier (idx : Nat) (phase : Bool) (trips : Nat) (pkc waddr : Nat)
  /-- A message (R264): the channel. -/
  | receive (chan : Nat)
  deriving DecidableEq, Repr

/-- An entry of the loop stack (R101). -/
structure LoopEntry where
  start : Nat
  stop : Nat
  left : Nat
  deriving DecidableEq, Repr

/-- The mode of a held-token entry (R222). -/
inductive HeldMode where
  | own | share | lentOut
  deriving DecidableEq, Repr

/-- An entry of the held-token set (R222): the token's id, its region, its mode, the dirty-since-take and leaving bits.
`spad` marks the placement token, whose region is the group's scratchpad in each of its cells (R223). -/
structure HeldTok where
  id : Nat
  base : Nat
  size : Nat
  mode : HeldMode
  dirty : Bool
  leaving : Bool
  spad : Bool
  deriving DecidableEq, Repr

/-- A message held in a receive channel (R262, R265): its number, its arrival kc, and the message. -/
structure ChanMsg where
  serial : Nat
  at_ : Nat
  msg : Message
  deriving DecidableEq, Repr

/-- A node snapshot (R112): `cp`, `s1` to `s7` and the issue kc of the word that wrote it. -/
structure Snapshot where
  cp : Nat
  regs : List Dword
  kc : Nat
  deriving DecidableEq, Repr

/-- A fault record (R358). -/
structure FaultRec where
  pkg : Nat
  restartable : Bool
  late : Bool
  col : Nat
  row : Nat
  stack : Nat
  opsel : Nat
  eng : Nat
  cause : Nat
  waddr : Nat
  pkc : Nat
  addr : Nat
  detail : Nat
  deriving DecidableEq, Repr

/-- What an agenda entry does when its time comes: a packet of a bank is fetched and issues, a word executes at its
engine, an event of the table takes place, a trap or a fatal fault decided earlier takes effect at its freeze kc (R364), or
the hub's stop notice reaches a zone of a group (R343). -/
inductive Pay where
  | fetch (bank : Nat)
  | word (w : Word)
  | ev (i : Instr)
  | enter (bank : Nat) (r : FaultRec)
  | stop (g z : Nat)
  /-- A group whose strands have all yielded leaves its rows once its words in flight are through (R84, R112; log entry 119). -/
  | leave (g : Nat)
  deriving DecidableEq, Repr

/-- An entry of the agenda: its clock and time, its place among the entries of that time (phase, row, engine, order of
entry), the context of the word it belongs to, and what it does. -/
structure Timed where
  clk : Clk
  at_ : Nat
  ph : Nat
  row : Nat
  eng : Nat
  seq : Nat
  ctx : Ctx
  pay : Pay
  deriving DecidableEq, Repr

/-- A word waiting in an M or B queue (R64), with the row's order of entry. -/
structure QWord where
  word : Word
  ctx : Ctx
  clk : Clk
  arrive : Nat
  issueAt : Nat
  win : Nat
  /-- The job whose follow-on word this is (R192). -/
  job : Option Nat
  /-- The word's rectangle has failed: it writes no accumulator row (R162). -/
  dead : Bool
  deriving DecidableEq, Repr

/-- The bank groups of a row's cells held from one kc to before another (R171). -/
structure Hold where
  from_ : Nat
  upto : Nat
  cells : BitVec 8
  deriving DecidableEq, Repr

/-- A creel buffer as the words dispatched so far will leave it (R163, R169): the kc at which it is full, none where it will be
empty, the format of its load, and the kc from which it may be loaded again. -/
structure BufPlan where
  full : Option Nat
  fmt : Nat
  rel : Nat
  deriving DecidableEq, Repr

/-- A tile as the words dispatched so far will leave it (R163, R185): its type and checks, the rows of its last overwrite, the kc
at which it is complete, at which its last drain frees the port, at which a queued word clears it, and at which one takes it from held
(R211, R216). -/
structure TilePlan where
  typed : Bool
  int : Bool
  checked : Bool
  fmt : Nat
  ow : Option (Nat × Nat)
  done : Nat
  port : Nat
  clr : Nat
  rerun : Nat
  deriving DecidableEq, Repr

/-- The resources of a row's M and B engines (R163, R296). Every issue kc is fixed at dispatch: the first five fields are the
kc from which each resource is free of every word dispatched so far, the next four of every word issued so far; then the
loader windows and bank-group holds fixed so far, and what becomes of buffers and tiles. -/
structure MRes where
  issue : Nat
  loader : Nat
  array : Nat
  port : Nat
  bfree : Nat
  issueNow : Nat
  loaderNow : Nat
  arrayNow : Nat
  portNow : Nat
  loads : List Hold
  holds : List Hold
  bufs : Sparse BufPlan
  tiles : Sparse TilePlan
  deriving DecidableEq, Repr

/-- The trap frame of a bank (R366): its 16 KiB as a sparse map of bytes, and what is kept beside it: the fault record, the
freeze kc F, the kc N of the packet at cp, the cp at entry, the loop stack, the number of attempts counted since entry
(R207), the bad parities (R371), and the state and wait to which the strand returns. -/
structure Frame where
  bytes : Sparse Byte
  frec : FaultRec
  f : Nat
  n : Nat
  cp : Nat
  loops : List LoopEntry
  retries : Nat
  bad : BitVec 32
  badChk : BitVec 32
  prev : StrandState
  wait : List WaitFor
  /-- The row's frozen queues and busy times, which rest in the frame while the handler runs (R362). -/
  mq : List QWord
  bq : List QWord
  res : MRes
  divBusy : Nat
  xBusy : Nat
  /-- The strand's fences, on its kernel time; the handler's own end with it (R251). -/
  fences : Sparse Nat
  deriving DecidableEq, Repr

/-- The acknowledgement of an access outside the zone (R251): the kc at which the strand knows that it has performed, its class and its packet. -/
structure Ack where
  kc : Nat
  cls : Nat
  pkc : Nat
  hand : Bool
  deriving DecidableEq, Repr

/-- The state of one strand, which lives in one context bank of a control core (R91). -/
structure Strand where
  st : StrandState
  /-- The state before a freeze, a wait or a halt, to which the strand returns (R83). -/
  prev : StrandState
  grp : Nat
  gstack : Nat
  grow : Nat
  cp : Nat
  s : Sparse Dword
  p : BitVec 16
  aflags : BitVec 8
  /-- The flags raised in hub kc `freshAt`: a flag raised beats a clear in its kc (R53, R108). -/
  fresh : BitVec 8
  freshAt : Nat
  aen : BitVec 8
  vrm : BitVec 3
  seed : BitVec 32
  serial : BitVec 32
  vftz : Bool
  ie : Bool
  trap : Bool
  cksyn : Dword
  ckret : BitVec 16
  cktol : List (BitVec 16)
  yreq : BitVec 2
  ydl : Nat
  v : Sparse Vec
  x : Sparse Vec
  k : Sparse Mask
  q : Sparse (List Word)
  loops : List LoopEntry
  held : List HeldTok
  chans : Sparse ChanMsg
  snap : Option Snapshot
  /-- Cards submitted in the phase that closed last (R307), and those of the phase in progress. -/
  cards : List (List Byte)
  cardsNow : List (List Byte)
  frame : Option Frame
  /-- Pending interrupts by sub-code with their detail (R370). -/
  pend : Sparse Nat
  timer : Option Nat
  wait : List WaitFor
  /-- The earliest kc at which a later access of each class may perform (R251). -/
  fences : Sparse Nat
  /-- An armed `realign`: its K, its slack, its packet's kc and its address (R344). -/
  realign : Option (Nat × Nat × Ctx)
  /-- Scalar registers whose parity is bad, and those whose copy in the checker core is bad too (R371). -/
  badPar : BitVec 32
  badChk : BitVec 32
  /-- Words that fail their parity (R127, R379, R380), by 128 times the unit and their place in it: vector registers 0 to 47, result latches 48 to 63,
  the receive buffer of channel n 64 + n, held operation i of the hold buffer 128 + i. `true` where no code can rebuild them. -/
  vbad : Sparse Bool
  /-- The window-table snapshot is stale after a debugger halt (R83). -/
  stale : Bool
  /-- The strand stands at its node packet for a shoot-down (R287). -/
  shot : Bool
  /-- Acknowledgements on their way back from outside the zone (R251). -/
  acks : List Ack
  deriving DecidableEq, Repr

/-- A checksum store and the values of an accumulator tile (R184, R196). -/
inductive TileState where
  | clear | filling | complete | held | poisoned
  deriving DecidableEq, Repr

/-- The product that formed a tile alone (R196, R213): its word, the context with its captured records and operands, the
generations of the buffers `cb0` and `cb1` when it issued, and the row counts of an `mgrp`. -/
structure Product where
  word : Word
  ctx : Ctx
  gens : List Nat
  counts : List Nat
  deriving DecidableEq, Repr

/-- An accumulator tile (R184) with its checksum stores (R196), the state of its last overwrite, its single product, the
tolerance its failing drain sampled (R203), and an armed injection (R214). -/
structure Tile where
  st : TileState
  int : Bool
  typed : Bool
  checked : Bool
  nprod : Nat
  cinSeen : Bool
  vals : Sparse (List Word)
  cs : Sparse Word
  cr : Sparse (List Word)
  mask : BitVec 8
  owTrow : Nat
  owM : Nat
  owSet : Bool
  counts : List Nat
  cap : Nat
  fmt : Nat
  /-- The column of the first active cell of the last product (R202). -/
  col0 : Nat
  prod : Option Product
  tol : BitVec 16
  inj : Option (BitVec 24)
  deriving DecidableEq, Repr

/-- The state of a creel buffer (R169). -/
inductive CreelState where
  | empty | filling | full | reading
  deriving DecidableEq, Repr

/-- One number of creel buffer over the cells of a row (R169): by cell, the K-blocks and headers of its 64 output columns and the
weights of the checksum column; the format of the load; `gen` counts the loads. -/
structure Creel where
  st : CreelState
  fmt : Nat
  gen : Nat
  blocks : Sparse (List (BitVec 512))
  hdrs : Sparse (List Nat)
  wc : Sparse (List Word)
  deriving DecidableEq, Repr

/-- A macro word in progress (R193): the word, its context, its issue kc, the clock it runs on, its window, the 64-byte
lines and the words it has gathered so far, the product it runs with its injection (R214), and whether it has come to
nothing. -/
structure Macro where
  word : Word
  ctx : Ctx
  clk : Clk
  t : Nat
  win : Nat
  inj : Option (BitVec 24)
  buf : Sparse (BitVec 512)
  words : Sparse Word
  prod : Option Product
  dead : Bool
  deriving DecidableEq, Repr

/-- The power state of a row's array-die part (R124). -/
inductive Power where
  | on | draining | drainingQuiet | gated | waking
  deriving DecidableEq, Repr

/-- A line of a core's data cache (R225): its data, the mask of its dirty bytes, and the agent that wrote it last. -/
structure CacheLine where
  data : BitVec 512
  dirty : BitVec 64
  owner : Nat
  deriving DecidableEq, Repr

/-- A row: its control and checker core, and its array-die part (R15). -/
structure Row where
  run : Nat
  /-- The zone kc from which the running bank's packets may issue after a switch (R92). -/
  runFrom : Nat
  mism : Nat
  failed : Bool
  pwr : Power
  /-- The number of the latest change of power state, which tells a stale counter event (R124). -/
  pwrGen : Nat
  mq : List QWord
  bq : List QWord
  foq : List QWord
  res : MRes
  divBusy : Nat
  xBusy : Nat
  creels : Sparse Creel
  tiles : Sparse Tile
  mmMode : BitVec 3
  mmSeed : BitVec 32
  mmBase : BitVec 32
  edge : Sparse (List Word)
  macros : Sparse Macro
  nextMacro : Nat
  /-- Lines of the core's data cache (R225), by the line number of their home address, so that both DRAM windows share them (R255, R275). -/
  dcache : Sparse CacheLine
  /-- Words of tile rows (`tileKey`), creel cells (`creelKey`) and edge-buffer entries (`edgeKey`) that fail their parity (R379, R380), by 128 times the
  unit and their place in it: `true` where no code can rebuild them. -/
  arrBad : Sparse Bool
  /-- The core's log of the most recent scalar register writes of both its banks, latest first, at most 16 (R371): 32 times the bank of the core, and
  the register. -/
  wlog : List Nat
  paired : Bool
  deriving DecidableEq, Repr

/-- A slot of a group's partition (R155). -/
structure Slot where
  live : Bool
  gen : Nat
  img : ShapeImg
  /-- The hub kc at which an `srdef` last landed in it, by which an `srkill` of that kc knows it (R159). -/
  defAt : Option Nat
  deriving DecidableEq, Repr

/-- A stack's mirror of a barrier (R349). -/
structure Mirror where
  state : Nat
  ctx : Nat
  phase : Bool
  trips : Nat
  deriving DecidableEq, Repr

/-- A code image held in a stack's instruction memory (R330): its place, its length and its handler offset (R361). -/
structure Image where
  base : Nat
  size : Nat
  deriving DecidableEq, Repr

/-- A stack: its zone's clock, frame and stretches, its slot tables, locked window tables, code images and barrier mirror. -/
structure Stack where
  online : Bool
  zkc : Nat
  frameN : Nat
  f : Nat
  stretched : Nat
  slots : Sparse Slot
  part : Sparse Nat
  tables : Sparse (List WEntry)
  images : Sparse Image
  mirror : Sparse Mirror
  /-- What is left of each group's token-entry pool (R233). -/
  pool : Sparse Nat
  hot : Bool
  /-- The hub kc from which the stack's hub link is free (R20, R330). -/
  linkFree : Nat
  deriving DecidableEq, Repr

/-- The states of a context (R304). -/
inductive CtxState where
  | free | opened | halted | closing
  deriving DecidableEq, Repr

/-- The budget fields of a control block (R300, R301), as effective values. -/
structure Budget where
  prio : Nat
  fdom : Nat
  rows : Nat
  stackTab : Nat
  spad : Nat
  acc : Nat
  jobs : Nat
  tok : Nat
  bar : Nat
  shape : Nat
  bounce : Nat
  dram : Nat
  deriving DecidableEq, Repr

/-- A context (R303). -/
structure Context where
  st : CtxState
  blk : Nat
  bud : Budget
  recov : Nat
  recovk : Nat
  hostbk : Bool
  backing : Nat
  pool : Nat
  ngrp : Nat
  hostTable : List WEntry
  /-- The host agent's held tokens (R243). -/
  hostHeld : List HeldTok
  /-- The key under which the cell controllers encrypt the context's sealed pages (R17, R279). No instruction reads it. -/
  key : BitVec 512
  deriving DecidableEq, Repr

/-- The states of a queue (R313, R322). -/
inductive QueueState where
  | disabled | idle | held | fenced | suspended | stopped
  deriving DecidableEq, Repr

/-- A packet that is parsed and not yet performed (R316): what its performance waits for. -/
inductive Pending where
  | kernel (k : Nat)
  | job (j serial : Nat)
  | until (hkc : Nat)
  deriving DecidableEq, Repr

/-- A queue (R313) as the hub holds it. -/
structure Queue where
  st : QueueState
  blk : Nat
  ctx : Nat
  bud : Budget
  ring : Nat
  k : Nat
  cap : Nat
  priv : Bool
  bell : Nat
  ci : Nat
  /-- The producer index as the scheduler last saw it, and the hub kc at which the head became eligible. -/
  pi : Nat
  since : Option Nat
  level : Nat
  pend : List Pending
  /-- FENCE packets not performed: the packet's number, and the counters it waits on (R318): package, index, threshold. One met since the last turn
  has none left (R324). -/
  fence : List (Nat × List (Nat × Nat × Nat))
  /-- Model's own: how often the number has been enabled, which tells a queue from an earlier one of its number (R312). -/
  life : Nat
  /-- The hub kc before which its ring is not read: a word of it is being rebuilt (R380). -/
  busy : Nat
  deriving DecidableEq, Repr

/-- The states of a kernel (R331). -/
inductive KernState where
  | pending | running | frozen | completing | complete | faulted
  deriving DecidableEq, Repr

/-- A kernel (R325, R326). -/
structure Kernel where
  st : KernState
  blk : Nat
  queue : Nat
  ctx : Nat
  pktNo : Nat
  tag : Nat
  order : Nat
  bud : Budget
  code : Nat
  csize : Nat
  mode : Nat
  drainsafe : Bool
  paired : Bool
  usev : Bool
  usem : Bool
  useb : Bool
  rR : Nat
  rS : Nat
  table : List WEntry
  shapes : List ShapeImg
  parm : List Dword
  hand : List (Nat × Nat)
  gx : Nat
  gy : Nat
  gz : Nat
  nextL : Nat
  ended : Nat
  flt : Bool
  done : Nat
  dinc : Dword
  /-- Hub kc at which every hand-over made in completing has passed its H (R331). -/
  handBy : Nat
  handed : Bool
  /-- A shoot-down in progress (R287): the changes, the stacks still to acknowledge. -/
  shoot : List WChange
  shootWait : List Nat
  /-- The address of the window-table image, locked at placement (R277, R330). -/
  wtab : Nat
  /-- The `life` of the kernel's queue, its limits (R302), and its packets before this one that were not performed at the parse (R331). -/
  qlife : Nat
  qbud : Budget
  prior : List Pending
  deriving DecidableEq, Repr

/-- The states of a group (R346). -/
inductive GroupState where
  | pending | placing | running | frozen | yielding | yielded | retired | killed
  deriving DecidableEq, Repr

/-- Why a group's kernel time stands (R343, R345, R287, R380). -/
inductive StopFor where
  | trap | realign | shootdown | debugger | rebuild | pager
  deriving DecidableEq, Repr

/-- A zone of a placed group: its kernel kc, whether it runs, the frame and the hub kc in which it stopped, and the first frame
in which it may resume. -/
structure GZone where
  z : Nat
  kc : Nat
  go : Bool
  stopN : Nat
  stopH : Nat
  resN : Option Nat
  reported : Bool
  deriving DecidableEq, Repr

/-- What a strand's save record holds (R305). -/
structure SaveRec where
  snap : Option Snapshot
  held : List HeldTok
  cards : List (List Byte)
  deriving DecidableEq, Repr

/-- A group (R305, R346). -/
structure Group where
  st : GroupState
  kern : Nat
  ctx : Nat
  inst : Nat
  linear : Nat
  gidx : Nat
  gidy : Nat
  gidz : Nat
  mode : Nat
  rR : Nat
  rS : Nat
  stack0 : Nat
  row0 : Nat
  paired : Bool
  win : Nat
  zones : List GZone
  placed : Nat
  ckret : BitVec 16
  hist : List (Nat × Nat)
  ydcount : Nat
  yreq : BitVec 2
  ydReal : Sparse Nat
  saves : Sparse SaveRec
  ptok : Nat
  /-- The group's scratchpad budget region in each of its cells (R223): its offset and its length. -/
  spadBase : Nat
  spadLen : Nat
  cancels : Nat
  stops : List StopFor
  /-- How many of the kept phase cards a phase restart under way has submitted again (R307). -/
  restart : Option Nat
  withdrawn : Bool
  /-- The frame pulse that starts the group has come (R346). -/
  started : Bool
  deriving DecidableEq, Repr

/-- The states of a token entry (R221). -/
inductive TokState where
  | free | owned | lent | shared | inFlight | lost | orphaned
  deriving DecidableEq, Repr

/-- A token-table entry (R221), or the guest entry of another package's token (R241), whose base is an address of that package. -/
structure Token where
  st : TokState
  size : Nat
  base : Nat
  gen : Nat
  holder : Nat
  lender : Nat
  target : Nat
  shares : Nat
  ctx : Nat
  hscope : Nat
  /-- Agents granted a share and not yet a taker of it (R230), with the kc or time at which the grant reached them. -/
  grants : List Nat
  /-- The hand-off in flight has reached its target (R231), and it is a return (R232). -/
  arrived : Bool
  ret : Bool
  deriving DecidableEq, Repr

/-- A barrier (R348). -/
structure Barrier where
  state : Nat
  phase : Bool
  pending : Nat
  arr : Nat
  ctx : Nat
  n : Nat
  bytes : Nat
  sig : Bool
  c : Nat
  trips : Nat
  /-- The kernel whose strand armed it (R302). -/
  kern : Nat
  deriving DecidableEq, Repr

/-- The states of a job (R270). -/
inductive JobState where
  | queued | ready | running | parked | complete | faulted
  deriving DecidableEq, Repr

/-- A job (R266, R270): its card, the records captured, the submitter, and what it still waits for. -/
structure Job where
  st : JobState
  serial : Nat
  card : BitVec 1024
  src : ShapeImg
  dst : ShapeImg
  agent : Nat
  submitter : Nat
  ctx : Nat
  grp : Nat
  kern : Nat
  stack : Nat
  row : Nat
  waddr : Nat
  pkc : Nat
  sched : Nat
  tbl : List WEntry
  toks : List HeldTok
  edges : List Nat
  phase : Bool
  foImg : List ShapeImg
  /-- What a parked job has left to write: line, data and mask (R270). -/
  todo : List (Nat × Nat × Nat)
  /-- A handler submitted it, and the tag of the queue packet that did (R253, R316). -/
  hand : Bool
  tag : Nat
  /-- The `life` of the queue that it counts against (R302). -/
  qlife : Nat
  /-- It runs, and its accesses are held until a refresh slot is over (R376). -/
  held : Bool
  deriving DecidableEq, Repr

/-- The states of a link (R390, R392). -/
inductive LinkState where
  | down | training | up | degraded | replaying | retraining | retired
  deriving DecidableEq, Repr

/-- A flit that waits for a slot (R388): its slot where it is a chain partial, and what goes into it. -/
structure OutFlit where
  slot : Nat
  row : Nat
  kind : Nat
  stamp : Nat
  payload : Nat
  deriving DecidableEq, Repr

/-- A link: stack edges 0 to 6 by the western stack (3 unused), 8 east, 9 west, 10 host port. -/
structure Link where
  st : LinkState
  prev : LinkState
  retr : Nat
  rply : Nat
  mods : Nat
  fails : Nat
  frameReplays : Nat
  /-- The sequence number expected next in each slot (R387, R389). -/
  expect : Sparse Nat
  /-- The sequence number of the next flit sent in each slot (R387). -/
  sendSeq : Sparse Nat
  /-- The replay delay of each slot, and the hub kc of its last flit (R389). -/
  late : Sparse (Nat × Nat)
  since : Nat
  /-- The slots taken in this hub kc, the flits that wait for one, and those sent and not yet acknowledged, each with its slot (R387 to R390). -/
  used : List Nat
  outq : List OutFlit
  unacked : List (Nat × Flit)
  deriving DecidableEq, Repr

/-- An error-log record (R384). -/
structure LogRec where
  seq : Nat
  src : Nat
  sev : Nat
  hkc : Nat
  tag : Nat
  ctx : Nat
  det : Nat
  frec : Option FaultRec
  deriving DecidableEq, Repr

/-- The state of a page frame as its memory records it (R281). -/
inductive PageState where
  | resident | away | moving | poisoned | lost
  deriving DecidableEq, Repr

/-- A page frame's record (R281): the page it holds and that page's state. -/
structure PageFrame where
  ctx : Nat
  va : Nat
  size : Nat
  st : PageState
  pinned : Bool
  since : Nat
  given : Bool
  /-- The kernel for which the pager gave the frame (R302). -/
  kern : Nat
  /-- The index of the page's window-table entry, which is that of its backing record (R303; log entry 11). -/
  idx : Nat
  /-- What else the frame holds: the other pages that map it, each its context, virtual address and size code. -/
  others : List (Nat × Nat × Nat)
  /-- Where an offline of its stack moves the content when the first shoot-down for it is over (R289). -/
  toward : Option Nat
  deriving DecidableEq, Repr

/-- A line in the bounce buffer (R285): the page's context, the line's virtual address, its data and byte mask, and the kernel that
it counts against (R302). -/
structure Bounced where
  ctx : Nat
  va : Nat
  data : BitVec 512
  mask : BitVec 512
  kern : Nat
  deriving DecidableEq, Repr

/-- A page fault in the pager's hands (R283): the page, its frame, the faulting banks and the entries held for them. -/
structure PageJob where
  ctx : Nat
  kern : Nat
  va : Nat
  size : Nat
  /-- The backing address of the page (R283, R303). -/
  back : Nat
  frame : Nat
  banks : List Nat
  drained : List Nat
  deriving DecidableEq, Repr

/-- A cell's DRAM controller (R376, R378, R385): its rewrite queue, its scrub position and its count of corrections. -/
structure Cell where
  rewrite : List Nat
  scrub : Nat
  count : Nat
  deriving DecidableEq, Repr

/-- The parts of the package that manufacture or bring-up fix (R22, R341, R398, R402): the harvest mask, whether SRH,
paired mode, bank units and sealed pages are present, the latency table, the wired edge links. -/
structure Part where
  harvest : BitVec 8
  srh : Bool
  pairedOk : Bool
  bankOk : Bool
  sealedOk : Bool
  lat : Sparse Nat
  jit : Sparse Nat
  wired : Nat
  /-- What the trained edge links pass along at bring-up (R21, R398): the numbers of the west and of the east neighbour, none where there is no
  such neighbour or it has none yet, and the number of the eastmost package. -/
  west : Option Nat
  neast : Option Nat
  extent : Option Nat
  /-- How training ends at bring-up (R390, R397): the modules that fail of each link, and the stacks that fail. -/
  train : Sparse Nat
  badStacks : BitVec 8
  deriving DecidableEq, Repr

/-- The device as a whole (R397 to R404). -/
structure Device where
  powered : Bool
  ready : Bool
  fail : Bool
  step : Nat
  fwbank : Bool
  thold : Bool
  /-- The hub's sensor reads hot (R403, R404). -/
  hubHot : Bool
  pkg : Nat
  east : Nat
  pkgSet : Option (Nat × Nat)
  /-- The hub kc from which the host port carries nothing more inward, and outward (R20). -/
  portIn : Nat
  portOut : Nat
  /-- The hub kc of the last frame pulse (R338, R339). -/
  pulseAt : Nat
  fwA : List Byte
  fwB : List Byte
  fwAok : Bool
  fwBok : Bool
  measured : List (BitVec 384)
  deriving DecidableEq, Repr

/-- The machine. -/
structure State where
  /-- The hub's clock (R18) since bring-up, and whether the queue scheduler has taken its turn of this kc (R323). -/
  hkc : Nat
  turned : Bool
  /-- Model's own: counters for the order of entry into the agenda and for free choices (log entry 3). -/
  seq : Nat
  freeCtr : Nat
  /-- The context of the word that executes now. -/
  cur : Ctx
  /-- What the outside world does next (log entry 7): host, management path, debugger, neighbours, sensors; each event with its number (`Ctx.arg`). -/
  inputs : List (Nat × Instr)
  agenda : List Timed
  mem : List Host.Cell
  part : Part
  dev : Device
  stackTab : Sparse Stack
  rows : Sparse Row
  banks : Sparse Strand
  contexts : Sparse Context
  queues : Sparse Queue
  lastServed : Sparse Nat
  kernels : Sparse Kernel
  nextKernel : Nat
  groups : Sparse Group
  waves : Sparse (List Nat)
  nextWave : Nat
  /-- The token table, entries 0 to 65,535 (R221); guest entries (R241) stand at 65,536 above their token's id. -/
  tokens : Sparse Token
  barriers : Sparse Barrier
  jobs : Sparse Job
  nextJob : Nat
  links : Sparse Link
  elog : Sparse LogRec
  elogSeq : Nat
  elogWr : Nat
  elogRd : Nat
  elogLost : Nat
  frames : Sparse PageFrame
  pages : Sparse PageJob
  nextPage : Nat
  /-- Bounced lines in write order (R285). -/
  bounce : List Bounced
  cells : Sparse Cell
  /-- Flipped codeword bits of DRAM lines (R374), by bank-linear line number, as a mask of 76 bytes. -/
  flips : Sparse (BitVec 608)
  /-- SRAM words whose parity fails, by word address: `true` where they cannot be rebuilt (R380, R450). -/
  sramBad : Sparse Bool
  /-- Corrected errors of each SRAM bank (R385): of addressed SRAM by 64 KiB; of the vector registers of row r at 2^32 + 2r, of its tiles at one more. -/
  sramCount : Sparse Nat
  /-- Sent to the outside world, latest first: MSI-X vectors (R319), flits on the edge links (R387), host replies. -/
  msix : List Nat
  sent : List (Nat × Flit)
  replies : List (Bool × List Byte)
  deriving DecidableEq, Repr

/-- A word context with nothing in it. -/
def Ctx.none : Ctx :=
  { bank := 0, grp := 0, pkc := 0, hand := false, arg := 0, waddr := 0, hdr := 0, nxt := 0, word := 0, preds := 0xFFFF,
    ra := 0, rb := 0, rc := 0, rd := 0, pre := [], unit := 0, vrm := 0, seed := 0, serial := 0, ftz := false,
    recs := [], tol := [], tbl := [], drain := false }

/-- The reset values of `cktol.e2m1` to `cktol.f16` (R204). -/
def cktolReset : List (BitVec 16) := [0xE804, 0xE804, 0xE804, 0x0000, 0xE808, 0xE808]

/-- An empty bank (R82 unloaded, R86, R115, R118). -/
def Strand.empty : Strand :=
  { st := .unloaded, prev := .unloaded, grp := 0, gstack := 0, grow := 0, cp := 0, s := [], p := 1, aflags := 0, fresh := 0, freshAt := 0, aen := 0,
    vrm := 0, seed := 0, serial := 0, vftz := false, ie := false, trap := false, cksyn := 0, ckret := 0x0300,
    cktol := cktolReset, yreq := 0, ydl := 0, v := [], x := [], k := [], q := [], loops := [], held := [], chans := [],
    snap := none, cards := [], cardsNow := [], frame := none, pend := [], timer := none, wait := [], fences := [],
    realign := none, badPar := 0, badChk := 0, vbad := [], stale := false, shot := false, acks := [] }

/-- Resources that nothing holds. -/
def MRes.idle : MRes :=
  { issue := 0, loader := 0, array := 0, port := 0, bfree := 0, issueNow := 0, loaderNow := 0, arrayNow := 0, portNow := 0,
    loads := [], holds := [], bufs := [], tiles := [] }

/-- A row at the end of bring-up: gated, nothing queued (R124, R397). -/
def Row.empty : Row :=
  { run := 0, runFrom := 0, mism := 0, failed := false, pwr := .gated, pwrGen := 0, mq := [], bq := [], foq := [],
    res := MRes.idle, divBusy := 0, xBusy := 0, creels := [], tiles := [],
    mmMode := 0, mmSeed := 0, mmBase := 0, edge := [], macros := [], nextMacro := 0, dcache := [], arrBad := [], wlog := [], paired := false }

/-- A clear tile (R184). -/
def Tile.clear : Tile :=
  { st := .clear, int := false, typed := false, checked := true, nprod := 0, cinSeen := false, vals := [], cs := [], cr := [],
    mask := 0, owTrow := 0, owM := 0, owSet := false, counts := [], cap := 0, fmt := 0, col0 := 0, prod := none, tol := 0, inj := none }

/-- An empty creel buffer (R169). -/
def Creel.empty : Creel :=
  { st := .empty, fmt := 0, gen := 0, blocks := [], hdrs := [], wc := [] }

/-- A stack's state after power-on. -/
def Stack.empty : Stack :=
  { online := true, zkc := 0, frameN := 0, f := 0, stretched := 0, slots := [], part := [], tables := [], images := [],
    mirror := [], pool := [], hot := false, linkFree := 0 }

/-- A free token entry (R221): generation 0 before its first mint (log entry 2). -/
def Token.free : Token :=
  { st := .free, size := 0, base := 0, gen := 0, holder := 0xFFFFFFFF, lender := 0xFFFFFFFF, target := 0xFFFFFFFF,
    shares := 0, ctx := 0, hscope := 0, grants := [], arrived := false, ret := false }

/-- A free barrier (R348). -/
def Barrier.free : Barrier :=
  { state := 0, phase := false, pending := 0, arr := 0, ctx := 0, n := 0, bytes := 0, sig := false, c := 0, trips := 0, kern := 0 }

/-- A link before training (R390). -/
def Link.down : Link :=
  { st := .down, prev := .down, retr := 0, rply := 0, mods := 0, fails := 0, frameReplays := 0, expect := [], sendSeq := [], late := [], since := 0,
    used := [], outq := [], unacked := [] }

/-- A cell's controller at power-on. -/
def Cell.fresh : Cell := { rewrite := [], scrub := 0, count := 0 }

/-- The fused values of a part with nothing harvested: log entry 6 names them. -/
def Part.fused : Part :=
  { harvest := 0, srh := true, pairedOk := true, bankOk := true, sealedOk := true, lat := [], jit := [], wired := 2, west := none, neast := none, extent := none,
    train := [], badStacks := 0 }

/-- The device at power-on (R400): no step has passed. -/
def Device.off : Device :=
  { powered := false, ready := false, fail := false, step := 0, fwbank := false, thold := false, hubHot := false, pkg := 0, east := 0,
    pkgSet := none, portIn := 0, portOut := 0, pulseAt := 0, fwA := [], fwB := [], fwAok := true, fwBok := false, measured := [] }

/-- The package at power-on: bring-up (R397) is the first event due, and memory lists nothing. -/
def State.reset : State :=
  { hkc := 0, turned := false, seq := 1, freeCtr := 0, cur := Ctx.none, inputs := [],
    agenda := [{ clk := .hub, at_ := 0, ph := 0, row := 0, eng := 0, seq := 0, ctx := Ctx.none, pay := .ev .powerUp }],
    mem := [], part := Part.fused, dev := Device.off, stackTab := [], rows := [], banks := [], contexts := [], queues := [],
    lastServed := [], kernels := [], nextKernel := 1, groups := [], waves := [], nextWave := 1, tokens := [], barriers := [],
    jobs := [], nextJob := 1, links := [], elog := [], elogSeq := 0, elogWr := 0, elogRd := 0, elogLost := 0, frames := [],
    pages := [], nextPage := 1, bounce := [], cells := [], flips := [], sramBad := [], sramCount := [], msix := [], sent := [],
    replies := [] }

end Sys2Proof.Machine
end

