-- ==== Sys2Proof/Machine/Base.lean ====
section
/-! DEFINITION. Reading and replacing the parts of the state by their numbers, the clocks, and the agenda. Banks are numbered
stack × 32 + row × 2 + bank, rows stack × 16 + row, cells stack × 128 + row × 8 + column (R13). -/

namespace Sys2Proof.Machine

/-- The strand in bank `b`. -/
def strandOf (s : State) (b : Nat) : Strand := s.banks.getD b Strand.empty

/-- The state with the strand in bank `b` replaced. -/
def setStrand (s : State) (b : Nat) (t : Strand) : State := { s with banks := s.banks.put b t }

/-- The row `r` of the package. -/
def rowOf (s : State) (r : Nat) : Row := s.rows.getD r Row.empty

/-- The state with row `r` replaced. -/
def setRow (s : State) (r : Nat) (x : Row) : State := { s with rows := s.rows.put r x }

/-- Stack `z`. -/
def stackOf (s : State) (z : Nat) : Stack := s.stackTab.getD z Stack.empty

/-- The state with stack `z` replaced. -/
def setStack (s : State) (z : Nat) (x : Stack) : State := { s with stackTab := s.stackTab.put z x }

/-- The number of a strand's row, and of its stack. -/
def bankRow (b : Nat) : Nat := b / 2
def bankStack (b : Nat) : Nat := b / 32

/-- An empty group record. -/
def Group.blank : Group :=
  { st := .retired, kern := 0, ctx := 0, inst := 0, linear := 0, gidx := 0, gidy := 0, gidz := 0, mode := 0, rR := 1, rS := 1,
    stack0 := 0, row0 := 0, paired := false, win := 0, zones := [], placed := 0, ckret := 0x0300, hist := [], ydcount := 0,
    yreq := 0, ydReal := [], saves := [], ptok := 0, spadBase := 0, spadLen := 0, cancels := 0, stops := [], restart := none, withdrawn := false, started := false }

/-- Group `g`. -/
def groupOf (s : State) (g : Nat) : Group := s.groups.getD g Group.blank

/-- The state with group `g` replaced. -/
def setGroup (s : State) (g : Nat) (x : Group) : State := { s with groups := s.groups.put g x }

/-- A budget that allows everything, of the highest priority (R301); a kernel, queue or context record that does not exist reads so. -/
def Budget.top : Budget :=
  { prio := 15, fdom := 0, rows := 128, stackTab := 8, spad := 512, acc := 4, jobs := 64, tok := 65535, bar := 4096,
    shape := 4096, bounce := 65536, dram := 524288 }

/-- An empty kernel record. -/
def Kernel.blank : Kernel :=
  { st := .complete, blk := 0, queue := 0, ctx := 0, pktNo := 0, tag := 0, order := 0, bud := Budget.top, code := 0, csize := 0,
    mode := 0, drainsafe := false, paired := false, usev := false, usem := false, useb := false, rR := 1, rS := 1,
    table := [], shapes := [], parm := [], hand := [], gx := 0, gy := 0, gz := 0, nextL := 0, ended := 0, flt := false,
    done := 0, dinc := 0, handBy := 0, handed := false, shoot := [], shootWait := [], wtab := 0, qlife := 0, qbud := Budget.top, prior := [] }

/-- Kernel `k`. -/
def kernelOf (s : State) (k : Nat) : Kernel := s.kernels.getD k Kernel.blank

/-- The state with kernel `k` replaced. -/
def setKernel (s : State) (k : Nat) (x : Kernel) : State := { s with kernels := s.kernels.put k x }

/-- A context that is free (R304). -/
def Context.free : Context :=
  { st := .free, blk := 0, bud := Budget.top, recov := 0xFFFFFFFF, recovk := 0, hostbk := false, backing := 0, pool := 0,
    ngrp := 0, hostTable := [], hostHeld := [], key := 0 }

/-- Context `c`. -/
def contextOf (s : State) (c : Nat) : Context := s.contexts.getD c Context.free

/-- The state with context `c` replaced. -/
def setContext (s : State) (c : Nat) (x : Context) : State := { s with contexts := s.contexts.put c x }

/-- A queue that is disabled (R322). -/
def Queue.disabled : Queue :=
  { st := .disabled, blk := 0, ctx := 0, bud := Budget.top, ring := 0, k := 4, cap := 0, priv := false, bell := 0, ci := 0,
    pi := 0, since := none, level := 0, pend := [], fence := [], life := 0, busy := 0 }

/-- Queue `q`. -/
def queueOf (s : State) (q : Nat) : Queue := s.queues.getD q Queue.disabled

/-- The state with queue `q` replaced. -/
def setQueue (s : State) (q : Nat) (x : Queue) : State := { s with queues := s.queues.put q x }

/-- Token entry `i`. -/
def tokenOf (s : State) (i : Nat) : Token := s.tokens.getD i Token.free

/-- The state with token entry `i` replaced. -/
def setToken (s : State) (i : Nat) (x : Token) : State := { s with tokens := s.tokens.put i x }

/-- Barrier `i`. -/
def barrierOf (s : State) (i : Nat) : Barrier := s.barriers.getD i Barrier.free

/-- The state with barrier `i` replaced. -/
def setBarrier (s : State) (i : Nat) (x : Barrier) : State := { s with barriers := s.barriers.put i x }

/-- Link `l`. -/
def linkOf (s : State) (l : Nat) : Link := s.links.getD l Link.down

/-- The state with link `l` replaced. -/
def setLink (s : State) (l : Nat) (x : Link) : State := { s with links := s.links.put l x }

/-- The group of the strand in bank `b`, and its kernel. -/
def bankGroup (s : State) (b : Nat) : Group := groupOf s (strandOf s b).grp
def bankKernel (s : State) (b : Nat) : Kernel := kernelOf s (bankGroup s b).kern

/-- The budgets of a kernel and of its ancestors have room for `more` (R302): `use` is what each kernel uses. -/
def budgetRoom (s : State) (k : Nat) (f : Budget → Nat) (use : Nat → Nat) (more : Nat) : Bool :=
  let kn := kernelOf s k
  let sum (p : Kernel → Bool) : Nat := (s.kernels.filter (fun e => p e.2)).foldl (fun n e => n + use e.1) 0
  decide (use k + more ≤ f kn.bud) && decide (sum (fun x => x.queue == kn.queue && x.qlife == kn.qlife) + more ≤ f kn.qbud) &&
    decide (sum (fun x => x.ctx == kn.ctx) + more ≤ f (contextOf s kn.ctx).bud)

/-- The group's mode (R308). -/
def timedMode (g : Group) : Bool := decide (g.mode = 0)

/-- A zone of a group. -/
def gzone (g : Group) (z : Nat) : GZone :=
  match g.zones.find? (fun x => x.z == z) with
  | some x => x
  | none => { z := z, kc := 0, go := false, stopN := 0, stopH := 0, resN := none, reported := false }

/-- The group with its zone record for `x.z` replaced. -/
def setGzone (g : Group) (x : GZone) : Group :=
  { g with zones := g.zones.map (fun y => if y.z = x.z then x else y) }

/-- The clock of a word's events: its group's kernel time, or the zone's own clock for a handler (R362). A word that finishes at
once (R369) does so on the hub's clock. -/
def ctxClk (c : Ctx) : Clk := if c.drain then .hub else if c.hand then .zone (bankStack c.bank) else .kern c.grp (bankStack c.bank)

/-- The time a clock shows. -/
def timeOf (s : State) (c : Clk) : Nat :=
  match c with
  | .hub => s.hkc
  | .zone z => (stackOf s z).zkc
  | .kern g z => (gzone (groupOf s g) z).kc

/-- The time of the word that executes. -/
def now (s : State) : Nat := timeOf s (ctxClk s.cur)

/-- The kernel kc of the strand in bank `b`. -/
def bankKc (s : State) (b : Nat) : Nat := (gzone (bankGroup s b) (bankStack b)).kc

/-- Kernel time runs for the strand in bank `b`. -/
def bankRuns (s : State) (b : Nat) : Bool := (gzone (bankGroup s b) (bankStack b)).go

/-- The frame kc of a stack zone (R338, R170). -/
def frameKcOf (kc : Nat) : Nat := kc % Config.frameKc

/-- The agenda with one entry more. -/
def post (s : State) (clk : Clk) (t ph row eng : Nat) (c : Ctx) (p : Pay) : State :=
  { s with agenda := s.agenda ++ [{ clk := clk, at_ := t, ph := ph, row := row, eng := eng, seq := s.seq, ctx := c, pay := p }],
           seq := s.seq + 1 }

/-- An event on the hub's clock, `d` kc from now. -/
def postHub (s : State) (d : Nat) (i : Instr) : State := post s .hub (s.hkc + d) 0 0 0 Ctx.none (.ev i)

/-- An event of the executing word `d` kc from now: phase, engine and event. -/
def later (s : State) (d ph eng : Nat) (i : Instr) : State :=
  post s (ctxClk s.cur) (now s + if s.cur.drain then 0 else d) ph (bankRow s.cur.bank) eng s.cur (.ev i)

/-- An event of a group's zone at a kernel kc. -/
def postKern (s : State) (g z t ph : Nat) (i : Instr) : State := post s (.kern g z) t ph (z * 16) 0 { Ctx.none with grp := g } (.ev i)

/-- The agenda without the entries that `f` picks. -/
def dropEntries (s : State) (f : Timed → Bool) : State := { s with agenda := s.agenda.filter (fun e => !f e) }

/-- The entries of the agenda that belong to bank `b`. -/
def ofBank (b : Nat) (e : Timed) : Bool :=
  match e.pay with
  | .fetch x => x == b
  | .enter x _ => x == b
  | .word _ => e.ctx.bank == b
  | .ev (.resultLand _) => e.ctx.bank == b
  | .ev (.accessPerform _) => e.ctx.bank == b
  | .ev (.handoffRelease _) => e.ctx.bank == b
  | .ev (.looseWaitEnd x) => x == b
  | .ev (.tktakeTimeout _ _) => e.ctx.bank == b
  | .ev (.xrecvTimeout _) => e.ctx.bank == b
  | .ev (.bwaitDeadline _ _) => e.ctx.bank == b
  | .ev (.realignTimeout x) => x == b
  | .ev (.interruptTaken x) => x == b
  | .ev (.interruptTimerExpiry x) => x == b
  | .ev (.orphanMessageTimeout _ _) => e.ctx.bank == b
  | .ev (.mQueueIssue _ _) => e.ctx.bank == b
  | .ev (.bQueueIssue _) => e.ctx.bank == b
  | _ => false

/-- A step's number: its kind and its position (R193, R367; log entry 12). A bank word has at most 5,109 slices (R295). -/
def stepNo (cls idx : Nat) : Nat := cls * 65536 + idx

/-- The kind of a step and its position. -/
def stepCls (k : Nat) : Nat := k / 65536
def stepIdx (k : Nat) : Nat := k % 65536

/-- The unit of row `m` of tile `t`, and of the cell in column `j` of creel buffer `n`, in a row's storage with parity (R379). -/
def tileKey (t m : Nat) : Nat := t * 256 + m
def creelKey (n j : Nat) : Nat := 1024 + n * 8 + j

/-- That of an entry of the edge buffer. -/
def edgeKey (i : Nat) : Nat := 2048 + i

/-- Storage with word parity in units (registers, tile rows, cells, buffer entries) keeps its failing words by number (R379; log entry 9): 128 times
the unit's, and the word's place in the unit. These are the failing words of some units. -/
def failsIn (m : Sparse Bool) (us : List Nat) : List (Nat × Bool) := m.filter (fun e => us.contains (e.1 / 128))

/-- Two words stand in one vertical group (R379): at one place of two of 32 consecutive units. -/
def sameGroup (a b : Nat) : Bool := decide (a ≠ b) && decide (a % 128 = b % 128) && decide (a / 4096 = b / 4096)

/-- A failing word cannot be rebuilt (R380): it is marked so, its storage has word parity only (the units from `lone` up), or another word of its
vertical group fails too. -/
def wordDead (m : Sparse Bool) (lone : Nat) (e : Nat × Bool) : Bool :=
  e.2 || decide (lone ≤ e.1 / 128) || m.any (fun x => decide (x.1 / 128 < lone) && sameGroup x.1 e.1)

/-- Units are written (R450): their words are good, and what fails in the group of one that could not be rebuilt cannot be from now on. -/
def wordsWritten (m : Sparse Bool) (lone : Nat) (us : List Nat) : Sparse Bool :=
  let ws := (failsIn m us).filter (fun e => decide (e.1 / 128 < lone))
  (m.filter (fun e => !us.contains (e.1 / 128))).map (fun x => (x.1, x.2 || (decide (x.1 / 128 < lone) && ws.any (fun e => sameGroup e.1 x.1))))

/-- The next free value among the choices the spec allows (R7). -/
def freeValue (s : State) : Nat × State := (Config.freeNat s.freeCtr, { s with freeCtr := s.freeCtr + 1 })

/-- The package's word for the strand of a group at a place (R220): kind 0, context, instance, stack and row index. -/
def strandAgent (pkg : Nat) (g : Group) (gstack grow : Nat) : Nat :=
  pkg * 2 ^ 28 + g.ctx * 2 ^ 17 + g.inst * 2 ^ 7 + gstack * 2 ^ 4 + grow

/-- The agent id of the strand in bank `b`. -/
def bankAgent (s : State) (b : Nat) : Nat :=
  strandAgent s.dev.pkg (bankGroup s b) (strandOf s b).gstack (strandOf s b).grow

/-- The host agent of a context in this package: its context root (R220). -/
def hostAgent (s : State) (c : Nat) : Nat := s.dev.pkg * 2 ^ 28 + 2 * 2 ^ 25 + c * 2 ^ 17

/-- "No agent" (R220). -/
def noAgent : Nat := 0xFFFFFFFF

/-- The row's physical place of a strand in a group (R335, R337): the stack and row of group indices. -/
def placeRow (g : Group) (gstack grow : Nat) : Nat :=
  (g.stack0 + gstack) * 16 + (if g.paired then 2 * (g.row0 + grow) + g.win else g.row0 + grow)

/-- The clock and time at which what a group's zone receives at kernel kc `t` lands (R182): while kernel time stands there, it lands at the same
distance on the zone's own clock. -/
def landingAt (s : State) (g z t : Nat) : Clk × Nat :=
  let y := gzone (groupOf s g) z
  if y.go then (.kern g z, t) else (.zone z, (stackOf s z).zkc + (t - y.kc))

/-- The banks that hold strands of group `g`. -/
def banksOf (s : State) (g : Nat) : List Nat :=
  (s.banks.filter (fun e => e.2.st != .unloaded && e.2.grp == g)).map (·.1)

/-- The bank of a group's strand by its indices. -/
def bankAt (s : State) (g gstack grow : Nat) : Option Nat :=
  (s.banks.find? (fun e => e.2.st != .unloaded && e.2.grp == g && e.2.gstack == gstack && e.2.grow == grow)).map (·.1)

end Sys2Proof.Machine
end

