-- ==== Sys2Proof/Machine/Mem.lean ====
section
/-! DEFINITION. Memory: the canonical list of bytes, the physical map (R274 to R276) with its aliased DRAM windows, zones of
memory, and reads and writes of bytes, words and lines. DRAM is kept under bank-linear addresses. -/

namespace Sys2Proof.Machine

/-- The byte an address reads as. Memory that nothing has written reads 0: bring-up writes zeros to DRAM (R397), and
elsewhere the value is the model's choice (log entry 1). -/
def cellGet (m : List Host.Cell) (a : Nat) : Byte :=
  match m with
  | [] => 0
  | (k, b) :: t => if k = a then b else cellGet t a

/-- The list with a byte written: addresses stay strictly rising, and a zero is not listed. -/
def cellPut (m : List Host.Cell) (a : Nat) (b : Byte) : List Host.Cell :=
  match m with
  | [] => if b = 0 then [] else [(a, b)]
  | (k, x) :: t =>
    if a < k then (if b = 0 then (k, x) :: t else (a, b) :: (k, x) :: t)
    else if a = k then (if b = 0 then t else (a, b) :: t)
    else (k, x) :: cellPut t a b

/-- The canonical form from address `lo` on: strictly rising, no entry that an unlisted address reads as. -/
def cellsFrom (lo : Nat) (m : List Host.Cell) : Bool :=
  match m with
  | [] => true
  | (k, b) :: t => decide (lo ≤ k) && decide (b ≠ 0) && cellsFrom (k + 1) t

/-- Memory is in canonical form. -/
def Memory.wf (m : List Host.Cell) : Bool := cellsFrom 0 m

/-- What a physical address names (R274). -/
inductive Place where
  | dram (cell off : Nat)
  | spad (cell off : Nat)
  | sram (stack off : Nat)
  | bounce | tokens | barriers
  | commons (off : Nat)
  | host (off : Nat)
  | hole
  deriving DecidableEq, Repr

/-- The first addresses of the physical map's ranges (R274). -/
def baseLinear : Nat := 0x008000000000
def baseSpad : Nat := 0x010000000000
def baseSram : Nat := 0x010020000000
def baseCommons : Nat := 0x010045000000
def baseHost : Nat := 0x020000000000

/-- The stack is present (R22). -/
def stackPresent (s : State) (z : Nat) : Bool := !s.part.harvest.getLsbD z && decide (z < 8)

/-- Any stack is harvested, which removes the interleaved window (R276). -/
def anyHarvested (s : State) : Bool := decide (s.part.harvest ≠ 0)

/-- The place a package-local address names on a whole package (R274, R275). -/
def placeOf (a : Nat) : Place :=
  if a < 0x008000000000 then .dram (a / 64 % 1024) (a / 65536 * 64 + a % 64)
  else if a < 0x010000000000 then .dram ((a - baseLinear) / 0x20000000) ((a - baseLinear) % 0x20000000)
  else if a < 0x010020000000 then .spad ((a - baseSpad) / 0x80000) ((a - baseSpad) % 0x80000)
  else if a < 0x010024000000 then .sram ((a - baseSram) / 0x800000) ((a - baseSram) % 0x800000)
  else if a < 0x010040000000 then .hole
  else if a < 0x010044000000 then .bounce
  else if a < 0x010044200000 then .tokens
  else if a < 0x010044300000 then .barriers
  else if a < 0x010045000000 then .hole
  else if a < 0x010047000000 then .commons (a - baseCommons)
  else if a < baseHost then .hole
  else if a < 2 ^ 48 then .host (a - baseHost)
  else .hole

/-- The package of a global physical address, and its address within the package (R274). -/
def paPkg (pa : Nat) : Nat := pa / 2 ^ 48 % 16
def paLocal (pa : Nat) : Nat := pa % 2 ^ 48

/-- The address under which a byte is kept: DRAM under its bank-linear address, so that both windows alias (R275). -/
def homeAddr (a : Nat) : Nat :=
  if a < 0x008000000000 then baseLinear + (a / 64 % 1024) * 0x20000000 + (a / 65536 * 64 + a % 64) else a

/-- The interleaved address of a bank-linear address (R275). -/
def interleavedOf (a : Nat) : Nat :=
  let c := (a - baseLinear) / 0x20000000
  let o := (a - baseLinear) % 0x20000000
  (o / 64 * 1024 + c) * 64 + o % 64

/-- The zone a place lies in: stacks 0 to 7, the hub 8, the host 9 (R18). -/
def placeZone (p : Place) : Nat :=
  match p with
  | .dram c _ => c / 128
  | .spad c _ => c / 128
  | .sram z _ => z
  | .host _ => 9
  | _ => 8

/-- The zone that a global physical address lies in: another package's memory counts as zone 10. -/
def paZone (s : State) (pa : Nat) : Nat := if paPkg pa = s.dev.pkg then placeZone (placeOf (paLocal pa)) else 10

/-- The place exists on this part (R274, R276). -/
def placeExists (s : State) (a : Nat) : Bool :=
  match placeOf a with
  | .hole => false
  | .dram c _ => stackPresent s (c / 128) && (decide (0x008000000000 ≤ a) || !anyHarvested s)
  | .spad c _ => stackPresent s (c / 128)
  | .sram z _ => stackPresent s z
  | _ => true

/-- The byte at a package-local physical address. -/
def readByte (s : State) (a : Nat) : Byte := cellGet s.mem (homeAddr a)

/-- The state with a byte written. -/
def writeByte (s : State) (a : Nat) (b : Byte) : State := { s with mem := cellPut s.mem (homeAddr a) b }

/-- The `n` bytes from an address up. -/
def readBytes (s : State) (a n : Nat) : List Byte := (List.range n).map (fun i => readByte s (a + i))

/-- The state with bytes written from an address up. -/
def writeBytes (s : State) (a : Nat) (bs : List Byte) : State :=
  match bs with
  | [] => s
  | b :: t => writeBytes (writeByte s a b) (a + 1) t

/-- The little-endian number of the `n` bytes at an address (R2). -/
def readNat (s : State) (a n : Nat) : Nat := leNat (readBytes s a n)

/-- The state with the `n` little-endian bytes of a number written (R2). -/
def writeNat (s : State) (a n x : Nat) : State := writeBytes s a (leBytes n x)

/-- Bytes written only where a mask has a one bit, the lowest bit for the lowest address. -/
def writeMasked (s : State) (a : Nat) (bs : List Byte) (mask : Nat) : State :=
  match bs with
  | [] => s
  | b :: t => writeMasked (if mask % 2 = 1 then writeByte s a b else s) (a + 1) t (mask / 2)

/-- The stack-SRAM address of byte `o` of stack `z`'s instruction memory (R274). -/
def imemAddr (z o : Nat) : Nat := baseSram + z * 0x800000 + o

/-- The word at image offset `o` of a kernel's image in stack `z` (R55, R68). -/
def imageWord (s : State) (z k o : Nat) : Nat :=
  match Sparse.find (stackOf s z).images k with
  | some im => readNat s (imemAddr z (im.base + o)) 4
  | none => 0

/-- A fused latency (R341): entry 9a + b, 81 east, 82 west. Log entry 6 gives the value of an entry the part does not list:
the least of its range. -/
def latEntry (s : State) (i : Nat) : Nat :=
  match Sparse.find s.part.lat i with
  | some x => x
  | none =>
    if 81 ≤ i then 64
    else
      let a := i / 9
      let b := i % 9
      if a = b then 6 else if a = 8 ∨ b = 8 then 12
      else if (a = b + 1 ∨ b = a + 1) ∧ a / 4 = b / 4 then 8 else 24

/-- λ(a, b): the nominal latency between two zones (R341). -/
def lam (s : State) (a b : Nat) : Nat := latEntry s (9 * a + b)

/-- The jitter of an entry (R341). -/
def jitEntry (s : State) (i : Nat) : Nat := s.part.jit.getD i 0

/-- δ of R342 for a message stamped `st`, due at `d`, by latency entry `i`. -/
def slip (s : State) (i st d : Nat) (link : Bool) : Nat :=
  let f := if st / Config.frameKc = d / Config.frameKc then d % Config.frameKc else Config.frameKc - 1
  jitEntry s i + (if link then 4 else 2) + ceilDiv (24 * f) 4096

/-- The arrival kc of a cross-zone message (R342): a free choice from D − δ to D + δ, never before the kc after `lo`. -/
def arrivalAt (s : State) (i st d lo : Nat) (link : Bool) : Nat × State :=
  let w := slip s i st d link
  let (r, s1) := freeValue s
  let a := d - w + r % (2 * w + 1)
  (if a ≤ lo then lo + 1 else a, s1)

end Sys2Proof.Machine
end

