-- ==== Sys2Proof/Machine/Shape.lean ====
section
/-! DEFINITION. Shape records: their fields and well-formedness (R148, R149), the addresses of their elements and of the
64-byte lines they touch, slots and handles (R151 to R155). -/

namespace Sys2Proof.Machine

/-- The number at bytes `lo` to `lo + n - 1` of a record (R2). -/
def recNat (r : ShapeImg) (lo n : Nat) : Nat := bitsOf r.toNat (8 * lo) (8 * n)

/-- The fields of R148. -/
def recBase (r : ShapeImg) : Nat := bitsOf r.toNat 0 56
def recFmt (r : ShapeImg) : Nat := bitsOf r.toNat 56 3
def recLayout (r : ShapeImg) : Nat := bitsOf r.toNat 60 2
def recDim (r : ShapeImg) (i : Nat) : Nat := recNat r (8 + 3 * i) 3
def recStride (r : ShapeImg) (i : Nat) : Nat := recNat r (20 + 4 * i) 4
def recHdr (r : ShapeImg) : Nat := recNat r 36 7
def recRank (r : ShapeImg) : Nat := recNat r 43 1
def recPad (r : ShapeImg) : Nat := recNat r 44 2
def recKw (r : ShapeImg) : Nat := bitsOf (recNat r 46 1) 4 4
def recKh (r : ShapeImg) : Nat := bitsOf (recNat r 46 1) 0 4
def recSw (r : ShapeImg) : Nat := bitsOf (recNat r 47 1) 4 4
def recSh (r : ShapeImg) : Nat := bitsOf (recNat r 47 1) 0 4
def recDw (r : ShapeImg) : Nat := bitsOf (recNat r 48 1) 4 4
def recDh (r : ShapeImg) : Nat := bitsOf (recNat r 48 1) 0 4
def recPl (r : ShapeImg) : Nat := bitsOf (recNat r 49 1) 4 4
def recPt (r : ShapeImg) : Nat := bitsOf (recNat r 49 1) 0 4
def recPr (r : ShapeImg) : Nat := bitsOf (recNat r 50 1) 4 4
def recPb (r : ShapeImg) : Nat := bitsOf (recNat r 50 1) 0 4
def recConv (r : ShapeImg) : Nat := recNat r 46 5
def recIdx (r : ShapeImg) : Nat := recNat r 52 7
def recNst (r : ShapeImg) : Nat := bitsOf (recNat r 60 4) 19 4
def recSt0 (r : ShapeImg) : Nat := bitsOf (recNat r 60 4) 16 3
def recNcol (r : ShapeImg) : Nat := bitsOf (recNat r 60 4) 12 4
def recCol0 (r : ShapeImg) : Nat := bitsOf (recNat r 60 4) 9 3
def recNrow (r : ShapeImg) : Nat := bitsOf (recNat r 60 4) 4 5
def recRow0 (r : ShapeImg) : Nat := bitsOf (recNat r 60 4) 0 4

/-- The bytes of one element by format code (R23): 0 stands for E2M1's half byte. -/
def fmtBytes (fmt : Nat) : Nat :=
  match fmt with
  | 0 => 0
  | 4 => 2
  | 5 => 2
  | _ => 1

/-- The elements of one 64-byte block (R29). -/
def fmtElems (fmt : Nat) : Nat :=
  match fmt with
  | 0 => 128
  | 4 => 32
  | 5 => 32
  | _ => 64

/-- The block formats with a header (R29). -/
def fmtHeader (fmt : Nat) : Bool := decide (fmt ≤ 2)

/-- The reserved bits of a record are zero (R149). -/
def recReserved (r : ShapeImg) : Bool :=
  decide (bitsOf r.toNat 62 2 = 0) && decide (bitsOf r.toNat 59 1 = 0) && decide (recNat r 51 1 = 0) &&
    decide (recNat r 59 1 = 0) && decide (bitsOf (recNat r 60 4) 23 9 = 0)

/-- A record is well formed (R149). -/
def recWf (r : ShapeImg) : Bool :=
  let fmt := recFmt r
  let w := fmtBytes fmt
  let rank := recRank r
  let creel := decide (recLayout r = 1)
  recReserved r && decide (fmt ≤ 5) && decide (recLayout r ≤ 2) && decide (1 ≤ rank) && decide (rank ≤ 4) &&
    (List.range 4).all (fun i => if i < rank then decide (1 ≤ recDim r i) else decide (recDim r i = 0) && decide (recStride r i = 0)) &&
    decide (recBase r % (if creel then 64 else if w = 0 then 1 else w) = 0) &&
    (if creel then (List.range 4).all (fun i => decide (recStride r i = 0)) else decide (recStride r 0 = w)) &&
    (if fmtHeader fmt then decide (recHdr r ≠ 0) && decide (recHdr r % 2 = 0) else decide (recHdr r = 0)) &&
    decide (recPad r < (if fmt = 0 then 16 else if w = 1 then 256 else 65536)) &&
    (decide (recConv r = 0) ||
      (decide (1 ≤ recKh r) && decide (1 ≤ recKw r) && decide (1 ≤ recSh r) && decide (1 ≤ recSw r) && decide (1 ≤ recDh r) &&
        decide (1 ≤ recDw r) && decide (recPt r < recKh r) && decide (recPb r < recKh r) && decide (recPl r < recKw r) &&
        decide (recPr r < recKw r))) &&
    decide (recIdx r % 4 = 0) && decide (1 ≤ recNrow r) && decide (1 ≤ recNcol r) &&
    decide (recCol0 r + recNcol r ≤ 8) && decide (1 ≤ recNst r)

/-- The dims of the dimensions in use; the others count 1. -/
def recExt (r : ShapeImg) (i : Nat) : Nat := if i < recRank r then recDim r i else 1

/-- The number of elements. -/
def recCount (r : ShapeImg) : Nat := recExt r 0 * recExt r 1 * recExt r 2 * recExt r 3

/-- The index tuple of the `n`-th element, dim0 innermost. -/
def recIndex (r : ShapeImg) (n : Nat) : Nat × Nat × Nat × Nat :=
  (n % recExt r 0, n / recExt r 0 % recExt r 1, n / (recExt r 0 * recExt r 1) % recExt r 2,
    n / (recExt r 0 * recExt r 1 * recExt r 2))

/-- The byte address of an element (R148), in a row-major or interleaved record, or the creel-order place of one cell (R260);
of an E2M1 element, the byte that holds it (R27). -/
def elemAddr (r : ShapeImg) (i0 i1 i2 i3 : Nat) : Nat :=
  if recLayout r = 1 then
    let e := fmtElems (recFmt r)
    if recFmt r = 0 then recBase r + 4096 * (i0 / e) + 64 * i1 + (i0 % e) / 2
    else recBase r + 4096 * (i0 / e) + 64 * i1 + fmtBytes (recFmt r) * (i0 % e)
  else
    recBase r + (if recFmt r = 0 then i0 / 2 else i0 * recStride r 0) + i1 * recStride r 1 + i2 * recStride r 2 + i3 * recStride r 3

/-- Inserting into a list of strictly rising numbers. -/
def insertNat (x : Nat) (l : List Nat) : List Nat :=
  match l with
  | [] => [x]
  | a :: t => if x < a then x :: a :: t else if x = a then a :: t else a :: insertNat x t

/-- The line numbers that the byte addresses fall in, rising. -/
def linesOf (addrs : List Nat) : List Nat := addrs.foldl (fun acc a => insertNat (a / 64) acc) []

/-- The byte addresses of a record's elements, one for each byte. -/
def recBytes (r : ShapeImg) : List Nat :=
  let w := if fmtBytes (recFmt r) = 2 then 2 else 1
  ((List.range (recCount r)).map (fun n =>
    let t := recIndex r n
    (List.range w).map (fun k => elemAddr r t.1 t.2.1 t.2.2.1 t.2.2.2 + k))).flatten

/-- The span of a run of elements of dim0, as a start and a length in bytes. -/
def recRuns (r : ShapeImg) : List (Nat × Nat) :=
  let len := if recFmt r = 0 then (recExt r 0 + 1) / 2 else recExt r 0 * fmtBytes (recFmt r)
  ((List.range (recExt r 3)).map (fun i3 => ((List.range (recExt r 2)).map (fun i2 =>
    (List.range (recExt r 1)).map (fun i1 => (elemAddr r 0 i1 i2 i3, len)))).flatten)).flatten

/-- The lines a run of bytes touches. -/
def runLines (a n : Nat) : List Nat := if n = 0 then [] else (List.range ((a + n - 1) / 64 - a / 64 + 1)).map (a / 64 + ·)

/-- The 64-byte lines a record touches, rising (R261). A creel-order record is taken element by element. -/
def recLines (r : ShapeImg) : List Nat :=
  if recLayout r = 1 then linesOf (recBytes r)
  else ((recRuns r).map (fun x => runLines x.1 x.2)).flatten.foldl (fun acc x => insertNat x acc) []

/-- The key of slot `j` of group `g`'s partition in a stack. -/
def slotKey (g j : Nat) : Nat := g * 4096 + j

/-- A slot of a partition: free with generation 1 where nothing else is recorded (R151, R152). -/
def slotOf (s : State) (z g j : Nat) : Slot :=
  (stackOf s z).slots.getD (slotKey g j) { live := false, gen := 1, img := 0, defAt := none }

/-- The slots of group `g`'s partition in stack `z` (R151). -/
def partSize (s : State) (z g : Nat) : Nat := (stackOf s z).part.getD g 0

/-- The record that a handle names, if the handle is current (R153). -/
def handleRec (s : State) (z g : Nat) (h : Dword) : Option ShapeImg :=
  let j := bitsOf h.toNat 0 12
  let sl := slotOf s z g j
  if partSize s z g ≤ j then none
  else if sl.live && decide (sl.gen = bitsOf h.toNat 12 20) then some sl.img else none

/-- The generation after one (R152): from 0xF_FFFF to 1. -/
def nextGen (g : Nat) : Nat := if g ≥ 0xFFFFF then 1 else g + 1

/-- The state with a slot replaced. -/
def setSlot (s : State) (z g j : Nat) (x : Slot) : State :=
  let st := stackOf s z
  setStack s z { st with slots := st.slots.put (slotKey g j) x }

end Sys2Proof.Machine
end

