-- ==== Sys2Proof/Machine/Window.lean ====
section
/-! DEFINITION. Window tables: the fields and well-formedness of an entry (R277, R278), translation (R280), and what a page's
attributes allow (R279). -/

namespace Sys2Proof.Machine

/-- The fields of R277. -/
def weValid (e : WEntry) : Bool := e.lo.getLsbD 63
def weSize (e : WEntry) : Nat := bitsOf e.lo.toNat 60 3
def weRes (e : WEntry) : Nat := bitsOf e.lo.toNat 57 3
def weVa (e : WEntry) : Nat := bitsOf e.lo.toNat 12 44 * 4096
def weAttr (e : WEntry) : Nat := bitsOf e.lo.toNat 0 7
def wePa (e : WEntry) : Nat := bitsOf e.hi.toNat 12 40 * 4096
def weR (e : WEntry) : Bool := e.lo.getLsbD 0
def weW (e : WEntry) : Bool := e.lo.getLsbD 1
def weC (e : WEntry) : Bool := e.lo.getLsbD 2
def weX (e : WEntry) : Bool := e.lo.getLsbD 3
def weS (e : WEntry) : Bool := e.lo.getLsbD 4
def weP (e : WEntry) : Bool := e.lo.getLsbD 5
def weI (e : WEntry) : Bool := e.lo.getLsbD 6

/-- The bytes of a page by size code (R277). -/
def pageBytes (code : Nat) : Nat :=
  match code with
  | 0 => 0x1000
  | 1 => 0x10000
  | 2 => 0x200000
  | 3 => 0x2000000
  | 4 => 0x20000000
  | 5 => 0x200000000
  | _ => 0x1000000000

/-- The entry maps a virtual address. -/
def weMaps (e : WEntry) (va : Nat) : Bool :=
  weValid e && decide (weVa e ≤ va) && decide (va < weVa e + pageBytes (weSize e))

/-- The entry that maps a virtual address: none where bits [63:56] are set (R280). -/
def lookup (tbl : List WEntry) (va : Nat) : Option WEntry :=
  if 2 ^ 56 ≤ va then none else tbl.find? (fun e => weMaps e va)

/-- The physical address of a virtual address under its entry. -/
def physOf (e : WEntry) (va : Nat) : Nat := wePa e + (va - weVa e)

/-- The reserved bits of an entry are zero, and an invalid entry is all zero (R277, R278). -/
def weReserved (e : WEntry) : Bool :=
  if weValid e then
    decide (bitsOf e.lo.toNat 56 1 = 0) && decide (bitsOf e.lo.toNat 7 5 = 0) && decide (bitsOf e.hi.toNat 52 12 = 0) &&
      decide (bitsOf e.hi.toNat 0 12 = 0)
  else decide (e.lo = 0) && decide (e.hi = 0)

/-- The sizes, attributes and residence that the range of a page's frame allows (R278). -/
def weRange (s : State) (e : WEntry) : Bool :=
  let a := paLocal (wePa e)
  let n := pageBytes (weSize e)
  let inLine := decide (paPkg (wePa e) ≤ s.dev.east)
  let resident := decide (weRes e = 0)
  let sameEnd (lo hi : Nat) : Bool := decide (lo ≤ a) && decide (a + n ≤ hi)
  inLine &&
  (if a < 0x008000000000 then
     sameEnd 0 0x008000000000 && !weX e && !weC e && (decide (paPkg (wePa e) ≠ s.dev.pkg) || !anyHarvested s)
   else if a < 0x010000000000 then
     sameEnd 0x008000000000 0x010000000000 && decide (weSize e ≤ 4) && !weC e &&
       (decide (paPkg (wePa e) ≠ s.dev.pkg) || stackPresent s ((a - baseLinear) / 0x1000000000)) &&
       (!weX e || (decide (2 ≤ weSize e) && weP e && !weS e))
   else if a < 0x010020000000 then
     sameEnd baseSpad 0x010020000000 && decide (weSize e ≤ 1) && weP e && !weC e && !weS e && !weX e && !weI e && resident &&
       (decide (paPkg (wePa e) ≠ s.dev.pkg) || stackPresent s ((a - baseSpad) / 0x4000000))
   else if a < 0x010024000000 then
     sameEnd baseSram 0x010024000000 && decide (weSize e ≤ 2) && weP e && !weC e && !weS e && !weX e && !weI e && resident &&
       (decide (paPkg (wePa e) ≠ s.dev.pkg) || stackPresent s ((a - baseSram) / 0x800000))
   else if decide (baseCommons ≤ a) && decide (a < 0x010047000000) then
     sameEnd baseCommons 0x010047000000 && decide (weSize e ≤ 3) && weP e && !weW e && !weS e && !weX e && !weI e && resident
   else if baseHost ≤ a then
     sameEnd baseHost (2 ^ 48) && !weS e && !weX e && !weI e && resident
   else false)

/-- A valid entry is well formed by itself (R278); an invalid one is zero. -/
def weWf (s : State) (e : WEntry) : Bool :=
  weReserved e &&
  (!weValid e ||
    (decide (weSize e ≤ 6) && decide (weRes e ≤ 4) && decide (weVa e % pageBytes (weSize e) = 0) &&
      decide (wePa e % pageBytes (weSize e) = 0) && !(weC e && weW e) && (!weI e || (weR e && !weW e)) && weRange s e))

/-- Two valid entries overlap in virtual addresses. -/
def weOverlap (a b : WEntry) : Bool :=
  weValid a && weValid b && decide (weVa a < weVa b + pageBytes (weSize b)) && decide (weVa b < weVa a + pageBytes (weSize a))

/-- No entry of the list overlaps a later one. -/
def tableDisjoint (l : List WEntry) : Bool :=
  match l with
  | [] => true
  | e :: t => t.all (fun x => !weOverlap e x) && tableDisjoint t

/-- An image of a window table is well formed (R278). -/
def tableWf (s : State) (l : List WEntry) : Bool := l.all (weWf s) && tableDisjoint l

/-- The window table that a strand's words are checked against: its kernel's copy locked in its stack (R277). -/
def bankTable (s : State) (b : Nat) : List WEntry := (stackOf s (bankStack b)).tables.getD (bankGroup s b).kern []

end Sys2Proof.Machine
end

