-- ==== Sys2Proof/Machine/Ecc.lean ====
section
/-! DEFINITION. The error log (R384 to R386), the Reed-Solomon code of DRAM lines (R374, R375), SRAM parity (R379, R380, R450),
the page-frame records of the memories (R281), and reads and writes of physical memory with their integrity. -/

namespace Sys2Proof.Machine

/-- The 32 bytes of a fault record as four doublewords (R358). -/
def frecWord0 (r : FaultRec) : Nat :=
  r.pkg % 16 * 2 ^ 28 + (if r.restartable then 2 ^ 27 else 0) + (if r.late then 2 ^ 26 else 0) + r.col % 8 * 2 ^ 23 +
    r.row % 16 * 2 ^ 19 + r.stack % 8 * 2 ^ 16 + r.opsel % 32 * 2 ^ 11 + r.eng % 8 * 2 ^ 8 + r.cause % 256

/-- The bytes of a fault record (R358). -/
def frecBytes (r : FaultRec) : List Byte :=
  leBytes 4 (frecWord0 r) ++ leBytes 4 r.waddr ++ leBytes 8 r.pkc ++ leBytes 8 r.addr ++ leBytes 8 r.detail

/-- A record with no cause. -/
def FaultRec.blank : FaultRec :=
  { pkg := 0, restartable := false, late := false, col := 0, row := 0, stack := 0, opsel := 0, eng := 0, cause := 0, waddr := 0,
    pkc := 0, addr := 0, detail := 0 }

/-- The place of a record among those of one hub kc (R384): link events, east before west; stack events by stack, physical row and cell; then hub
events. -/
def recPlace (r : LogRec) : Nat :=
  match r.src, r.frec with
  | 0, _ => 16 + r.det % 1024
  | 1, _ => (match placeOf (paLocal r.det) with | .spad c _ => 16 + c % 1024 | .sram z _ => 16 + 128 * (z % 8) | _ => 4096)
  | 2, some f => 16 + (f.stack % 8 * 16 + f.row % 16) * 8 + f.col % 8
  | 4, _ => if r.det = 8 then 0 else if r.det = 9 then 1 else 2
  | 7, some f => 16 + (f.stack % 8 * 16 + f.row % 16) * 8 + f.col % 8
  | _, _ => 4096

/-- A record goes into the log at slot `i`, before those of its hub kc, at most `n`, that come behind it (R384): they move up by a slot. -/
def placeRec (n : Nat) (log : Sparse LogRec) (i : Nat) (r : LogRec) : Sparse LogRec :=
  match n with
  | 0 => log.put i r
  | k + 1 =>
    match Sparse.find log ((i + 32767) % 32768) with
    | none => log.put i r
    | some x =>
      if x.hkc = r.hkc ∧ recPlace r < recPlace x then placeRec k (log.put i { x with seq := r.seq }) ((i + 32767) % 32768) { r with seq := x.seq }
      else log.put i r

/-- Writing an error-log record (R384), with what a full ring does (R386). -/
def logRec (s : State) (src sev tag ctx det : Nat) (frec : Option FaultRec) : State :=
  let r : LogRec := { seq := s.elogSeq, src := src, sev := sev, hkc := s.hkc, tag := tag, ctx := ctx, det := det, frec := frec }
  if (s.elogWr + 1) % 32768 = s.elogRd then
    if sev < 3 then { s with elogLost := if s.elogLost < 2 ^ 32 - 1 then s.elogLost + 1 else s.elogLost }
    else { s with elog := s.elog.put s.elogRd r, elogRd := (s.elogRd + 1) % 32768, elogSeq := (s.elogSeq + 1) % 2 ^ 32 }
  else { s with elog := placeRec ((s.elogWr + 32768 - s.elogRd) % 32768) s.elog s.elogWr r, elogWr := (s.elogWr + 1) % 32768, elogSeq := (s.elogSeq + 1) % 2 ^ 32 }

/-- Doubling in GF(2^8) on 0x11D (R374). -/
def gfDbl (a : Nat) : Nat := if a < 128 then 2 * a else (2 * a) ^^^ 0x11D

/-- Multiplication in GF(2^8): `n` bits of `b`, lowest first. -/
def gfMulBits (n a b acc : Nat) : Nat :=
  match n with
  | 0 => acc
  | k + 1 => gfMulBits k (gfDbl a) (b / 2) (if b % 2 = 1 then acc ^^^ a else acc)

/-- Multiplication in GF(2^8). -/
def gfMul (a b : Nat) : Nat := gfMulBits 8 a b 0

/-- `a` to the power `n`. -/
def gfPow (a n : Nat) : Nat :=
  match n with
  | 0 => 1
  | k + 1 => gfMul a (gfPow a k)

/-- α to the power `n`, α = 2. -/
def gfAlpha (n : Nat) : Nat := gfPow 2 (n % 255)

/-- The inverse of a nonzero element. -/
def gfInv (a : Nat) : Nat := gfPow a 254

/-- Byte `i` of an error mask of 76 bytes. -/
def errByte (e : BitVec 608) (i : Nat) : Nat := bitsOf e.toNat (8 * i) 8

/-- Syndrome `i` of an error mask (R374): byte `b` is the coefficient of x^(75 − b). -/
def syndrome (e : BitVec 608) (i : Nat) : Nat :=
  (List.range 76).foldl (fun acc b => let v := errByte e b; if v = 0 then acc else acc ^^^ gfMul v (gfAlpha (i * (75 - b)))) 0

/-- The coefficients of Π (x − r) over a list of roots, lowest first. -/
def polyFromRoots (rs : List Nat) : List Nat :=
  match rs with
  | [] => [1]
  | r :: t =>
    let p := polyFromRoots t
    List.zipWith (fun a b => a ^^^ b) (0 :: p) ((p.map (gfMul r)) ++ [0])

/-- The error values of bond group `g` that the first four syndromes ask for. -/
def groupSolve (syn : List Nat) (g : Nat) : List Nat :=
  let xs := (List.range 4).map (fun j => gfAlpha (75 - (4 * g + j)))
  xs.map (fun x =>
    let others := xs.filter (fun y => y != x)
    let num := (List.zipWith gfMul (polyFromRoots others) (syn.take 4)).foldl (fun a b => a ^^^ b) 0
    let den := others.foldl (fun a y => gfMul a (x ^^^ y)) 1
    gfMul num (gfInv den))

/-- The group's error values have exactly the syndromes given. -/
def groupFits (syn : List Nat) (g : Nat) (c : List Nat) : Bool :=
  (List.range 12).all (fun i =>
    decide (((List.range 4).zip c).foldl (fun acc p => acc ^^^ gfMul p.2 (gfAlpha (i * (75 - (4 * g + p.1))))) 0 = syn.getD i 0))

/-- What decoding a line finds (R375): clean, corrected in a bond group, or uncorrectable, with the error bytes that the
decoder leaves in the 64 data bytes. -/
inductive LineClass where
  | clean
  | corrected (group : Nat)
  | uncorrectable
  deriving DecidableEq, Repr

/-- Decoding of an error mask: the class, and the mask of errors left in the line after correction. -/
def lineDecode (e : BitVec 608) : LineClass × BitVec 608 :=
  if e = 0 then (.clean, 0)
  else
    let syn := (List.range 12).map (syndrome e)
    if syn.all (fun x => x == 0) then (.clean, e)
    else
      match (List.range 19).find? (fun g => groupFits syn g (groupSolve syn g)) with
      | some g => (.corrected g, e ^^^ BitVec.ofNat 608 (leNat ((groupSolve syn g).map (BitVec.ofNat 8)) * 2 ^ (32 * g)))
      | none => (.uncorrectable, e)

/-- The number under which a DRAM line is kept: its bank-linear address over 64. -/
def lineKey (a : Nat) : Nat := homeAddr a / 64

/-- The address lies in DRAM. -/
def isDram (a : Nat) : Bool := decide (a < baseSpad)

/-- The class of the line at a DRAM address. -/
def lineClass (s : State) (a : Nat) : LineClass × BitVec 608 := lineDecode (s.flips.getD (lineKey a) 0)

/-- An SRAM word: its address over 4, and the vertical group of 32 words it belongs to (R379; log entry 9). -/
def sramKey (a : Nat) : Nat := a / 4
def sramGroup (w : Nat) : Nat := w / 32

/-- The words of a vertical group that fail. -/
def groupBad (s : State) (w : Nat) : List (Nat × Bool) := s.sramBad.filter (fun e => sramGroup e.1 == sramGroup w)

/-- A word that fails its parity and can be rebuilt (R380). -/
def sramRebuilds (s : State) (w : Nat) : Bool :=
  match Sparse.find s.sramBad w with
  | some false => decide ((groupBad s w).length = 1)
  | _ => false

/-- A word that fails its parity and cannot be rebuilt (R380, R450). -/
def sramDead (s : State) (w : Nat) : Bool :=
  match Sparse.find s.sramBad w with
  | some true => true
  | some false => decide ((groupBad s w).length ≠ 1)
  | none => false

/-- The word numbers that a run of bytes touches. -/
def wordsOf (a n : Nat) : List Nat := if n = 0 then [] else (List.range ((a + n - 1) / 4 - a / 4 + 1)).map (a / 4 + ·)

/-- A package-local address lies in a run of them, by any window that names its byte (R275). -/
def runHas (b n pa : Nat) : Bool :=
  let within (x : Nat) : Bool := decide (b ≤ x) && decide (x < b + n)
  within pa || (isDram pa && (within (homeAddr pa) || within (interleavedOf (homeAddr pa))))

/-- The page-frame record that covers a physical address (R281). -/
def frameAt (s : State) (pa : Nat) : Option (Nat × PageFrame) := s.frames.find? (fun e => runHas e.1 (pageBytes e.2.size) pa)

/-- The frame holds the page of a context that covers a virtual address. -/
def holdsPage (f : PageFrame) (ctx va : Nat) : Bool :=
  ((f.ctx, f.va, f.size) :: f.others).any (fun e => decide (e.1 = ctx) && decide (e.2.1 ≤ va) && decide (va < e.2.1 + pageBytes e.2.2))

/-- The state of the page that a word validated, at the frame it reaches (R281): away where the frame no longer holds it. -/
def pageState (s : State) (ctx va pa : Nat) : PageState :=
  let l := s.frames.filter (fun e => runHas e.1 (pageBytes e.2.size) pa)
  match l.find? (fun e => holdsPage e.2 ctx va) with
  | some e => e.2.st
  | none =>
    match l.head? with
    | some e => if e.2.ctx = 256 then e.2.st else .away
    | none => .resident

/-- The record of a frame that holds one page. -/
def PageFrame.of (ctx va size : Nat) (st : PageState) (pinned : Bool) (since idx : Nat) : PageFrame :=
  { ctx := ctx, va := va, size := size, st := st, pinned := pinned, since := since, given := false, kern := 0, idx := idx, others := [], toward := none }

/-- The page at a frame goes to poisoned (R286). -/
def poisonPage (s : State) (pa : Nat) : State :=
  match frameAt s pa with
  | some (b, f) => { s with frames := s.frames.put b { f with st := .poisoned } }
  | none => { s with frames := s.frames.put (pa / 4096 * 4096) (PageFrame.of 256 0 0 .poisoned true 0 0) }

/-- The residence that a table's entry gives its page (R277). -/
def entryState (e : WEntry) : PageState :=
  match weRes e with | 0 => .resident | 1 => .away | 2 => .moving | 3 => .poisoned | _ => .lost

/-- The memory's record of the page of a context's entry `i` (R277, R281): it stands by what the memory knows already, and otherwise by what the
table says, but for its size and P, which the entry gives (R279, R287). A frame that the pager has given to another page is not the entry's. -/
def markPage (s : State) (c : Nat) (e : WEntry) (i : Nat) : State :=
  let a := paLocal (wePa e)
  let fresh := PageFrame.of c (weVa e) (weSize e) (entryState e) (weP e) s.hkc i
  if !weValid e ∨ paPkg (wePa e) ≠ s.dev.pkg ∨ !isDram a then s
  else match frameAt s a with
    | none => { s with frames := s.frames.put a fresh }
    | some (b, f) =>
      if holdsPage f c (weVa e) then
        { s with frames := s.frames.put b { f with pinned := weP e, size := if f.ctx = c ∧ f.va = weVa e then weSize e else f.size } }
      else if weRes e ≠ 0 ∨ f.given then s
      else if f.st = .away then { s with frames := (s.frames.drop b).put a fresh }
      else { s with frames := s.frames.put b { f with others := (c, weVa e, weSize e) :: f.others } }

/-- The memories' records of the pages of a context's table. -/
def markPages (s : State) (c : Nat) (l : List (WEntry × Nat)) : State := l.foldl (fun st e => markPage st c e.1 e.2) s

/-- Counting a corrected DRAM error (R385): a record at the first and at every multiple of 256. -/
def countDram (s : State) (a group : Nat) : State :=
  let o := homeAddr a - baseLinear
  let c := o / 0x20000000
  let cell := s.cells.getD c Cell.fresh
  let n := (cell.count + 1) % 2 ^ 32
  let s1 := { s with cells := s.cells.put c { cell with count := n } }
  if n = 1 ∨ n % 256 = 0 then logRec s1 0 0 0 0 (c + (o % 0x20000000 / 64) * 2 ^ 10 + group * 2 ^ 33) none else s1

/-- Queueing a corrected line for rewrite (R376): a full queue of 8 takes no more. -/
def queueRewrite (s : State) (a : Nat) : State :=
  let o := homeAddr a - baseLinear
  let c := o / 0x20000000
  let cell := s.cells.getD c Cell.fresh
  let l := o % 0x20000000 / 64
  if 8 ≤ cell.rewrite.length ∨ cell.rewrite.contains l then s
  else { s with cells := s.cells.put c { cell with rewrite := cell.rewrite ++ [l] } }

/-- Counting a rebuilt SRAM word of a bank (R385), at a physical address. -/
def countBank (s : State) (bank pa : Nat) : State :=
  let n := (s.sramCount.getD bank 0 + 1) % 2 ^ 32
  let s1 := { s with sramCount := s.sramCount.put bank n }
  if n = 1 ∨ n % 256 = 0 then logRec s1 1 0 0 0 pa none else s1

/-- Counting a rebuilt word of addressed SRAM by its 64 KiB bank (R385). -/
def countSram (s : State) (a : Nat) : State := countBank s (a / 65536) (s.dev.pkg * 2 ^ 48 + a)

/-- Counting `n` rebuilt words of storage that has no address (R385): that of its records is free (log entry 9). -/
def countInner (s : State) (bank n : Nat) : State :=
  match n with
  | 0 => s
  | k + 1 => let f := freeValue s; countInner (countBank f.2 bank (f.1 % 2 ^ 52)) bank k

/-- A word of storage without an address that could not be rebuilt is written: the event is logged (R450). -/
def logInner (s : State) : State := let f := freeValue s; logRec f.2 1 1 0 0 (f.1 % 2 ^ 52 + 2 ^ 52) none

/-- The det field of an uncorrectable line's record (R384). -/
def dramDet (a : Nat) : Nat :=
  let o := homeAddr a - baseLinear
  o / 0x20000000 + (o % 0x20000000 / 64) * 2 ^ 10 + 31 * 2 ^ 33 + 2 ^ 38

/-- The lines (as addresses over 64) that a run of bytes touches. -/
def spanLines (a n : Nat) : List Nat := runLines a n

/-- An uncorrectable line or word lies in a run of physical bytes (R375, R380). -/
def runDead (s : State) (a n : Nat) : Bool :=
  if isDram a then (spanLines a n).any (fun l => (lineClass s (64 * l)).1 == .uncorrectable)
  else (wordsOf a n).any (sramDead s)

/-- A word of a run fails its parity and will be rebuilt under a freeze (R380). -/
def runRebuilds (s : State) (a n : Nat) : Bool := !isDram a && (wordsOf a n).any (sramRebuilds s)

/-- Reading one byte with its integrity: the bytes a decoder delivers (R375). -/
def fetchByte (s : State) (a : Nat) : Byte :=
  if isDram a then
    let e := s.flips.getD (lineKey a) 0
    if e = 0 then readByte s a else readByte s a ^^^ BitVec.ofNat 8 (errByte (lineDecode e).2 (homeAddr a % 64))
  else readByte s a

/-- Reading `n` bytes with their integrity. -/
def fetchBytes (s : State) (a n : Nat) : List Byte := (List.range n).map (fun i => fetchByte s (a + i))

/-- The entry of the 16 bytes at an address. -/
def readEntry (s : State) (a : Nat) : WEntry :=
  { lo := BitVec.ofNat 64 (leNat (fetchBytes s a 8)), hi := BitVec.ofNat 64 (leNat (fetchBytes s (a + 8) 8)) }

/-- The `n` entries of an image (R277). -/
def readTable (s : State) (a n : Nat) : List WEntry := (List.range n).map (fun i => readEntry s (a + 16 * i))

/-- What a read leaves behind: corrected lines are queued for rewrite and counted (R375, R385), rebuilt words are written back
and counted (R380). -/
def afterRead (s : State) (a n : Nat) : State :=
  if isDram a then
    (spanLines a n).foldl (fun st l =>
      match (lineClass st (64 * l)).1 with
      | .corrected g => countDram (queueRewrite st (64 * l)) (64 * l) g
      | _ => st) s
  else
    (wordsOf a n).foldl (fun st w =>
      if sramRebuilds st w then countSram { st with sramBad := st.sramBad.drop w } (4 * w) else st) s

/-- An address of this package lies in host memory. -/
def inHost (s : State) (pa : Nat) : Bool := decide (paPkg pa = s.dev.pkg) && decide (placeZone (placeOf (paLocal pa)) = 9)

/-- An access to a physical address completes with an error status: the host port is retired (R395). -/
def hostLost (s : State) (pa : Nat) : Bool := inHost s pa && (linkOf s 10).st == .retired

/-- The bits of a byte mask that starts at address `a` for the `n` bytes from `b` up. -/
def maskAt (a mask b n : Nat) : Nat := (if a ≤ b then mask / 2 ^ (b - a) else mask * 2 ^ (a - b)) % 2 ^ n

/-- A write under a byte mask covers only a part of line `l` (R449). -/
def coversPart (a mask l : Nat) : Bool := let k := maskAt a mask (64 * l) 64; decide (k ≠ 0) && decide (k ≠ 2 ^ 64 - 1)

/-- The lines that a write of `n` bytes under a byte mask covers only in part (R449). -/
def partLines (a n mask : Nat) : List Nat := (spanLines a n).filter (coversPart a (mask % 2 ^ n))

/-- A line that a write reaches (R449): a fresh codeword, of the new data where the write covers the line, and of the decoded data to be merged
with it otherwise, whose correction is counted. An uncorrectable line is not written, and its page is poisoned (R286). -/
def lineWritten (s : State) (a mask l : Nat) : State :=
  let e := s.flips.getD (lineKey (64 * l)) 0
  let s1 := { s with flips := s.flips.drop (lineKey (64 * l)) }
  let data (left : BitVec 608) : List Byte := (List.range 64).map (fun i => readByte s (64 * l + i) ^^^ BitVec.ofNat 8 (errByte left i))
  if e = 0 ∨ maskAt a mask (64 * l) 64 = 0 then s
  else if !coversPart a mask l then s1
  else match lineDecode e with
    | (.corrected g, left) => countDram (writeBytes s1 (64 * l) (data left)) (64 * l) g
    | (.clean, left) => writeBytes s1 (64 * l) (data left)
    | (.uncorrectable, _) => poisonPage s (homeAddr (64 * l))

/-- An SRAM word that a write reaches (R450): one that fails is rebuilt and counted, or takes a fresh parity and leaves what fails beside it
uncorrectable, with a record. -/
def sramWritten (s : State) (w : Nat) : State :=
  if sramRebuilds s w then countSram { s with sramBad := s.sramBad.drop w } (4 * w)
  else if sramDead s w then
    let others := (groupBad s w).filter (fun e => e.1 != w)
    others.foldl (fun x e => logRec x 1 1 0 0 (s.dev.pkg * 2 ^ 48 + 4 * e.1 + 2 ^ 52) none)
      { s with sramBad := others.foldl (fun m e => m.put e.1 true) (s.sramBad.drop w) }
  else s

/-- A byte mask from address `a` without the bytes of some lines. -/
def maskBut (a mask : Nat) (ls : List Nat) : Nat :=
  ls.foldl (fun m l => let k := maskAt a m (64 * l) 64; m - (if a ≤ 64 * l then k * 2 ^ (64 * l - a) else k / 2 ^ (a - 64 * l))) mask

/-- Writing bytes under a byte mask with their integrity (R449, R450), but for a line that cannot be read and that the write covers in part. A
write over a retired host port is logged, and nothing else (R395). -/
def storeMasked (s : State) (a : Nat) (bs : List Byte) (mask0 : Nat) : State :=
  let n := bs.length
  let mask := mask0 % 2 ^ n
  if hostLost s (s.dev.pkg * 2 ^ 48 + a) then logRec s 4 1 0 0 a none
  else if isDram a then
    let dead := (partLines a n mask).filter (fun l => (lineClass s (64 * l)).1 == .uncorrectable)
    writeMasked ((spanLines a n).foldl (fun st l => lineWritten st a mask l) s) a bs (maskBut a mask dead)
  else writeMasked (((wordsOf a n).filter (fun w => decide (maskAt a mask (4 * w) 4 ≠ 0))).foldl sramWritten s) a bs mask

/-- Writing bytes with their integrity. -/
def storeBytes (s : State) (a : Nat) (bs : List Byte) : State := storeMasked s a bs (2 ^ bs.length - 1)

/-- A line of a row's data cache is written back and clean (R225). -/
def cleanLine (s : State) (r l : Nat) (x : CacheLine) : State :=
  setRow (storeMasked s (64 * l) (leBytes 64 x.data.toNat) x.dirty.toNat) r
    { rowOf s r with dcache := (rowOf s r).dcache.put l { x with dirty := 0 } }

/-- A line leaves a data cache, its dirty bytes written back (R225). -/
def evictLine (s : State) (r l : Nat) : State :=
  match Sparse.find (rowOf s r).dcache l with
  | some x => setRow (storeMasked s (64 * l) (leBytes 64 x.data.toNat) x.dirty.toNat) r { rowOf s r with dcache := (rowOf s r).dcache.drop l }
  | none => s

end Sys2Proof.Machine
end

