-- ==== Sys2Proof/Machine/LinkBase.lean ====
section
/-! DEFINITION. Flits (R387, R388): their headers and CRC, sending one over a package edge link, and the delay that a replay adds in a
slot (R389). Links are numbered by the western stack of a stack edge, 8 east, 9 west, 10 the host port. What a flit of another kind
than a chain partial carries in its payload is log entry 16. -/

namespace Sys2Proof.Machine

/-- One bit into the CRC's remainder. -/
def crcBit (c : Nat) (b : Bool) : Nat :=
  let x := c * 2 % 2 ^ 64
  if (c / 2 ^ 63 % 2 = 1) != b then x ^^^ 0x42F0E1EBA9EA3693 else x

/-- One byte into the remainder, its most significant bit first. -/
def crcByte (c : Nat) (b : Byte) : Nat := (List.range 8).foldl (fun x i => crcBit x (b.getLsbD (7 - i))) c

/-- The CRC-64 of a byte string (R387; log entry 17). -/
def crcBytes (bs : List Byte) : Nat := bs.foldl crcByte 0

/-- The CRC of a flit's header and payload (R387). -/
def flitCrc (hdr : Dword) (payload : BitVec 2048) : Dword := BitVec.ofNat 64 (crcBytes (leBytes 8 hdr.toNat ++ leBytes 256 payload.toNat))

/-- The fields of a flit's header (R387). -/
def flitStamp (f : Flit) : Nat := bitsOf f.hdr.toNat 24 40
def flitRow (f : Flit) : Nat := bitsOf f.hdr.toNat 16 4
def flitKind (f : Flit) : Nat := bitsOf f.hdr.toNat 12 4
def flitSeq (f : Flit) : Nat := bitsOf f.hdr.toNat 0 12

/-- The link takes flits (R390). -/
def linkCarries (x : Link) : Bool :=
  match x.st with
  | .up => true
  | .degraded => true
  | .replaying => true
  | .retraining => true
  | _ => false

/-- A link that runs at half its rate (R390, R391). -/
def linkHalf (x : Link) : Bool := x.st == .degraded || (x.st == .replaying && x.prev == .degraded)

/-- A flit leaves over a package edge link in slot `k` (R387): the slot is taken for this kc, and the flit is kept until it is acknowledged
(R389). -/
def launchFlit (s : State) (l k : Nat) (o : OutFlit) : State :=
  let x := linkOf s l
  let n := x.sendSeq.getD k 0
  let hdr : Dword := BitVec.ofNat 64 (o.stamp % 2 ^ 40 * 2 ^ 24 + o.row % 16 * 2 ^ 16 + o.kind % 16 * 2 ^ 12 + n)
  let p : BitVec 2048 := BitVec.ofNat 2048 o.payload
  let f : Flit := { hdr := hdr, payload := p, crc := flitCrc hdr p }
  { setLink s l { x with sendSeq := x.sendSeq.put k ((n + 1) % 4096), used := k :: x.used, unacked := x.unacked ++ [(k, f)] } with
    sent := (l, f) :: s.sent }

/-- A flit goes to a package edge link (R387, R388): a chain partial leaves in its slot at once, and every other flit takes a slot that the kc's
partials leave free. Where the link is degraded or retrains, partials wait too (R390, R391). A link that carries none loses it. -/
def sendFlit (s : State) (l slot row kind stamp : Nat) (payload : Nat) : State :=
  let x := linkOf s l
  let o : OutFlit := { slot := slot, row := row, kind := kind, stamp := stamp, payload := payload }
  if !linkCarries x then s
  else if kind = 1 ∧ x.st ≠ .retraining ∧ !linkHalf x ∧ x.outq.all (fun q => decide (q.kind ≠ 1)) then launchFlit s l slot o
  else setLink s l { x with outq := x.outq ++ [o] }

/-- The first flit that waits for slot `k` leaves, where the slot is free (R388, R391). -/
def fillSlot (s : State) (l k : Nat) : State :=
  let x := linkOf s l
  let fits (o : OutFlit) : Bool := decide (o.kind ≠ 1) || decide (o.slot = k) || linkHalf x
  match x.outq.find? fits with
  | none => s
  | some o => if x.used.contains k then s else launchFlit (setLink s l { x with outq := x.outq.erase o }) l k o

/-- The end of a kc on a package edge link (R20, R388, R391): what waits leaves in the slots still free, two in a kc, or one on a degraded link;
a link that retrains holds it (R390). -/
def pumpLink (s : State) (l : Nat) : State :=
  let x := linkOf s l
  let s1 := if !linkCarries x || x.st == .retraining then s
    else (if linkHalf x then [0] else [0, 1]).foldl (fun st k => fillSlot st l k) s
  let y := linkOf s1 l
  if y.used.isEmpty then s1 else setLink s1 l { y with used := [] }

/-- What is left of a slot's replay delay at hub kc `h` (R389): each idle kc since its last flit absorbs one kc of it. -/
def replayDelay (x : Link) (k h : Nat) : Nat :=
  match Sparse.find x.late k with
  | some (d, last) => if d ≤ h - last then 0 else d
  | none => 0

/-- The kc for which a flit is held at the sender of a link that retrains, until its time is out (R390). -/
def retrainHold (x : Link) (h : Nat) : Nat := if x.st = .retraining then x.since + 262144 - h else 0

/-- The wait in kc of `n` flits that enter a direction `w` of a stack edge, and its link then: a degraded edge carries 8 flits per kc, and the
flits ahead that it has not carried yet are kept under slot number 32 + `w` (R391). -/
def halfRate (x : Link) (w n h : Nat) : Nat × Link :=
  if linkHalf x then
    match x.late.getD (32 + w) (0, h) with
    | (b, last) => ((b - 8 * (h - last)) / 8, { x with late := x.late.put (32 + w) (b - 8 * (h - last) + n, h) })
  else (0, x)

/-- The slot of row `r` of a stack edge in the direction of travel: 0 to 15 eastward, 16 to 31 westward (R387). -/
def edgeSlot (r : Nat) (west : Bool) : Nat := r % 16 + if west then 16 else 0

/-- `n` flits go through a slot of a stack edge: their delay by replays, retraining and half rate, and the slot used now (R389 to R391). -/
def useSlot (s : State) (l k n : Nat) : Nat × State :=
  let x := linkOf s l
  let d := replayDelay x k s.hkc
  let q := halfRate { x with late := if d = 0 then x.late.drop k else x.late.put k (d, s.hkc) } (k / 16) n s.hkc
  (d + retrainHold x s.hkc + q.1, setLink s l q.2)

/-- The stack edge between two stacks, if one joins them (R20). -/
def edgeLink (a b : Nat) : Option Nat :=
  if a + 1 = b ∧ a / 4 = b / 4 then some a else if b + 1 = a ∧ a / 4 = b / 4 then some b else none

/-- The edge link toward another package (R12). -/
def linkToward (s : State) (pkg : Nat) : Nat := if s.dev.pkg < pkg then 8 else 9

/-- Another package is out of reach: the link toward it is retired (R393). -/
def linkLost (s : State) (pkg : Nat) : Bool := decide (pkg ≠ s.dev.pkg) && (linkOf s (linkToward s pkg)).st == .retired

end Sys2Proof.Machine
end

