-- ==== Sys2Proof/Machine/TokenBase.lean ====
section
/-! DEFINITION. Tokens as the whole machine uses them: ids and agents (R219, R220), held-token sets (R222) and the access check
(R224), scopes (R246), hand-offs on their way (R451), and what becomes of a failed agent's tokens (R239, R240). -/

namespace Sys2Proof.Machine

/-- The fields of a token id (R219). -/
def tokHome (id : Nat) : Nat := bitsOf id 28 4
def tokGen (id : Nat) : Nat := bitsOf id 16 12
def tokIdx (id : Nat) : Nat := bitsOf id 0 16

/-- The place of a token's entry: its index in this package's table, or the guest entry of another package's token (R241). -/
def tokKey (s : State) (id : Nat) : Nat := if tokHome id = s.dev.pkg then tokIdx id else 65536 + id

/-- The id that names entry `i` now. -/
def tokId (s : State) (i : Nat) : Nat := if i < 65536 then s.dev.pkg * 2 ^ 28 + (tokenOf s i).gen * 2 ^ 16 + i else i - 65536

/-- The generation after one, from 0xFFF to 1 (R219). -/
def nextTokGen (g : Nat) : Nat := if g ≥ 0xFFF then 1 else g + 1

/-- An id names a live entry of this package, or a guest entry (R219, R241). -/
def tokCurrent (s : State) (id : Nat) : Bool :=
  (tokenOf s (tokKey s id)).st != .free && decide ((tokenOf s (tokKey s id)).gen = tokGen id)

/-- The fields of an agent id (R220). -/
def agPkg (a : Nat) : Nat := bitsOf a 28 4
def agKind (a : Nat) : Nat := bitsOf a 25 3
def agCtx (a : Nat) : Nat := bitsOf a 17 8
def agInst (a : Nat) : Nat := bitsOf a 7 10
def agStack (a : Nat) : Nat := bitsOf a 4 3
def agRow (a : Nat) : Nat := bitsOf a 0 4

/-- The key of the group that a strand's agent id names. -/
def agGroup (a : Nat) : Nat := agCtx a * 1024 + agInst a

/-- The group key of a context and an instance number (R305). -/
def groupKey (c i : Nat) : Nat := c * 1024 + i

/-- The bank that holds the strand an agent id names, if it is one of this package and placed (R220). -/
def agentBank (s : State) (a : Nat) : Option Nat := if agPkg a = s.dev.pkg then bankAt s (agGroup a) (agStack a) (agRow a) else none

/-- The group of an agent holds rows: placing or later, not yielded (R346). -/
def groupPlaced (g : Group) : Bool :=
  match g.st with
  | .running => true
  | .frozen => true
  | .yielding => true
  | _ => false

/-- The cells and the offsets in each that a naturally aligned run of `n` bytes of package DRAM takes, in either window (R275): the first
cell, the number of cells, the first offset, the number of offsets. -/
def dramBox (a n : Nat) : Option (Nat × Nat × Nat × Nat) :=
  if a < baseLinear then some (a / 64 % 1024, max 1 (min 1024 (n / 64)), a / 65536 * 64, max 64 (n / 1024))
  else if a < baseSpad then
    some ((a - baseLinear) / 0x20000000, max 1 (n / 0x20000000), (a - baseLinear) % 0x20000000, min n 0x20000000)
  else none

/-- Two naturally aligned runs of package-local addresses share a byte, whichever DRAM window names it (R218, R275). -/
def runsShare (a n b m : Nat) : Bool :=
  match dramBox a n, dramBox b m with
  | some (c, i, o, k), some (d, j, p, l) => decide (c < d + j) && decide (d < c + i) && decide (o < p + l) && decide (p < o + k)
  | _, _ => decide (a < b + m) && decide (b < a + n)

/-- The byte at global physical address `pa` lies in the region of a held entry of group `g` (R218, R223). -/
def heldCovers (g : Group) (h : HeldTok) (pa : Nat) : Bool :=
  decide (tokHome h.id = paPkg pa) &&
  if h.spad then
    match placeOf (paLocal pa) with
    | .spad c o =>
      decide (g.stack0 ≤ c / 128) && decide (c / 128 < g.stack0 + g.rS) &&
        (List.range g.rR).any (fun r => decide (placeRow g 0 r % 16 = c / 8 % 16)) &&
        decide (g.spadBase ≤ o) && decide (o < g.spadBase + g.spadLen)
    | _ => false
  else runsShare h.base (2 ^ h.size) (paLocal pa) 1

/-- The points of a run at which coverage can change: its start and every multiple of 64 bytes in it, since lines next to one another in the
interleaved window lie in different cells (R275). -/
def checkPoints (a n : Nat) : List Nat :=
  a :: ((List.range (n / 64 + 1)).map (fun i => (a / 64 + 1 + i) * 64)).filter (fun x => decide (x < a + n))

/-- The id of the token that `f` picks among those whose region has the byte at a global physical address. -/
def tokenAt (s : State) (f : Token → Bool) (pa : Nat) : Option Nat :=
  (s.tokens.find? (fun e => f e.2 && decide (e.2.size ≠ 0) && decide (tokHome (tokId s e.1) = paPkg pa) &&
    runsShare e.2.base (2 ^ e.2.size) (paLocal pa) 1)).map (fun e => tokId s e.1)

/-- A lost region covers the byte, whoever holds it (R242): the token's id. -/
def lostAt (s : State) (pa : Nat) : Option Nat := tokenAt s (fun t => t.st == .lost) pa

/-- A held entry still stands for its token: one of an orphaned token, or of an id that has moved on, covers nothing (R219, R242). -/
def entryStands (s : State) (h : HeldTok) : Bool := tokCurrent s h.id && (tokenOf s (tokKey s h.id)).st != .orphaned

/-- The token has read shares out (R224). -/
def sharedOut (s : State) (h : HeldTok) : Bool := decide ((tokenOf s (tokKey s h.id)).shares ≠ 0)

/-- An entry allows an access (R224). -/
def entryAllows (s : State) (wr : Bool) (h : HeldTok) : Bool :=
  !h.leaving && (match h.mode with | .own => !(wr && sharedOut s h) | .share => !wr | .lentOut => false)

/-- The token check of an access of `n` bytes to a W page against a set (R224, R242): the cause and the token id where it fails. Where no entry
covers the byte, the id is that of the token whose region has it, and 0 where there is none. DEDUCED: see log entry 120. -/
def tokenCheck (s : State) (g : Group) (held : List HeldTok) (wr : Bool) (pa n : Nat) : Option (Nat × Nat) :=
  (checkPoints pa n).findSome? (fun x =>
    let cov := held.filter (fun h => heldCovers g h x && entryStands s h)
    match lostAt s x with
    | some i => some (0x0B, i)
    | none =>
      if cov.any (entryAllows s wr) then none
      else match cov.find? (fun h => wr && h.mode == .own && !h.leaving), cov.head? with
        | some h, _ => some (0x07, h.id)
        | none, some h => some (0x06, h.id)
        | none, none => some (0x06, (tokenAt s (fun t => t.st != .free) x).getD 0))

/-- The first write through an own entry marks it dirty (R224): an atomic and an exclusive word, which write memory too, count as stores.
DEDUCED: log entry 142. -/
def markDirty (s : State) (b a n : Nat) : State :=
  let t := strandOf s b
  let g := groupOf s t.grp
  setStrand s b { t with held := t.held.map (fun h =>
    if (checkPoints a n).any (heldCovers g h) && h.mode == .own then { h with dirty := true } else h) }

/-- Where an agent is located (R246): its package; its stack, or 8 in the hub, 9 at the host die, 10 at the management processor, 11 at an edge
link; its row; and the agent itself. -/
structure Spot where
  pkg : Nat
  z : Nat
  r : Nat
  agent : Nat
  deriving DecidableEq, Repr

/-- An agent is a member of no scope where its stack is harvested (R22, R246). -/
def spotPresent (s : State) (y : Spot) : Bool := decide (y.pkg ≠ s.dev.pkg) || decide (8 ≤ y.z) || stackPresent s y.z

/-- Scope `sc`, as an agent at `x` names it, includes the agent at `y` (R246, R254). An agent in the hub reads codes 1 to 6 as the hub alone, the
host and link custody 1 to 7 as their package, and management 1 to 11 as itself. -/
def scopeHas (s : State) (sc : Nat) (x y : Spot) : Bool :=
  let near := decide (x.pkg = y.pkg)
  let die := decide (y.z ≤ 8)
  let own :=
    if x.z = 10 ∧ sc ≤ 11 then decide (x.agent = y.agent)
    else if x.z = 8 ∧ sc ≤ 6 then near && decide (y.z = 8)
    else
      match (if 9 ≤ x.z then max 7 sc else sc) with
      | 1 => decide (x.agent = y.agent)
      | 2 => near && decide (x.z = y.z) && decide (x.r = y.r)
      | 3 => near && decide (x.z = y.z) && decide (x.r / 2 = y.r / 2)
      | 4 => near && decide (x.z = y.z)
      | 5 => near && decide (y.z < 8) && decide (x.z / 2 = y.z / 2)
      | 6 => near && decide (y.z < 8) && decide (x.z / 4 = y.z / 4)
      | 7 => near && die
      | 8 => near && (die || decide (y.z = 9))
      | 9 => decide (x.pkg ≤ y.pkg + 1) && decide (y.pkg ≤ x.pkg + 1) && (die || decide (y.z = 11))
      | 10 => die
      | 11 => decide (y.z ≤ 9)
      | _ => true
  own && spotPresent s y

/-- The smallest scope code that covers two agents (R246). -/
def coverScope (s : State) (x y : Spot) : Nat :=
  match (List.range 12).find? (fun i => scopeHas s (i + 1) x y && scopeHas s (i + 1) y x) with
  | some i => i + 1
  | none => 12

/-- The place of a strand by its bank. -/
def bankSpot (s : State) (b : Nat) : Spot := { pkg := s.dev.pkg, z := bankStack b, r := bankRow b % 16, agent := bankAgent s b }

/-- The place of an agent (R246): a strand's row, the transfer engine that runs a job, the host die, the management processor, an edge link. A
strand whose group is not placed counts with the hub, where its hand-offs arrive (R451), and so does an agent of another package. DEDUCED: log
entry 122. -/
def spotOf (s : State) (a : Nat) : Spot :=
  let at_ (z r : Nat) : Spot := { pkg := agPkg a, z := z, r := r, agent := a }
  match agKind a with
  | 0 => (match agentBank s a with | some b => at_ (bankStack b) (bankRow b % 16) | none => at_ 8 0)
  | 1 =>
    (match (if agPkg a = s.dev.pkg then Sparse.find s.jobs (a % 1024) else none) with
     | some j => if a % 1024 / 64 < 8 then at_ (a % 1024 / 64) (j.row % 16) else at_ 8 0
     | none => if a % 1024 / 64 < 8 then at_ (a % 1024 / 64) 0 else at_ 8 0)
  | 2 => at_ 9 0
  | 3 => at_ 10 0
  | _ => at_ 11 0

/-- A strand that waits takes a pending interrupt at its kc as it stands (R370); one that runs takes it at its next packet. -/
def wakeForInterrupt (s : State) (b : Nat) : State :=
  let t := strandOf s b
  let waits := t.st == .waiting || (t.st == .frozen && t.prev == .waiting)
  if waits && t.ie && !t.trap then
    post s (.kern t.grp (bankStack b)) (bankKc s b) 1 (bankRow b) 0 { Ctx.none with bank := b, grp := t.grp } (.ev (.interruptTaken b))
  else s

/-- An interrupt posted to a strand (R370): a source already pending takes the new detail, and the event is logged. A strand
that is yielded, done or failed takes none. -/
def postInterrupt (s : State) (b sub detail : Nat) : State :=
  let t := strandOf s b
  match t.st with
  | .unloaded => s
  | .yielded => s
  | .done => s
  | .failed => s
  | _ =>
    let s1 := wakeForInterrupt (setStrand s b { t with pend := t.pend.put sub (detail % 2 ^ 32) }) b
    match Sparse.find t.pend sub with
    | some _ => logRec s1 5 1 0 (groupOf s t.grp).ctx (sub * 2 ^ 32 + detail % 2 ^ 32) none
    | none => s1

/-- The bank and the zone of an agent's strand, where its group is placed (R451: one whose wave is being placed is not). -/
def agentZone (s : State) (a : Nat) : Option (Nat × Nat) :=
  if agKind a = 0 ∧ groupPlaced (groupOf s (agGroup a)) then (agentBank s a).map (fun b => (b, bankStack b)) else none

/-- The custody of a package edge link as an agent (R220): 0 east, 1 west. -/
def custodyAgent (s : State) (l : Nat) : Nat := s.dev.pkg * 2 ^ 28 + 4 * 2 ^ 25 + (l - 8)

/-- What a hand-off carries over a package edge link (log entry 16): token, target, giver, what it does, and the token's region, context and
lender, for the guest entry (R241). -/
def tokenPayload (h : Handoff) (t : Token) : Nat :=
  h.tok + h.target * 2 ^ 32 + h.giver * 2 ^ 64 +
    (match h.kind with | .lend => 0 | .pass => 1 | .share => 2 | .ret => 3) * 2 ^ 96 + h.scope % 16 * 2 ^ 98 +
    t.base / 4096 * 2 ^ 102 + t.size % 64 * 2 ^ 142 + t.ctx % 256 * 2 ^ 148 + t.lender * 2 ^ 156

/-- What becomes of a token in a package that is not its home, as it goes to the package that has to know (R241; log entry 16): 1 taken by the
agent, 2 a share taken, 3 a share returned, 4 lost, 5 orphaned, 6 a share cancelled. -/
def sendNews (s : State) (id n agent pkg : Nat) : State :=
  if pkg = s.dev.pkg then s
  else sendFlit s (linkToward s pkg) 0 0 3 s.hkc (id + pkg * 2 ^ 60 + agent * 2 ^ 64 + n * 2 ^ 188)

/-- A set without its share of a token. -/
def withoutShare (id : Nat) (l : List HeldTok) : List HeldTok := l.filter (fun h => !(decide (h.id = id) && h.mode == .share))

/-- The shares of a token that is orphaned are cancelled (R226, R240): a record for each, and no set or card holds one any more (R242). -/
def cancelAll (s : State) (i : Nat) : State :=
  let t := tokenOf s i
  let id := tokId s i
  let f := withoutShare id
  let s1 := (List.range t.shares).foldl (fun st _ => logRec st 3 1 0 t.ctx id none) s
  if t.shares = 0 then s
  else { s1 with
    banks := s1.banks.map (fun e => (e.1, { e.2 with held := f e.2.held })),
    groups := s1.groups.map (fun e => (e.1, { e.2 with saves := e.2.saves.map (fun r => (r.1, { r.2 with held := f r.2.held })) })),
    contexts := s1.contexts.map (fun e => (e.1, { e.2 with hostHeld := f e.2.hostHeld })),
    jobs := s1.jobs.map (fun e => (e.1, { e.2 with toks := f e.2.toks })) }

/-- A token goes to orphaned, held by the context root in its home package (R220, R239), which learns of it. -/
def orphan (s : State) (i : Nat) : State :=
  let t := tokenOf s i
  let id := tokId s i
  let root := if i < 65536 then hostAgent s t.ctx else tokHome id * 2 ^ 28 + 2 * 2 ^ 25 + t.ctx * 2 ^ 17
  let s1 := setToken (cancelAll s i) i { t with st := .orphaned, holder := root, lender := noAgent, target := noAgent, shares := 0, grants := [] }
  if i < 65536 then s1 else sendNews s1 id 5 root (tokHome id)

/-- A hand-off to an agent of another package passes into its link's custody (R241). Over a link that is retired the token is orphaned (R393). -/
def intoCustody (s : State) (h : Handoff) : State :=
  let l := linkToward s (agPkg h.target)
  let i := tokKey s h.tok
  let t := tokenOf s i
  if (linkOf s l).st = .retired ∧ h.kind ≠ .share then orphan (logRec s 4 2 0 t.ctx h.tok none) i else
  let s1 := if h.kind = .share then s else if 65536 ≤ i then setToken s i Token.free else setToken s i { t with holder := custodyAgent s l }
  sendFlit s1 l 0 (if agKind h.giver = 0 then agRow h.giver else 0) 3 h.stamp (tokenPayload h t)

/-- A hand-off between neighbouring stacks takes a slot of its giver's row on their edge, with the delays of that slot (R388 to R391); over a retired
edge it goes by the hub. -/
def overEdge (a : Nat × State) (h : Handoff) (z : Nat) : Nat × State :=
  match edgeLink h.zone z with
  | some l =>
    if (linkOf a.2 l).st = .retired then a
    else
      let u := useSlot a.2 l (edgeSlot (agRow h.giver) (decide (z < h.zone))) 1
      (a.1 + u.1, u.2)
  | none => a

/-- Posting a hand-off's arrival at its target (R451, R342): in the kernel time of a placed strand, or on its zone's clock where the giver has no
kernel kc or kernel time stands there, so that it lands during a freeze (R343); at the hub for every other agent. -/
def postArrival (s : State) (h : Handoff) : State :=
  if agPkg h.target ≠ s.dev.pkg then intoCustody s h
  else
    match agentZone s h.target with
    | some (b, z) =>
      let t := strandOf s b
      let c := { Ctx.none with grp := t.grp }
      if h.zone = 8 ∨ agKind h.giver = 1 then
        let x := stackOf s z
        if h.zone = z then post s (.zone z) x.zkc 0 (bankRow b) 4 c (.ev (.handoffArrival h))
        else
          let (a, s1) := overEdge (arrivalAt s (9 * h.zone + z) x.f (x.f + lam s h.zone z) x.f false) h z
          post s1 (.zone z) (x.zkc + (a - x.f)) 0 (bankRow b) 4 c (.ev (.handoffArrival h))
      else
        let (a, s1) := if h.zone = z then (max h.stamp (bankKc s b), s)
          else overEdge (arrivalAt s (9 * h.zone + z) h.stamp (h.stamp + lam s h.zone z) (bankKc s b) false) h z
        post s1 (landingAt s t.grp z a).1 (landingAt s t.grp z a).2 0 (bankRow b) 4 c (.ev (.handoffArrival h))
    | none =>
      if h.zone = 8 then post s .hub s.hkc 0 0 0 Ctx.none (.ev (.handoffArrival h))
      else
        let (a, s1) := arrivalAt s (9 * h.zone + 8) s.hkc (s.hkc + lam s h.zone 8) s.hkc false
        post s1 .hub a 0 0 0 Ctx.none (.ev (.handoffArrival h))

/-- The agent has failed (R239): its strand's group was killed, and no later group has taken its id. -/
def agentGone (s : State) (a : Nat) : Bool :=
  if agKind a = 0 ∧ agPkg a = s.dev.pkg then
    match Sparse.find s.groups (agGroup a) with
    | some g => g.st == .killed
    | none => false
  else false

/-- A token goes back in flight to its lender, or to orphaned where there is none or the lender is gone (R239). -/
def backToLender (s : State) (i from_ : Nat) : State :=
  let t := tokenOf s i
  if t.lender = noAgent ∨ agentGone s t.lender then orphan s i
  else
    postArrival (setToken s i { t with st := .inFlight, target := t.lender, ret := true, arrived := false })
      { kind := .ret, tok := tokId s i, giver := from_, target := t.lender, scope := 7, zone := 8, stamp := s.hkc }

/-- A cancelled share (R240): the count drops, the holder is interrupted, the event is logged. The holder's package does it, which keeps the count
(R241). -/
def cancelShare (s : State) (i : Nat) : State :=
  let t := tokenOf s i
  let n := t.shares - 1
  if agPkg t.holder ≠ s.dev.pkg then sendNews s (tokId s i) 6 noAgent (agPkg t.holder) else
  let s1 := setToken s i { t with shares := n, st := if t.st == .shared ∧ n = 0 then .owned else t.st }
  let s2 := match agentZone s1 t.holder with
    | some (b, _) => postInterrupt s1 b 0x10 (tokId s i)
    | none => s1
  logRec s2 3 1 0 t.ctx (tokId s i) none

/-- What becomes of one held entry of a failed agent (R239). -/
def failEntry (s : State) (agent : Nat) (h : HeldTok) : State :=
  let i := tokKey s h.id
  let t := tokenOf s i
  if t.gen ≠ tokGen h.id ∨ t.st == .free then s
  else if h.spad then setToken s i { Token.free with gen := nextTokGen t.gen }
  else match h.mode with
    | .lentOut => s
    | .share => cancelShare s i
    | .own =>
      if t.st == .inFlight then s
      else if h.dirty then sendNews (setToken s i { t with st := .lost, grants := [] }) h.id 4 agent (tokHome h.id)
      else if t.lender ≠ noAgent then backToLender s i agent
      else orphan s i

/-- Tokens in flight to a failed agent go back (R239). -/
def failInFlight (s : State) (agent : Nat) : State :=
  (s.tokens.filter (fun e => e.2.st == .inFlight && decide (e.2.target = agent))).foldl
    (fun st e =>
      let t := tokenOf st e.1
      if t.ret then orphan st e.1 else backToLender st e.1 agent) s

/-- What becomes of a failed agent's tokens (R239). -/
def failAgent (s : State) (agent : Nat) (held : List HeldTok) : State :=
  failInFlight (held.foldl (fun st h => failEntry st agent h) s) agent

end Sys2Proof.Machine
end

