-- ==== Sys2Proof/Machine/Regs.lean ====
section
/-! DEFINITION. Reading and writing a strand's registers: scalar registers and predicates (R85), vector registers, latches and
masks (R115), flags (R51), and the registers at a start or restart (R86, R118, R204, R205, R262). -/

namespace Sys2Proof.Machine

/-- A scalar register: `s0` reads as zero (R85). -/
def sreg (t : Strand) (r : Nat) : Dword := if r = 0 then 0 else t.s.getD r 0

/-- Writing a scalar register: a write to `s0` is dropped (R85); the register's parity is good (R371). -/
def setSreg (t : Strand) (r : Nat) (v : Dword) : Strand :=
  if r = 0 then t
  else { t with s := t.s.put r v, badPar := t.badPar &&& ~~~(1#32 <<< r), badChk := t.badChk &&& ~~~(1#32 <<< r) }

/-- An entry of a core's write log (R371): the bank of the core, and the register. -/
def logKey (b r : Nat) : Nat := b % 2 * 32 + r

/-- The core's write log takes register writes of bank `b`, in order (R371). -/
def logWrites (s : State) (b : Nat) (rs : List Nat) : State :=
  let l := rs.filter (fun r => decide (r ≠ 0))
  if l.isEmpty then s
  else
    let x := rowOf s (bankRow b)
    setRow s (bankRow b) { x with wlog := ((l.map (logKey b)).reverse ++ x.wlog).take 16 }

/-- What the core's write log holds of bank `b` says nothing of its registers any more (R371): they have been loaded anew. -/
def dropLog (s : State) (b : Nat) : State :=
  let x := rowOf s (bankRow b)
  if x.wlog.isEmpty then s else setRow s (bankRow b) { x with wlog := x.wlog.filter (fun e => decide (e / 32 ≠ b % 2)) }

/-- A register of the strand in bank `b` receives a value, and the core's write log takes it (R371). -/
def putReg (s : State) (b r : Nat) (v : Dword) : State := logWrites (setStrand s b (setSreg (strandOf s b) r v)) b [r]

/-- The scalar registers among the writes of a result. -/
def scalarWrites (ws : List RegWr) : List Nat := ws.filterMap (fun w => match w with | .s r _ => some r | _ => none)

/-- A predicate slot: `p0` reads as true (R85). -/
def predOf (t : Strand) (i : Nat) : Bool := decide (i = 0) || t.p.getLsbD i

/-- A 16-bit word with bit `i` set to `v`. -/
def setBit16 (p : BitVec 16) (i : Nat) (v : Bool) : BitVec 16 :=
  if v then p ||| (1#16 <<< i) else p &&& ~~~(1#16 <<< i)

/-- Writing a predicate slot: `p0` is no destination (R85). -/
def setPred (t : Strand) (i : Nat) (v : Bool) : Strand := if i = 0 then t else { t with p := setBit16 t.p i v }

/-- The predicates as a packet reads them: bit 0 is true. -/
def predsOf (t : Strand) : BitVec 16 := t.p ||| 1

/-- A vector source: `v0` to `v47`, then the latches `x0` to `x15` (R71). -/
def vecOf (t : Strand) (n : Nat) : Vec := if n < 48 then t.v.getD n 0 else t.x.getD (n - 48) 0

/-- A lane mask. -/
def maskOf (t : Strand) (i : Nat) : Mask := t.k.getD i 0

/-- A vector stream's entries, oldest first. -/
def streamOf (t : Strand) (q : Nat) : List Word := t.q.getD q []

/-- One register write of a landing result. A vector register or latch that is written is good again (R450). -/
def writeReg (t : Strand) (w : RegWr) : Strand :=
  match w with
  | .s r v => setSreg t r v
  | .p r v => setPred t r v
  | .v r x => { t with v := t.v.put r x, vbad := wordsWritten t.vbad 48 [r] }
  | .x r x => { t with x := t.x.put r x, vbad := wordsWritten t.vbad 48 [48 + r] }
  | .k r x => { t with k := t.k.put r x }

/-- The register writes of a landing result, in order. -/
def writeRegs (t : Strand) (ws : List RegWr) : Strand := ws.foldl writeReg t

/-- The vector registers and latches among the writes of a result. -/
def vecWritesOf (ws : List RegWr) : List Nat :=
  ws.filterMap (fun w => match w with | .v r _ => some r | .x r _ => some (48 + r) | _ => none)

/-- Failing words of vector registers of bank `b` that can be rebuilt are (R380), and are counted (R385). -/
def rebuildVec (s : State) (b : Nat) (us : List Nat) : State :=
  let t := strandOf s b
  let ws := (failsIn t.vbad us).filter (fun e => !wordDead t.vbad 48 e)
  countInner (setStrand s b { t with vbad := t.vbad.filter (fun e => !(ws.any (fun x => x.1 == e.1))) }) (2 ^ 32 + 2 * bankRow b) ws.length

/-- Flags are sticky: a raised flag stays until cleared (R51). The hub kc tells which were raised last. -/
def raiseFlags (hkc : Nat) (t : Strand) (f : BitVec 8) : Strand :=
  if f = 0 then t
  else { t with aflags := t.aflags ||| f, fresh := if t.freshAt = hkc then t.fresh ||| f else f, freshAt := hkc }

/-- The registers of a strand at its first start, or at a restart or resume from a snapshot (R86, R118, R204, R205, R262):
`s1` to `s7` are given, the held-token set, the cards, the snapshot, `ckret` and the pending interrupts stay. -/
def atStart (t : Strand) (cp : Nat) (regs : List Dword) : Strand :=
  { t with
    cp := cp,
    s := ((List.range 7).zip regs).foldl (fun m e => m.put (e.1 + 1) e.2) [],
    p := 1, aflags := 0, fresh := 0, freshAt := 0, aen := 0, vrm := 0, seed := 0, serial := 0, vftz := false, ie := false, trap := false,
    shot := false, cksyn := 0, cktol := cktolReset, v := [], x := [], k := [], q := [], loops := [], chans := [], frame := none,
    wait := [], fences := [], realign := none, badPar := 0, badChk := 0, vbad := [] }

/-- The strand's snapshot: the one its last node packet wrote, or its start (R452). -/
def restartPoint (t : Strand) (start : List Dword) : Nat × List Dword × Option Nat :=
  match t.snap with
  | some sn => (sn.cp, sn.regs, some sn.kc)
  | none => (0, start, none)

/-- `s1` to `s7` as they read now (R112). -/
def nodeRegs (t : Strand) : List Dword := (List.range 7).map (fun i => sreg t (i + 1))

end Sys2Proof.Machine
end

