-- ==== Sys2Proof/Machine/Life.lean ====
section
/-! DEFINITION. The life of groups, kernels and queues as faults, yields and completion change it: freezes and their ends (R343),
phase cancels (R307, R382, R383), leaving the rows (R309 to R311), fault domains (R312), and the completing of kernels (R331,
R332). -/

namespace Sys2Proof.Machine

/-- The state with the little-endian bytes of a number stored at a global physical address of this package. -/
def putMem (s : State) (pa n x : Nat) : State := storeBytes s (paLocal pa) (leBytes n x)

/-- The code of a queue state (R313). -/
def queueCode (q : QueueState) : Nat :=
  match q with
  | .disabled => 0 | .idle => 1 | .held => 2 | .fenced => 3 | .suspended => 4 | .stopped => 5

/-- A queue record replaced, with the state and `ci` that the hub writes to its block (R313, R314). -/
def putQueue (s : State) (q : Nat) (x : Queue) : State :=
  putMem (putMem (setQueue s q x) (x.blk + 75) 1 (queueCode x.st)) (x.blk + 88) 8 x.ci

/-- The address of packet number `i` of a queue (R314). -/
def packetAddr (x : Queue) (i : Nat) : Nat := x.ring + 64 * (i % 2 ^ x.k)

/-- Stopping a queue, with its record (R322, R454). -/
def stopQueue (s : State) (q reason sel cause chk : Nat) : State :=
  let x := queueOf s q
  let tag := leNat (fetchBytes s (paLocal (packetAddr x x.ci) + 4) 4)
  logRec (putQueue s q { x with st := .stopped, since := none }) 6 3 tag x.ctx
    (q + reason * 2 ^ 8 + sel * 2 ^ 11 + cause * 2 ^ 16 + chk * 2 ^ 24 + x.ci % 2 ^ 32 * 2 ^ 32) none

/-- The code of a group state (R346). -/
def groupCode (g : GroupState) : Nat :=
  match g with
  | .pending => 0 | .placing => 1 | .running => 2 | .frozen => 3 | .yielding => 4 | .yielded => 5 | .retired => 6 | .killed => 7

/-- The address of a group's block in its context's save pool (R305). -/
def blockAddr (s : State) (g : Nat) : Nat := (contextOf s (groupOf s g).ctx).pool + (groupOf s g).inst * 135168

/-- `n` bytes of zero: reserved fields (R3). -/
def zeros (n : Nat) : List Byte := List.replicate n 0

/-- The 256 bytes of a group block (R300, R305) whose kernel block lies at `kblk`: it inherits every field. -/
def blockBytes (x : Group) (kblk : Nat) : List Byte :=
  leBytes 8 (4 + x.ctx * 2 ^ 32) ++ leBytes 8 kblk ++ zeros 48 ++ leBytes 8 kblk ++ leBytes 6 (x.gidx + x.gidy * 2 ^ 16 + x.gidz * 2 ^ 32) ++
    leBytes 1 (groupCode x.st) ++ zeros 1 ++ leBytes 4 x.placed ++ leBytes 2 x.ckret.toNat ++ zeros 2 ++
    ((List.range 4).map (fun i => match x.hist[i]? with | some e => leBytes 4 (e.1 + e.2 % 2 ^ 22 * 2 ^ 10) | none => zeros 4)).flatten ++
    leBytes 8 (x.ydcount % 2 ^ 32 + x.yreq.toNat * 2 ^ 32) ++ zeros 144

/-- The group block as the hub keeps it in the save pool (R300, R305). -/
def writeBlock (s : State) (g : Nat) : State :=
  storeBytes s (paLocal (blockAddr s g)) (blockBytes (groupOf s g) (kernelOf s (groupOf s g).kern).blk)

/-- A group's state changed, in the hub's record and in its block (R346). -/
def setGroupState (s : State) (g : Nat) (st : GroupState) : State :=
  writeBlock (setGroup s g { groupOf s g with st := st }) g

/-- The 16 bytes of a held-token entry in a save record (R305): its base is a global physical address of the token's home package. -/
def heldBytes (h : HeldTok) : List Byte :=
  leBytes 4 h.id ++ leBytes 5 ((bitsOf h.id 28 4 * 2 ^ 48 + h.base) / 4096) ++ leBytes 1 h.size ++
    leBytes 6 ((match h.mode with | .own => 1 | .share => 2 | .lentOut => 3) + (if h.dirty then 4 else 0))

/-- A strand's save record in the save pool (R305). -/
def writeSave (s : State) (g gstack grow : Nat) (r : SaveRec) : State :=
  let a := blockAddr s g + 4096 + (gstack * 16 + grow) * 1024
  let sn := match r.snap with
    | some x => leBytes 8 x.cp ++ (x.regs.map (fun d => leBytes 8 d.toNat)).flatten
    | none => leBytes 64 0
  let held := ((List.range 16).map (fun i => match r.held[i]? with | some h => heldBytes h | none => leBytes 16 0)).flatten
  let cards := ((List.range 4).map (fun i => r.cards.getD i (leBytes 128 0))).flatten
  let kc := leBytes 8 (match r.snap with | some x => x.kc | none => 0)
  storeBytes s (paLocal a) (sn ++ held ++ cards ++ kc ++ zeros 184)

/-- The frame in which a zone counts as standing now: in the frame gap, the next one (R338). -/
def frameNow (x : Stack) : Nat := if Config.frameKc ≤ x.f then x.frameN + 1 else x.frameN

/-- A strand that a freeze stops (R83): a running one. Strands that wait, are ready or run their handler keep their state. -/
def freezeStrand (t : Strand) : Strand :=
  match t.st with
  | .running => { t with st := .frozen, prev := .running }
  | _ => t

/-- A strand that a freeze releases (R83); one that stands at its node for a shoot-down stands on (R287). -/
def thawStrand (t : Strand) : Strand :=
  match t.st with
  | .frozen => if t.shot then t else { t with st := t.prev }
  | _ => t

/-- Every strand of a group in a zone changed by `f`. -/
def mapStrands (s : State) (g z : Nat) (f : Strand → Strand) : State :=
  { s with banks := s.banks.map (fun e => if e.2.grp = g ∧ e.2.st ≠ .unloaded ∧ bankStack e.1 = z then (e.1, f e.2) else e) }

/-- An arrival over a stack edge or through the hub, or from another strand's engine (R181, R263, R451). -/
def isLanding (e : Timed) : Bool :=
  match e.pay with
  | .ev (.chainPartialArrival _) => true
  | .ev (.messageArrival _) => true
  | .ev (.handoffArrival _) => true
  | _ => false

/-- Arrivals at a zone in which kernel time stops land during the freeze (R182, R264, R343). -/
def landFrozen (s : State) (g z : Nat) : State :=
  let kc := (gzone (groupOf s g) z).kc
  { s with agenda := s.agenda.map (fun e =>
      if isLanding e && decide (e.clk = .kern g z) then { e with clk := .zone z, at_ := (stackOf s z).zkc + (e.at_ - kc) } else e) }

/-- Kernel time of a group stops in a zone (R343, R345). -/
def stopZone (s : State) (g z : Nat) : State :=
  let x := groupOf s g
  let gz := gzone x z
  let gz1 := if gz.go then { gz with go := false, stopN := frameNow (stackOf s z), stopH := s.hkc, resN := none } else { gz with resN := none }
  mapStrands (setGroup (if gz.go then landFrozen s g z else s) g (setGzone x gz1)) g z freezeStrand

/-- A freeze begins in zone `z` (R343): that zone stops now, and the hub's notice goes to every other zone of the group. -/
def freezeGroup (s : State) (g z : Nat) (why : StopFor) : State :=
  let x := groupOf s g
  let s1 := setGroup s g { x with stops := why :: x.stops, zones := x.zones.map (fun y => { y with resN := none }) }
  let s2 := if x.st = .running then setGroupState s1 g .frozen else s1
  let s3 := stopZone s2 g z
  (x.zones.filter (fun y => y.z ≠ z)).foldl
    (fun st y => if y.go then post st .hub (st.hkc + lam st z 8 + lam st 8 y.z) 0 0 0 { Ctx.none with grp := g } (.stop g y.z) else st) s3

/-- A list without the first of its elements equal to `a`. -/
def eraseStop (l : List StopFor) (a : StopFor) : List StopFor :=
  match l with
  | [] => []
  | x :: t => if x = a then t else x :: eraseStop t a

/-- One cause of a freeze ends in zone `z` (R343, R368): with the last, the hub releases the group. -/
def endStop (s : State) (g z : Nat) (why : StopFor) : State :=
  let x := groupOf s g
  let rest := eraseStop x.stops why
  if !x.stops.contains why then s
  else
    let s1 := setGroup s g { x with stops := rest }
    if rest = [] then
      post s1 .hub (s1.hkc + lam s1 z 8) 0 0 0 { Ctx.none with grp := g, pkc := s1.hkc + lam s1 z 8 } (.ev (.freezeRelease g))
    else s1

/-- An agenda entry that belongs to a group. -/
def ofGroup (s : State) (g : Nat) (e : Timed) : Bool :=
  (match e.clk with | .kern h _ => h == g | _ => false) || (banksOf s g).any (fun b => ofBank b e) ||
    (match e.pay with
     | .stop h _ => h == g
     | .leave h => h == g
     | .ev (.freezeRelease h) => h == g
     | .ev (.phaseRestart h) => h == g
     | .ev (.realignRelease h) => h == g
     | .ev (.realignStop h _) => h == g
     | .ev (.yieldDeadlineExpiry h) => h == g
     | .ev (.yieldRequestArm h _ _) => h == g
     | .ev (.chainPartialArrival p) => p.grp == g
     | .ev (.messageArrival m) => m.grp == g
     | _ => false)

/-- The entry carries a hand-off that has not reached its H (R310). -/
def pendingHandoff (e : Timed) : Option Handoff :=
  match e.pay with
  | .ev (.handoffRelease h) => some h
  | _ => none

/-- A hand-off that did not reach its H is withdrawn (R310): a share's count drops again, and the giver keeps its entry. -/
def withdraw (s : State) (h : Handoff) : State :=
  match h.kind with
  | .share =>
    let i := tokKey s h.tok
    let t := tokenOf s i
    setToken s i { t with shares := t.shares - 1, st := if t.st = .shared ∧ t.shares ≤ 1 then .owned else t.st }
  | _ => s

/-- The rows that a group holds, as physical row numbers of the package: a group off its rows has none. -/
def groupRows (g : Group) : List Nat :=
  if g.zones.isEmpty then [] else
  ((List.range g.rS).map (fun a => (List.range g.rR).map (fun r => placeRow g a r))).flatten

/-- A hand-off to a job: the job that it goes with runs on (R273, R310). -/
def jobHandoff (e : Timed) : Bool :=
  match pendingHandoff e with
  | some h => decide (agKind h.target = 1)
  | none => false

/-- An entry stands on the hub's clock from now on, belonging to no bank. -/
def onHub (s : State) (e : Timed) : Timed := { e with clk := .hub, at_ := s.hkc + (e.at_ - timeOf s e.clk), ctx := Ctx.none }

/-- What reaches a group, or leaves it with a job, though its kernel time does not run on: hand-offs that arrive (R451), and, unless the group
is killed, those to its jobs (R310). -/
def outlasts (s : State) (g : Nat) (e : Timed) : Bool :=
  ofGroup s g e && ((match e.pay with | .ev (.handoffArrival _) => true | _ => false) || (jobHandoff e && (groupOf s g).st != .killed))

/-- Those entries on the hub's clock. -/
def keepArrivals (s : State) (g : Nat) : State := { s with agenda := s.agenda.map (fun e => if outlasts s g e then onHub s e else e) }

/-- A share that a live job of an agent carries (R268): it stays leaving until the job completes. -/
def carriedShare (s : State) (agent : Nat) (h : HeldTok) : Bool :=
  h.mode == .share && s.jobs.any (fun j => decide (j.2.submitter = agent) && j.2.toks.any (fun x => x.mode == .share && decide (x.id = h.id)))

/-- What a group has in flight is discarded (R307, R309, R310): no write that has not performed remains, hand-offs short of
their H are withdrawn, and frames in use are discarded. -/
def discardFlight (s0 : State) (g : Nat) : State :=
  let s := keepArrivals s0 g
  let x := groupOf s g
  let offs := (s.agenda.filter (ofGroup s g)).filterMap pendingHandoff
  let jobs := (s.agenda.filter jobHandoff).filterMap pendingHandoff
  let request (e : Timed) : Bool := match e.pay with | .ev (.yieldRequestArm _ _ _) => true | _ => false
  let s1 := offs.foldl withdraw (dropEntries s (fun e => ofGroup s g e && !request e))
  let s2 := (banksOf s1 g).foldl (fun st b =>
    let t := strandOf st b
    setStrand st b { t with frame := none, trap := false, wait := [], realign := none, shot := false,
                            held := t.held.map (fun h => { h with leaving := h.leaving && (jobs.any (fun o => o.tok == h.id) || carriedShare s (bankAgent s b) h) }) }) s1
  (groupRows x).foldl (fun st r =>
    let rw := rowOf st r
    let mine (c : Ctx) : Bool := decide (c.grp = g)
    setRow st r { rw with mq := rw.mq.filter (fun q => !mine q.ctx), bq := rw.bq.filter (fun q => !mine q.ctx),
                          macros := rw.macros.filter (fun m => !mine m.2.ctx),
                          res := MRes.idle, divBusy := 0, xBusy := 0 }) s2

/-- Tiles go clear, creel buffers empty, the edge buffers empty, and the drain-mode entry returns to RNE in the rows of a group
(R169, R184, R189, R214). -/
def clearRows (s : State) (g : Nat) : State :=
  (groupRows (groupOf s g)).foldl (fun st r => setRow st r
    { rowOf st r with tiles := [], creels := [], edge := [], arrBad := [], mmMode := 0, mmSeed := 0, mmBase := 0 }) s

/-- The placement token of a group goes free (R223). -/
def freePlacement (s : State) (g : Nat) : State :=
  let x := groupOf s g
  let i := tokKey s x.ptok
  if x.ptok = 0 then s
  else setGroup (setToken s i { Token.free with gen := nextTokGen (tokenOf s i).gen }) g { x with ptok := 0 }

/-- Kernel `k` has a group placed on stack `z` besides group `g`. -/
def kernelOn (s : State) (k z g : Nat) : Bool :=
  s.groups.any (fun e => e.1 != g && e.2.kern == k && (groupPlaced e.2 || e.2.st == .placing) && e.2.zones.any (fun y => y.z == z))

/-- What a stack keeps for a group goes: its slots and pool, and its kernel's code and table with the last such group (R155,
R311, R330). -/
def clearStack (s : State) (g z : Nat) : State :=
  let st := stackOf s z
  let k := (groupOf s g).kern
  let st1 := { st with slots := st.slots.filter (fun e => e.1 / 4096 != g), part := st.part.drop g, pool := st.pool.drop g }
  setStack s z (if kernelOn s k z g then st1 else { st1 with tables := st1.tables.drop k, images := st1.images.drop k })

/-- The slots of a group anew (R151, R152, R155): the first hold its kernel's images with generation 1, and the others are free. -/
def freshSlots (imgs : List ShapeImg) (g : Nat) (m : Sparse Slot) : Sparse Slot :=
  ((List.range imgs.length).zip imgs).foldl (fun m e => m.put (slotKey g e.1) { live := true, gen := 1, img := e.2, defAt := none })
    (m.filter (fun e => e.1 / 4096 != g))

/-- A group's shape partition and token pool in a stack (R151, R155, R233; step 4 of R330). -/
def loadSlots (s : State) (g k z : Nat) : State :=
  let kn := kernelOf s k
  let st := stackOf s z
  setStack s z { st with part := st.part.put g kn.bud.shape, pool := st.pool.put g kn.bud.tok, slots := freshSlots kn.shapes g st.slots }

/-- The other bank of a row. -/
def otherBank (b : Nat) : Nat := if b % 2 = 0 then b + 1 else b - 1

/-- A time of one clock on another, by what the two show now: a time that has passed is 0. -/
def moveTime (old new t : Nat) : Nat := if t ≤ old then 0 else new + (t - old)

/-- The engine resources of a row, from the kernel time of one group to that of another. -/
def moveRes (old new : Nat) (m : MRes) : MRes :=
  let f := moveTime old new
  let hold (h : Hold) : Hold := { h with from_ := f h.from_, upto := f h.upto }
  { issue := f m.issue, loader := f m.loader, array := f m.array, port := f m.port, bfree := f m.bfree, issueNow := f m.issueNow,
    loaderNow := f m.loaderNow, arrayNow := f m.arrayNow, portNow := f m.portNow, loads := m.loads.map hold, holds := m.holds.map hold,
    bufs := m.bufs.map (fun e => (e.1, { e.2 with full := e.2.full.map f, rel := f e.2.rel })),
    tiles := m.tiles.map (fun e => (e.1, { e.2 with done := f e.2.done, port := f e.2.port, clr := f e.2.clr, rerun := f e.2.rerun })) }

/-- A strand whose bank runs no more is ready again (R82). -/
def standBy (t : Strand) : Strand :=
  match t.st with
  | .running => { t with st := .ready }
  | .frozen => if t.prev = .running then { t with prev := .ready } else t
  | _ => t

/-- The core runs bank `b` from now on: its first packet issues 4 kc later (R92). DEDUCED: where the switch does not fall in the kc of the other
bank's last packet, the 4 kc count from the switch (log entry 112). -/
def switchTo (s : State) (b : Nat) : State :=
  let r := bankRow b
  let x := rowOf s r
  let o := otherBank b
  let old := bankKc s o
  let new := bankKc s b
  let s1 := match Sparse.find s.banks o with
    | some t => setStrand s o (standBy t)
    | none => s
  setRow s1 r { x with run := b % 2, runFrom := (stackOf s (bankStack b)).zkc + 4, res := moveRes old new x.res,
                       divBusy := moveTime old new x.divBusy, xBusy := moveTime old new x.xBusy }

/-- The strand in bank `b` reached a node boundary or a fault: a banked-out strand whose page is resident takes the core
back (R92). -/
def offerCore (s : State) (b : Nat) : State :=
  let o := otherBank b
  let t := strandOf s o
  if t.st = .bankedOut ∧ t.prev = .ready then postHub s 0 (.bankedOutReturn o) else s

/-- The strand in bank `b` completed, yielded or left: the other bank takes the core if it holds a strand (R92). -/
def giveCore (s : State) (b : Nat) : State :=
  let o := otherBank b
  let t := strandOf s o
  if (rowOf s (bankRow b)).run ≠ b % 2 then s
  else match t.st with
    | .unloaded => s
    | .done => s
    | .yielded => s
    | .failed => s
    | .bankedOut => offerCore s b
    | _ => switchTo s o

/-- A row pair with no group left in paired mode leaves it (R337). -/
def unpair (s : State) (r : Nat) : State :=
  let a := r / 2 * 2
  let free (x : Nat) : Bool := (strandOf s (2 * x)).st == .unloaded && (strandOf s (2 * x + 1)).st == .unloaded
  if free a && free (a + 1) then
    let s1 := setRow s a { rowOf s a with paired := false }
    setRow s1 (a + 1) { rowOf s1 (a + 1) with paired := false }
  else s

/-- A strand of a kernel that declares V, M or B words lies in a bank of the row (R124, R328). -/
def arrayUsed (s : State) (r : Nat) : Bool :=
  [2 * r, 2 * r + 1].any (fun b => (strandOf s b).st != .unloaded &&
    (let k := kernelOf s (groupOf s (strandOf s b).grp).kern; k.usev || k.usem || k.useb))

/-- The hub requests gating of a row that no such strand uses (R124, R328). -/
def requestGate (s : State) (r : Nat) : State :=
  if (rowOf s r).pwr = .on ∧ !arrayUsed s r then post s .hub s.hkc 0 0 0 { Ctx.none with arg := r } (.ev .gateRequest) else s

/-- A bank that its group has left (R83): its registers keep their values until it is loaded again. -/
def emptied (t : Strand) : Strand :=
  { Strand.empty with grp := t.grp, gstack := t.gstack, grow := t.grow, s := t.s, p := t.p, v := t.v, x := t.x, k := t.k, aflags := t.aflags,
                      fresh := t.fresh, freshAt := t.freshAt, vbad := t.vbad }

/-- Every line leaves a core's data cache (R225). -/
def evictRow (s : State) (r : Nat) : State := (rowOf s r).dcache.keys.foldl (fun st l => evictLine st r l) s

/-- The banks of a group go to unloaded (R83), and the rows, slots, code and tables it held are released (R311, R330). A later
placement pass follows (R329). DESIGN CHOICE: the lines of its cores' data caches are evicted then, so that no strand misses its own stores, or
finds an old line, at its next placement (log entry 144). -/
def releaseRows (s : State) (g : Nat) : State :=
  let x := groupOf s g
  let bs := banksOf s g
  let s1 := bs.foldl (fun st b => giveCore st b) ((groupRows x).foldl evictRow s)
  let s2 := { s1 with banks := s1.banks.map (fun e => if bs.contains e.1 then (e.1, emptied e.2) else e) }
  let s3 := (groupRows x).foldl unpair s2
  let s4 := x.zones.foldl (fun st y => clearStack st g y.z) s3
  let s5 := (groupRows x).foldl requestGate s4
  postHub (freePlacement s5 g) 1 .placeWave

/-- The record that a strand's save takes (R305, R311): the placement token stays behind. -/
def saveOf (t : Strand) : SaveRec :=
  { snap := t.snap, held := t.held.filter (fun h => !h.spad), cards := t.cards }

/-- The saved `ckret` of a group: that of its strand with the most attempts (R206, R208; log entry 10). -/
def groupCkret (s : State) (g : Nat) : BitVec 16 :=
  (banksOf s g).foldl (fun c b =>
    let t := strandOf s b
    if c.toNat % 256 ≤ t.ckret.toNat % 256 then t.ckret else c) 0x0300

/-- The follow-on words of a group that leaves its rows wait for its next placement (R273): off any bank, on the hub's clock. -/
def parkFollowOns (s : State) (g : Nat) : State :=
  (groupRows (groupOf s g)).foldl (fun st r =>
    let x := rowOf st r
    (x.foq.filter (fun q => decide (q.ctx.grp = g))).foldl
      (fun a q => post a .hub (a.hkc + 1) 0 0 0 { q.ctx with bank := 4096 } (.ev (.mQueueIssue r 0)))
      (setRow st r { x with foq := x.foq.filter (fun q => q.ctx.grp != g) })) s

/-- The follow-on words of a group that is cancelled or killed are gone. -/
def dropFollowOns (s : State) (g : Nat) : State :=
  (groupRows (groupOf s g)).foldl (fun st r => setRow st r { rowOf st r with foq := (rowOf st r).foq.filter (fun q => q.ctx.grp != g) }) s

/-- Save records of every strand are written (R306), and the group leaves its rows. -/
def leaveRows (s0 : State) (g : Nat) : State :=
  let s := keepArrivals s0 g
  let x := groupOf s g
  let recs := (banksOf s g).map (fun b => ((strandOf s b).gstack * 16 + (strandOf s b).grow, saveOf (strandOf s b)))
  let s1 := setGroup s g { x with saves := recs.foldl (fun m e => m.put e.1 e.2) x.saves, ckret := groupCkret s g,
                                  yreq := 0, ydReal := [], stops := [], restart := none }
  let s2 := recs.foldl (fun st e => writeSave st g (e.1 / 16) (e.1 % 16) e.2) s1
  let s3 := releaseRows (parkFollowOns (dropEntries s2 (ofGroup s g)) g) g
  setGroup s3 g { groupOf s3 g with zones := [] }

/-- Every strand has yielded, or the deadline forced the group (R309, R346): it leaves its rows. -/
def yieldGroup (s : State) (g : Nat) : State := setGroupState (leaveRows (clearRows s g) g) g .yielded

/-- A group has words of its strands in flight: on the path, in an engine, or with results, accesses or hand-offs to come. -/
def groupBusy (s : State) (g : Nat) : Bool :=
  let bs := banksOf s g
  s.agenda.any (fun e => bs.any (fun b => ofBank b e) && (match e.pay with
    | .fetch _ => false
    | .enter _ _ => false
    | .ev (.looseWaitEnd _) => false
    | .ev (.interruptTaken _) => false
    | .ev (.interruptTimerExpiry _) => false
    | .ev (.orphanMessageTimeout _ _) => false
    | _ => true)) ||
    (groupRows (groupOf s g)).any (fun r =>
      let x := rowOf s r
      (x.mq ++ x.bq).any (fun q => decide (q.ctx.grp = g)) || x.macros.any (fun m => decide (m.2.ctx.grp = g)))

/-- Every strand of a group has yielded (R84, R346): it leaves its rows, where words of it are in flight as soon as they are through (R112).
DEDUCED: see log entry 119. -/
def leaveWhenDone (s : State) (g : Nat) : State :=
  if groupBusy s g then post s .hub (s.hkc + 1) 5 0 0 { Ctx.none with grp := g } (.leave g) else yieldGroup s g

/-- A forced pre-emption (R309, R310): the expired deadline makes the group yielding, and by force it has yielded (R346). -/
def forcePreempt (s : State) (g : Nat) : State := yieldGroup (setGroupState (discardFlight s g) g .yielding) g

/-- The number of groups of a kernel's grid (R317, R329). -/
def kernelTotal (k : Kernel) : Nat := k.gx * k.gy * k.gz

/-- A hand-off that the hub carries out for a kernel or the host: its H is 12 hub kc from now (R321, R332). -/
def hubHandoff (s : State) (kind : HandKind) (tok giver target scope : Nat) : State :=
  post s .hub (s.hkc + 12) 0 0 0 Ctx.none
    (.ev (.handoffRelease { kind := kind, tok := tok, giver := giver, target := target, scope := scope, zone := 8, stamp := s.hkc + 12 }))

/-- A share is released (R232): the count drops, and the token is owned again with the last. The count is kept in the holder's package (R241). -/
def releaseShare (s : State) (i : Nat) : State :=
  let t := tokenOf s i
  if agPkg t.holder ≠ s.dev.pkg then sendNews s (tokId s i) 3 noAgent (agPkg t.holder)
  else setToken s i { t with shares := t.shares - 1, st := if t.st = .shared ∧ t.shares ≤ 1 then .owned else t.st }

/-- What a kernel entering completing does with one token still held (R332). One whose own hand-off stands before its H goes with that,
and one that is lost or orphaned stays so (R226). -/
def disposeHeld (s : State) (k agent : Nat) (h : HeldTok) : State :=
  let kn := kernelOf s k
  let t := tokenOf s (tokKey s h.id)
  let passes := match t.st with | .owned => true | .lent => true | .shared => true | _ => false
  if h.spad ∨ h.leaving ∨ t.gen ≠ tokGen h.id ∨ t.st = .free ∨ (h.mode = .own ∧ !passes) then s
  else match kn.hand.find? (fun e => e.1 == h.id), h.mode with
    | some (_, tgt), .own => hubHandoff s .pass h.id agent tgt 11
    | _, .share => releaseShare s (tokKey s h.id)
    | _, .lentOut => s
    | none, .own =>
      if t.lender ≠ noAgent then hubHandoff s .ret h.id agent t.lender 11
      else hubHandoff s .pass h.id agent (hostAgent s kn.ctx) 11

/-- The groups of a kernel that have a record. -/
def kernelGroups (s : State) (k : Nat) : List Nat := (s.groups.filter (fun e => e.2.kern == k)).map (·.1)

/-- A kernel enters completing (R331, R332): its strands' tokens go their ways, and an entry of the hand-over list that no
strand holds is logged. -/
def startCompleting (s : State) (k : Nat) : State :=
  let kn := kernelOf s k
  let helds := ((kernelGroups s k).map (fun g =>
    ((groupOf s g).saves.map (fun e => e.2.held.map (fun h => (strandAgent s.dev.pkg (groupOf s g) (e.1 / 16) (e.1 % 16), h)))).flatten)).flatten
  let s1 := helds.foldl (fun st e => disposeHeld st k e.1 e.2) s
  let s2 := if kernelTotal kn = 0 then s1
    else kn.hand.foldl (fun st e => if helds.any (fun x => x.2.id == e.1 && x.2.mode == .own) then st else logRec st 6 1 kn.tag kn.ctx e.1 none) s1
  let s3 := setKernel s2 k { kernelOf s2 k with st := .completing, handBy := s.hkc + (if helds.isEmpty then 0 else 12), handed := true }
  postHub s3 0 (.kernelComplete k)

/-- A running kernel whose groups have all ended enters completing (R331). -/
def checkKernel (s : State) (k : Nat) : State :=
  let kn := kernelOf s k
  if kn.st = .running ∧ kernelTotal kn ≤ kn.ended then startCompleting s k else s

/-- A group's strands fail: their tokens go by R239. A group off its rows fails with what its save records hold. -/
def failGroupTokens (s : State) (g : Nat) : State :=
  let x := groupOf s g
  let live := (banksOf s g).map (fun b => (bankAgent s b, (strandOf s b).held))
  let saved := if live.isEmpty then x.saves.map (fun e => (strandAgent s.dev.pkg x (e.1 / 16) (e.1 % 16), e.2.held)) else []
  (live ++ saved).foldl (fun st e => failAgent st e.1 e.2) s

/-- The groups of a list are killed (R312): tokens by R239, block freed, rows released. -/
def killGroups (s : State) (gs : List Nat) : State :=
  let s0 := gs.foldl (fun st g => setGroupState st g .killed) s
  let s1 := gs.foldl (fun st g => discardFlight st g) s0
  let s2 := gs.foldl (fun st g => failGroupTokens st g) s1
  gs.foldl (fun st g =>
    let st1 := releaseRows (dropFollowOns (clearRows st g) g) g
    let x := groupOf st1 g
    let k := kernelOf st1 x.kern
    let st2 := setGroup st1 g { x with saves := [], stops := [], zones := [] }
    setKernel st2 x.kern { k with flt := true, ended := k.ended + 1 }) s2

/-- The groups of a kernel that have not ended. -/
def liveGroups (s : State) (k : Nat) : List Nat :=
  (s.groups.filter (fun e => e.2.kern == k && e.2.st != .retired && e.2.st != .killed)).map (·.1)

/-- Killing kernels (R312, R331): their groups are killed, unplaced groups are dropped, and they enter completing. -/
def killKernels (s : State) (ks : List Nat) : State :=
  let s1 := killGroups s ((ks.map (liveGroups s)).flatten)
  ks.foldl (fun st k =>
    let kn := kernelOf st k
    match kn.st with
    | .complete => st
    | .faulted => st
    | .completing => st
    | _ => startCompleting (setKernel st k { kn with flt := true, nextL := kernelTotal kn, ended := kernelTotal kn }) k) s1

/-- The kernels that a queue or context has going. -/
def liveKernels (s : State) (f : Kernel → Bool) : List Nat :=
  (s.kernels.filter (fun e => f e.2 && e.2.st != .complete && e.2.st != .faulted)).map (·.1)

/-- A queue that a halted context suspends (R322). -/
def suspendQueue (s : State) (q : Nat) : State :=
  let x := queueOf s q
  match x.st with
  | .idle => putQueue s q { x with st := .suspended, since := none }
  | .held => putQueue s q { x with st := .suspended, since := none }
  | .fenced => putQueue s q { x with st := .suspended, since := none }
  | _ => s

/-- A context halts (R304): every group is killed, and its queues stop parsing. -/
def haltContext (s : State) (c : Nat) : State :=
  let s1 := killKernels s (liveKernels s (fun k => k.ctx == c))
  let s2 := setContext s1 c { contextOf s1 c with st := .halted }
  ((s2.queues.filter (fun e => e.2.ctx == c)).map (·.1)).foldl suspendQueue s2

/-- A fatal fault of a group (R312): logged once, by the group that raised it; what is killed follows the effective fault
domain. -/
def fatal (s : State) (g : Nat) (r : FaultRec) : State :=
  let x := groupOf s g
  let k := kernelOf s x.kern
  let s1 := logRec s 2 3 k.tag x.ctx 0 (some r)
  match k.bud.fdom with
  | 0 => checkKernel (killGroups s1 [g]) x.kern
  | 1 => killKernels s1 [x.kern]
  | 2 =>
    let s2 := killKernels s1 (liveKernels s1 (fun y => y.queue == k.queue && y.qlife == k.qlife))
    match (if (queueOf s2 k.queue).life = k.qlife then (queueOf s2 k.queue).st else .disabled) with
    | .idle => stopQueue s2 k.queue 4 0 0 0
    | .held => stopQueue s2 k.queue 4 0 0 0
    | .fenced => stopQueue s2 k.queue 4 0 0 0
    | _ => s2
  | _ => haltContext s1 x.ctx

/-- The group stands frozen, trapped or waiting in a zone (R309). -/
def groupStands (s : State) (g z : Nat) : Bool :=
  !(gzone (groupOf s g) z).go || (banksOf s g).any (fun b => decide (bankStack b = z) &&
    (match (strandOf s b).st with | .frozen => true | .trapped => true | .waiting => true | .bankedOut => true | .halted => true | _ => false))

/-- A group's yield deadline expires in this kc (R309). -/
def expiresNow (s : State) (g : Nat) : Bool :=
  (groupOf s g).yreq.getLsbD 1 && s.agenda.any (fun e => match e.pay with
    | .ev (.yieldDeadlineExpiry h) =>
      h == g && decide (e.at_ ≤ timeOf s e.clk) && (!e.ctx.hand || groupStands s g (bankStack e.ctx.bank))
    | _ => false)

/-- A buffer phase is cancelled (R307, R382): what the group has in flight is discarded, poisoned tiles and emptied creels are
cleared, the kept cards are submitted again, and the strands restart from their snapshots. A fourth cancel in a row without
a `node 1` kills instead (R383). DEDUCED: a strand that the debugger has halted restarts with the others, and its halt ends (log entry 139). With the
expiry of the group's yield deadline in the same kc there is the forced pre-emption alone. -/
def phaseCancel (s : State) (g : Nat) (r : FaultRec) : State :=
  let x := groupOf s g
  if expiresNow s g then forcePreempt s g
  else if 3 ≤ x.cancels then fatal s g { r with cause := 0x32 }
  else
    let s1 := dropFollowOns (clearRows (discardFlight s g) g) g
    let y := groupOf s1 g
    let s2 := setGroup s1 g { y with cancels := y.cancels + 1, stops := [], restart := some 0, withdrawn := false,
                                     zones := y.zones.map (fun z => { z with go := false, resN := none }) }
    let s3 := (banksOf s2 g).foldl (fun st b =>
      let t := strandOf st b
      setStrand st b { t with st := if t.st = .done ∨ t.st = .failed then t.st else .ready, chans := [] }) s2
    postHub ((banksOf s3 g).foldl (fun st b => if (rowOf st (bankRow b)).run = b % 2 then offerCore st b else st) s3) 0 (.phaseRestart g)

/-- The first frame of a zone, from now on, whose kc `f0` is still to come (R452). -/
def frameAhead (st : Stack) (f0 : Nat) : Nat := if st.f < f0 then st.frameN else st.frameN + 1

/-- Kernel time of a group restarts at K0 in every zone (R330, R452): at the first real kc of that frame phase from now on, in the same
frame for every zone. -/
def restartAt (s : State) (g k0 : Nat) : State :=
  let x := groupOf s g
  let n := x.zones.foldl (fun m y => max m (frameAhead (stackOf s y.z) (k0 % Config.frameKc))) 0
  setGroup s g { x with zones := x.zones.map (fun y => { y with kc := k0, go := false, resN := some n }) }

/-- Every strand of a group is done (R84): the group is retired, its rows are released, and its tokens wait for its kernel's
completing. -/
def retireGroup (s0 : State) (g : Nat) : State :=
  let x := groupOf s0 g
  let recs := (banksOf s0 g).map (fun b => ((strandOf s0 b).gstack * 16 + (strandOf s0 b).grow, saveOf (strandOf s0 b)))
  let s := keepArrivals s0 g
  let keep (e : Timed) : Bool :=
    match e.pay with
    | .ev (.accessPerform _) => true
    | .ev (.handoffRelease _) => true
    | .ev (.mQueueIssue _ _) => true
    | .ev (.bQueueIssue _) => true
    | .ev (.resultLand _) => true
    | .word _ => true
    | _ => false
  let s1 := setGroupState (setGroup s g { x with saves := recs.foldl (fun m e => m.put e.1 e.2) [] }) g .retired
  let s2 := dropEntries s1 (fun e => ofGroup s g e && !keep e)
  let s3 := releaseRows s2 g
  let k := kernelOf s3 x.kern
  let s4 := setKernel s3 x.kern { k with ended := k.ended + 1 }
  checkKernel s4 x.kern

/-- Whether every strand of a group has a state that `f` accepts. -/
def allStrands (s : State) (g : Nat) (f : StrandState → Bool) : Bool := (banksOf s g).all (fun b => f (strandOf s b).st)

/-- A halted context opens again (R304, R322): its suspended queues are idle. -/
def reopenContext (s : State) (c : Nat) : State :=
  let s1 := setContext s c { contextOf s c with st := .opened }
  ((s1.queues.filter (fun e => e.2.ctx == c)).map (·.1)).foldl (fun st q =>
    let x := queueOf st q
    if x.st = .suspended then putQueue st q { x with st := .idle, since := none } else st) s1

/-- The group records that nothing needs any more go (R305): ended groups with nothing in flight and no token kept. A killed group's
record stays until its id names a new group, since tokens may still come back to it (R239). -/
def purgeGroups (s : State) : State :=
  { s with groups := s.groups.filter (fun e =>
      !((e.2.st == .retired || (e.2.st == .killed && decide (262144 ≤ e.1))) && e.2.saves.all (fun x => x.2.held.isEmpty) &&
        !(s.agenda.any (ofGroup s e.1)))) }

end Sys2Proof.Machine
end

