-- ==== Sys2Proof/Machine/Late.lean ====
section
/-! DEFINITION. Fault records (R357 to R359), the memory a word's access reaches through the window table captured at its
dispatch (R153, R280), and what the memory side finds when an access performs: residency (R281), uncorrectable data (R375,
R377, R380, R449) and lost regions (R242). -/

namespace Sys2Proof.Machine

/-- The engine that decides which word of a packet is older (R357): C, V, X, M, B, and S behind them, by E value. -/
def engineRank (e : Nat) : Nat :=
  match e with
  | 0 => 0 | 1 => 1 | 3 => 2 | 2 => 3 | 5 => 4 | 4 => 5 | _ => 6

/-- The E value of a word (R56). -/
def wordEng (w : Word) : Nat := bitsOf w.toNat 29 3

/-- A fault record of the word whose context is `c` (R358). -/
def mkRec (s : State) (c : Ctx) (cause opsel addr detail : Nat) (late restartable : Bool) : FaultRec :=
  { pkg := s.dev.pkg, restartable := restartable, late := late, col := 0, row := bankRow c.bank % 16, stack := bankStack c.bank,
    opsel := opsel, eng := wordEng c.word, cause := cause, waddr := c.waddr, pkc := c.pkc, addr := addr, detail := detail }

/-- The word of context `c` is older than the one a record names (R357). -/
def olderThan (c : Ctx) (r : FaultRec) : Bool :=
  decide (c.pkc < r.pkc) ||
    (decide (c.pkc = r.pkc) &&
      (decide (engineRank (wordEng c.word) < engineRank r.eng) ||
        (decide (engineRank (wordEng c.word) = engineRank r.eng) && decide (c.waddr < r.waddr))))

/-- A run of bytes of one page: its virtual and physical address and its length. -/
structure Seg where
  va : Nat
  pa : Nat
  len : Nat
  deriving DecidableEq, Repr

/-- The runs, page by page, that `n` bytes from virtual address `va` reach under a table; `fuel` bounds the pages. A byte that
no entry maps ends the list. -/
def segsOf (tbl : List WEntry) (fuel va n : Nat) : List Seg :=
  match fuel with
  | 0 => []
  | k + 1 =>
    if n = 0 then []
    else match lookup tbl va with
      | none => []
      | some e =>
        let room := weVa e + pageBytes (weSize e) - va
        let m := min n room
        { va := va, pa := physOf e va, len := m } :: segsOf tbl k (va + m) (n - m)

/-- The runs of an access. -/
def accessSegs (c : Ctx) (a : Access) : List Seg :=
  match a.op with
  | .vgather _ _ _ lanes => (lanes.filterMap (fun x => x)).flatMap (fun v => segsOf c.tbl 2 v 4)
  | .frameLoad _ _ => []
  | .frameStore _ => []
  | _ => (a.va :: a.more).flatMap (fun v => segsOf c.tbl 4 v a.len)

/-- The access writes memory. -/
def accessWrites (a : Access) : Bool :=
  match a.op with
  | .store _ => true
  | .vstore _ => true
  | .amo _ _ _ _ => true
  | .step _ _ => a.wr
  | _ => false

/-- The access reads what it reaches. A write of part of a DRAM line reads that line too (R449). -/
def accessReads (a : Access) : Bool :=
  match a.op with
  | .store _ => false
  | .vstore _ => false
  | .step _ _ => !a.wr
  | _ => true

/-- A late 0x32 of the word leaves it to be performed again (R104, R377, R299): C and V loads and stores only. -/
def lateRestartable (c : Ctx) : Bool := decide (wordEng c.word ≤ 1)

/-- What a read of a run finds (R281, R375, R380, R242): the cause, and whether the word can run again. -/
def readFinds (s : State) (ctx : Nat) (re : Bool) (g : Seg) : Option (Nat × Bool) :=
  let a := paLocal g.pa
  if paPkg g.pa ≠ s.dev.pkg then none
  else match pageState s ctx g.va a with
    | .away => some (0x04, true)
    | .moving => some (0x04, true)
    | .poisoned => some (0x32, true)
    | .lost => some (0x0B, false)
    | .resident =>
      match lostAt s g.pa with
      | some _ => some (0x0B, false)
      | none => if runDead s a g.len then some (0x32, re && isDram a) else none

/-- A run with a mask of all its bytes. -/
def wholeRun (g : Seg) : Seg × Nat := (g, 2 ^ g.len - 1)

/-- The part of a byte mask that each of some runs has. -/
def cutMask (l : List Seg) (mask : Nat) : List (Seg × Nat) :=
  match l with
  | [] => []
  | g :: t => (g, mask % 2 ^ g.len) :: cutMask t (mask / 2 ^ g.len)

/-- The runs of an access, each with the mask of the bytes that it writes there, if it writes (R449). -/
def accessPieces (c : Ctx) (a : Access) : List (Seg × Nat) :=
  if a.masks.isEmpty then (accessSegs c a).map wholeRun
  else ((a.va :: a.more).zip a.masks).flatMap (fun v => cutMask (segsOf c.tbl 4 v.1 a.len) v.2)

/-- What a write of a run under a byte mask finds (R281, R449). -/
def writeFinds (s : State) (ctx : Nat) (re : Bool) (g : Seg) (mask : Nat) : Option (Nat × Bool) :=
  let a := paLocal g.pa
  if paPkg g.pa ≠ s.dev.pkg then none
  else match pageState s ctx g.va a with
    | .away => some (0x04, true)
    | .moving => some (0x04, true)
    | .poisoned => some (0x32, true)
    | .lost => some (0x0B, false)
    | .resident =>
      match lostAt s g.pa with
      | some _ => some (0x0B, false)
      | none =>
        if isDram a && (partLines a g.len mask).any (fun l => (lineClass s (64 * l)).1 == .uncorrectable) then some (0x32, re) else none

/-- The first late fault that the runs of an access find, page by page. -/
def segsFind (s : State) (ctx : Nat) (wr rd re : Bool) (l : List (Seg × Nat)) : Option (Nat × Bool × Seg) :=
  l.findSome? (fun g =>
    match (if wr then writeFinds s ctx re g.1 g.2 else none) with
    | some (c, r) => some (c, r, g.1)
    | none => if rd then (readFinds s ctx re g.1).map (fun x => (x.1, x.2, g.1)) else none)

/-- The late fault that an access finds when it performs (R281, R377, R395), as a record of its word. -/
def accessFault (s : State) (c : Ctx) (a : Access) : Option FaultRec :=
  match segsFind s (groupOf s c.grp).ctx (accessWrites a) (accessReads a) (lateRestartable c) (accessPieces c a) with
  | some (cause, re, g) =>
    let line := decide (cause = 0x32) && pageState s (groupOf s c.grp).ctx g.va (paLocal g.pa) == .resident
    some (mkRec s c cause (if line then a.sel else 13) g.va 0 true re)
  | none =>
    match (accessSegs c a).find? (fun g => accessReads a && hostLost s g.pa) with
    | some g => some (mkRec s c 0x32 14 g.va 0 true false)
    | none => none

/-- The kc for which the refresh slot of a cell still holds an access of another than a strand's word to it (R170, R376). -/
def cellLeft (s : State) (c : Nat) : Nat :=
  let f := (stackOf s (c / 128)).f
  if 1952 * (c % 8) ≤ f ∧ f < 1952 * (c % 8) + 256 then 1952 * (c % 8) + 256 - f else 0

/-- The cells that `n` bytes of DRAM from a package-local address lie in. -/
def cellsOf (a n : Nat) : List Nat :=
  if n = 0 then []
  else if a < baseLinear then (List.range (min 1024 ((a + n - 1) / 64 - a / 64 + 1))).map (fun i => (a / 64 + i) % 1024)
  else if isDram a then (List.range ((a + n - 1 - baseLinear) / 0x20000000 - (a - baseLinear) / 0x20000000 + 1)).map (fun i => (a - baseLinear) / 0x20000000 + i)
  else []

/-- The kc for which the refresh slots of their cells hold an access to `n` bytes at a global physical address (R376). -/
def slotLeft (s : State) (pa n : Nat) : Nat :=
  if paPkg pa = s.dev.pkg then (cellsOf (paLocal pa) n).foldl (fun m c => max m (cellLeft s c)) 0 else 0

/-- The uncorrectable lines that a run under a byte mask reads, or writes in part, poison their pages (R286, R449). -/
def poisonPiece (s : State) (rd : Bool) (g : Seg × Nat) : State :=
  let a := paLocal g.1.pa
  if paPkg g.1.pa ≠ s.dev.pkg ∨ !isDram a then s
  else ((if rd then spanLines a g.1.len else partLines a g.1.len g.2).filter (fun l => (lineClass s (64 * l)).1 == .uncorrectable)).foldl
    (fun st l => poisonPage st (homeAddr (64 * l))) s

/-- The runs that an uncorrectable line poisons (R286): the page of each dead run of an access. -/
def poisonSegs (s : State) (l : List Seg) : State :=
  l.foldl (fun st g =>
    let a := paLocal g.pa
    if paPkg g.pa = st.dev.pkg ∧ isDram a ∧ runDead st a g.len then poisonPage st (homeAddr a) else st) s

end Sys2Proof.Machine
end

