-- ==== Sys2Proof/Machine/Pager.lean ====
section
/-! DEFINITION. The pager (R283 to R286): finding a frame or a victim, moving pages between a frame and a backing copy, bounced
lines, and the entries of the locked tables. The layout of the backing table is log entry 11. -/

namespace Sys2Proof.Machine

/-- The offset of a listed byte in a run of package-local addresses, by either DRAM window. -/
def offsetIn (lo n a : Nat) : Option Nat :=
  if lo ≤ a ∧ a < lo + n then some (a - lo)
  else if lo < baseLinear ∧ isDram a then
    let i := interleavedOf a
    if lo ≤ i ∧ i < lo + n then some (i - lo) else none
  else none

/-- What reading a run of package-local bytes whole leaves behind (R375, R380, R385): corrected lines are queued and counted, words that fail are
rebuilt and counted. -/
def readRange (s : State) (a n : Nat) : State :=
  let s1 := s.flips.foldl (fun st e =>
    if (offsetIn a n (64 * e.1)).isSome then
      match (lineDecode e.2).1 with
      | .corrected g => countDram (queueRewrite st (64 * e.1)) (64 * e.1) g
      | _ => st
    else st) s
  s.sramBad.foldl (fun st e => if (offsetIn a n (4 * e.1)).isSome ∧ sramRebuilds st e.1 then countSram { st with sramBad := st.sramBad.drop e.1 } (4 * e.1) else st) s1

/-- A run of package-local bytes is written whole: what it held is gone, and its lines and words are good (R449, R450). -/
def clearRange (s : State) (a n : Nat) : State :=
  let s1 := (s.sramBad.filter (fun e => (offsetIn a n (4 * e.1)).isSome)).foldl (fun st e => sramWritten st e.1) s
  { s1 with mem := s1.mem.filter (fun e => (offsetIn a n e.1).isNone), flips := s1.flips.filter (fun e => (offsetIn a n (64 * e.1)).isNone) }

/-- A run takes what another package's memory holds: outside the machine, and free (log entry 3). -/
def fillOutside (s : State) (dst n : Nat) : State :=
  { writeBytes (clearRange s dst n) dst ((List.range n).map (fun i => Config.freeByte (s.freeCtr + i))) with freeCtr := s.freeCtr + n }

/-- What a copy leaves of the errors in its source: the miscorrected bytes it carries along (R375). -/
def copyErrors (s : State) (src n : Nat) : List (Nat × Byte) :=
  (s.flips.map (fun e =>
    (List.range 64).filterMap (fun i =>
      match offsetIn src n (64 * e.1 + i) with
      | some o => let b := errByte (lineDecode e.2).2 i; if b = 0 then none else some (o, BitVec.ofNat 8 b)
      | none => none))).flatten

/-- Copying `n` bytes between package-local addresses, whatever windows name them: every line written is a fresh codeword. -/
def copyRange (s : State) (src dst n : Nat) : State :=
  let from_ := s.mem.filterMap (fun e => (offsetIn src n e.1).map (fun o => (o, e.2)))
  let errs := copyErrors s src n
  let s1 := clearRange (readRange s src n) dst n
  let s2 := from_.foldl (fun st e => writeByte st (dst + e.1) e.2) s1
  errs.foldl (fun st e => writeByte st (dst + e.1) (readByte st (dst + e.1) ^^^ e.2)) s2

/-- A run of package-local bytes holds data that cannot be read (R375, R380). -/
def rangeDead (s : State) (a n : Nat) : Bool :=
  s.flips.any (fun e => (offsetIn a n (64 * e.1)).isSome && (lineDecode e.2).1 == .uncorrectable) ||
    s.sramBad.any (fun e => decide (a ≤ 4 * e.1) && decide (4 * e.1 < a + n) && sramDead s e.1)

/-- The pages of a run's uncorrectable lines go to poisoned (R286). -/
def poisonRange (s : State) (a n : Nat) : State :=
  s.flips.foldl (fun st e =>
    if (offsetIn a n (64 * e.1)).isSome ∧ (lineDecode e.2).1 = .uncorrectable then poisonPage st (homeAddr (64 * e.1)) else st) s

/-- A word of a run fails its parity and is rebuilt (R380). -/
def rangeRebuilds (s : State) (a n : Nat) : Bool := s.sramBad.any (fun e => (offsetIn a n (4 * e.1)).isSome && sramRebuilds s e.1)

/-- When what carries `rate` bytes a kc has carried `n` more, behind what holds it until hub kc `free` (R20). -/
def carriedAt (now free n rate : Nat) : Nat := if n = 0 then free else max now free + ceilDiv n rate

/-- Bytes pass the host port, inward and outward, and the hub links of stacks, in their turn (R20, R394): the kc until all are through. -/
def carry (s : State) (inward outward : Nat) (hub : List (Nat × Nat)) : Nat × State :=
  let i := carriedAt s.hkc s.dev.portIn inward 128
  let o := carriedAt s.hkc s.dev.portOut outward 128
  let s1 := { s with dev := { s.dev with portIn := i, portOut := o } }
  let used := hub.filter (fun e => e.2 ≠ 0)
  let s2 := used.foldl (fun st e => setStack st e.1 { stackOf st e.1 with linkFree := carriedAt s.hkc (stackOf st e.1).linkFree e.2 256 }) s1
  ((used.map (fun e => (stackOf s2 e.1).linkFree) ++ [if inward = 0 then 0 else i, if outward = 0 then 0 else o]).foldl max s.hkc - s.hkc, s2)

/-- The stacks that `n` bytes at a global physical address lie in, each with how many. -/
def stackShares (s : State) (pa n : Nat) : List (Nat × Nat) :=
  if paPkg pa ≠ s.dev.pkg then []
  else if paLocal pa < baseLinear ∧ 1024 ≤ n then ((List.range 8).filter (stackPresent s)).map (fun z => (z, n / 8))
  else match placeZone (placeOf (paLocal pa)) with
    | 8 => []
    | 9 => []
    | z => [(z, n)]

/-- A move of `n` bytes by the hub (R20, R267, R283): the kc that its ports and links take. -/
def carryMove (s : State) (src dst n : Nat) : Nat × State :=
  carry s (if inHost s src then n else 0) (if inHost s dst then n else 0) (stackShares s src n ++ stackShares s dst n)

/-- The kernels of a context. -/
def ctxKernels (s : State) (c : Nat) : List Nat := (s.kernels.filter (fun e => e.2.ctx == c)).map (·.1)

/-- A table with the entry of the page at `va` changed by `f`. -/
def mapTable (va : Nat) (f : WEntry → WEntry) (l : List WEntry) : List WEntry := l.map (fun e => if weValid e ∧ weVa e = va then f e else e)

/-- Every locked copy's entry of a context's page changed by `f`, and the tables from which the hub locks further copies and translates for the host
(R283). -/
def mapEntries (s : State) (c va : Nat) (f : WEntry → WEntry) : State :=
  let ks := ctxKernels s c
  { s with
    stackTab := s.stackTab.map (fun z => (z.1, { z.2 with tables := z.2.tables.map (fun t => if ks.contains t.1 then (t.1, mapTable va f t.2) else t) }))
    kernels := s.kernels.map (fun k => if k.2.ctx = c then (k.1, { k.2 with table := mapTable va f k.2.table }) else k)
    contexts := s.contexts.map (fun x => if x.1 = c then (x.1, { x.2 with hostTable := mapTable va f x.2.hostTable }) else x) }

/-- An entry with another residence code. -/
def withRes (e : WEntry) (r : Nat) : WEntry :=
  { e with lo := BitVec.ofNat 64 (e.lo.toNat - weRes e * 2 ^ 57 + r * 2 ^ 57) }

/-- An entry that maps its page to another frame, resident. -/
def withFrame (e : WEntry) (pa : Nat) : WEntry := withRes { e with hi := BitVec.ofNat 64 (pa / 4096 * 4096) } 0

/-- The global physical address of a package-local one. -/
def globalOf (s : State) (a : Nat) : Nat := s.dev.pkg * 2 ^ 48 + a

/-- The backing record of the page of entry `i` of a table of a context (R303): its home stack and its backing address. -/
def backingAt (s : State) (c i : Nat) : Nat × Nat :=
  let a := paLocal ((contextOf s c).backing + 16 * i)
  (readNat s a 8 % 8, readNat s (a + 8) 8)

/-- The backing record of the page that covers an address. -/
def backingOf (s : State) (c : Nat) (tbl : List WEntry) (va : Nat) : Nat × Nat := backingAt s c (tbl.findIdx (fun e => weMaps e va))

/-- A frame of `n` bytes at a package-local address is not in use: no page's frame and no locked entry overlaps it.
An interleaved page counts with every 64 KiB of the window that it touches. -/
def frameFree (s : State) (a n : Nat) : Bool :=
  let o := (a - baseLinear) % 0x20000000
  let hit (b m : Nat) : Bool :=
    if b < baseLinear then decide (o < ceilDiv (b + m) 65536 * 64) && decide (b / 65536 * 64 < o + n)
    else decide (b < a + n) && decide (a < b + m)
  !(s.frames.any (fun e => e.2.ctx != 256 && e.2.st != .away && hit e.1 (pageBytes e.2.size))) &&
    !(s.stackTab.any (fun z => z.2.tables.any (fun t => t.2.any (fun e => weValid e && decide (weRes e ≠ 1) && decide (paPkg (wePa e) = s.dev.pkg) &&
        hit (paLocal (wePa e)) (pageBytes (weSize e)))))) &&
    !(s.contexts.any (fun c => c.2.hostTable.any (fun e => weValid e && decide (paPkg (wePa e) = s.dev.pkg) &&
        hit (paLocal (wePa e)) (pageBytes (weSize e)))))

/-- How many frames of a page size a stack's DRAM has; pages larger than a bank's share have none. -/
def stackSlots (size : Nat) : Nat :=
  match size with
  | 0 => 0x1000000
  | 1 => 0x100000
  | 2 => 0x8000
  | 3 => 0x800
  | 4 => 0x80
  | _ => 0

/-- A free frame of a size in a stack, the search starting at a free choice (log entry 3). -/
def findFrame (s : State) (z size : Nat) : Option Nat × State :=
  let n := pageBytes size
  let (r, s1) := freeValue s
  let at_ (i : Nat) : Nat := baseLinear + z * 0x1000000000 + ((r + i) % stackSlots size) * n
  (((firstFrom (fun i => frameFree s (at_ i) n) 0 (stackSlots size))).map at_, s1)

/-- The first block, of a kernel and its ancestors, whose DRAM budget has no room for `n` bytes more of frames (R302): 1 the kernel, 2
its queue, 3 its context; 0 where all have. -/
def dramFull (s : State) (k n : Nat) : Nat :=
  let kn := kernelOf s k
  let full (p : PageFrame → Bool) (lim : Nat) : Bool :=
    decide (lim * 0x100000 < (s.frames.filter (fun e => e.2.ctx == kn.ctx && e.2.given && p e.2)).foldl (fun m e => m + pageBytes e.2.size) n)
  if full (fun f => f.kern == k) kn.bud.dram then 1
  else if full (fun f => (kernelOf s f.kern).queue == kn.queue && (kernelOf s f.kern).qlife == kn.qlife) kn.qbud.dram then 2
  else if full (fun _ => true) (contextOf s kn.ctx).bud.dram then 3
  else 0

/-- A frame lies in the subtree within which the pager evicts (R302): where a budget is full, one that counts against it. -/
def inSubtree (s : State) (k lvl : Nat) (f : PageFrame) : Bool :=
  match lvl with
  | 1 => f.given && f.kern == k
  | 2 => f.given && (kernelOf s f.kern).queue == (kernelOf s k).queue && (kernelOf s f.kern).qlife == (kernelOf s k).qlife
  | 3 => f.given
  | _ => true

/-- Some table maps the frame by an entry with P (R279). -/
def framePinned (s : State) (b : Nat) (f : PageFrame) : Bool :=
  let pins (e : WEntry) : Bool := weValid e && weP e && decide (paPkg (wePa e) = s.dev.pkg) && runHas b (pageBytes f.size) (paLocal (wePa e))
  s.kernels.any (fun k => k.2.st != .complete && k.2.st != .faulted && k.2.table.any pins) || s.contexts.any (fun c => c.2.hostTable.any pins)

/-- The victim of an eviction (R283): resident, not pinned, of the size, not touched by the faulting word, earliest fault-in,
the lower virtual address on a tie. A page with data that cannot be read is not evicted (R286). -/
def victim (s : State) (c k lvl size : Nat) (touched : List Seg) : Option (Nat × PageFrame) :=
  (s.frames.filter (fun e => e.2.ctx == c && inSubtree s k lvl e.2 && decide (e.2.size = size) && e.2.st == .resident && !e.2.pinned && !framePinned s e.1 e.2 && !rangeDead s e.1 (pageBytes size) &&
      !touched.any (fun g => decide (e.2.va ≤ g.va) && decide (g.va < e.2.va + pageBytes e.2.size)))).foldl
    (fun best e => match best with
      | none => some e
      | some b => if e.2.since < b.2.since ∨ (e.2.since = b.2.since ∧ e.2.va < b.2.va) then some e else some b) none

/-- The table in which a context maps an address: that of the first of its kernels that does. -/
def ctxTable (s : State) (c va : Nat) : List WEntry :=
  match (s.kernels.filter (fun e => e.2.ctx == c && (lookup e.2.table va).isSome)).head? with
  | some (_, k) => k.table
  | none => []

/-- The bytes of a 64-byte line, lowest first. -/
def lineBytes (d : BitVec 512) : List Byte := leBytes 64 d.toNat

/-- Bits of a 64-byte line written under a mask (R27, R285). -/
def putBits (s : State) (a : Nat) (data mask : BitVec 512) : State :=
  let old := fetchBytes s a 64
  let new := (List.range 64).map (fun i =>
    let k := BitVec.ofNat 8 (bitsOf mask.toNat (8 * i) 8)
    ((old.getD i 0) &&& ~~~k) ||| (BitVec.ofNat 8 (bitsOf data.toNat (8 * i) 8) &&& k))
  storeMasked s a new ((List.range 64).foldl (fun m i => if bitsOf mask.toNat (8 * i) 8 = 0 then m else m + 2 ^ i) 0)

/-- The bounced lines of a page of `n` bytes are written at an address and released (R285). -/
def applyBounce (s : State) (c va n dst : Nat) : State :=
  let mine (e : Bounced) : Bool := decide (e.ctx = c) && decide (va ≤ e.va) && decide (e.va < va + n)
  let s1 := (s.bounce.filter mine).foldl (fun st e => putBits st (dst + (e.va - va)) e.data e.mask) s
  { s1 with bounce := s1.bounce.filter (fun e => !mine e) }

/-- The pages that a frame holds: of each its context, virtual address and size code. -/
def pagesOf (f : PageFrame) : List (Nat × Nat × Nat) := (f.ctx, f.va, f.size) :: f.others

/-- The bounced lines of a frame's pages are written at an address. -/
def applyBounces (s : State) (f : PageFrame) (dst : Nat) : State :=
  (pagesOf f).foldl (fun st p => applyBounce st p.1 p.2.1 (pageBytes p.2.2) dst) s

/-- The bounced lines of a frame's pages leave with it for another package (R285). -/
def dropBounces (s : State) (f : PageFrame) : State :=
  { s with bounce := s.bounce.filter (fun e => !(pagesOf f).any (fun p => decide (e.ctx = p.1) && decide (p.2.1 ≤ e.va) && decide (e.va < p.2.1 + pageBytes p.2.2))) }

/-- A victim is evicted (R283, R285): its content and its bounced lines go to its backing copy, which may be another package's, and its entries
read away. -/
def evict (s : State) (base : Nat) (f : PageFrame) : State :=
  let pa := (backingAt s f.ctx f.idx).2
  let b := paLocal pa
  let s1 := if paPkg pa = s.dev.pkg then applyBounces (copyRange s base b (pageBytes f.size)) f b else dropBounces s f
  (pagesOf f).foldl (fun st p => mapEntries st p.1 p.2.1 (fun e => withRes e 1)) { s1 with frames := s1.frames.drop base }

/-- The pager's job for the page of window entry `e`, which goes to a frame (R283). -/
def pageJob (c kern : Nat) (e : WEntry) (back frame : Nat) : PageJob :=
  { ctx := c, kern := kern, va := weVa e, size := weSize e, back := back, frame := frame, banks := [], drained := [] }

/-- The frames without those of pages that have gone to the host and whose place a new page takes. -/
def framesBut (s : State) (frame n : Nat) : Sparse PageFrame :=
  s.frames.filter (fun x => !(x.2.st == .away && decide (x.1 < frame + n) && decide (frame < x.1 + pageBytes x.2.size)))

/-- The page of window entry `e`, of index `i` in its table, starts to move into a frame (R283, steps 1 and 2): its entries read moving until its
content is in. -/
def startMove (s : State) (c kern : Nat) (e : WEntry) (i frame : Nat) : State :=
  let n := s.nextPage
  let (r, s1) := freeValue s
  let s2 := { s1 with
    pages := s1.pages.put n (pageJob c kern e (backingAt s c i).2 frame), nextPage := n + 1,
    frames := Sparse.put (framesBut s1 frame (pageBytes (weSize e))) frame
      { PageFrame.of c (weVa e) (weSize e) .moving (weP e) 0 i with given := true, kern := kern } }
  let d := carryMove s2 (backingAt s c i).2 (globalOf s frame) (pageBytes (weSize e))
  postHub (mapEntries d.2 c (weVa e) (fun x => withRes x 2)) (1 + d.1 + r) (.pagerRelease n)

/-- The page lies in a frame already: the pager only makes the entries name it (R283). -/
def startResident (s : State) (c kern : Nat) (e : WEntry) (frame : Nat) : State :=
  let n := s.nextPage
  postHub { s with pages := s.pages.put n (pageJob c kern e 0 frame), nextPage := n + 1 } 1 (.pagerRelease n)

/-- The frame of a page: the free one `a`, else that of the victim `v`, which is evicted (R283); none where there is neither (R284). -/
def frameOr (s : State) (a : Option Nat) (v : Option (Nat × PageFrame)) : Option Nat × State :=
  match a, v with
  | some x, _ => (some x, s)
  | none, some x => (some x.1, evict s x.1 x.2)
  | none, none => (none, s)

/-- The frame that the pager gives a page of window entry `e` (R283): a free one where the budgets have room for it (R302), else a victim's. -/
def giveFrame (s : State) (c kern : Nat) (tbl : List WEntry) (va : Nat) (e : WEntry) (touched : List Seg) : Option Nat × State :=
  let lvl := dramFull s kern (pageBytes (weSize e))
  let f := findFrame s (backingOf s c tbl va).1 (weSize e)
  frameOr f.2 (if lvl = 0 then f.1 else none) (victim f.2 c kern lvl (weSize e) touched)

/-- The pager's work on a page of window entry `e`, of index `i`, that is not moving: with its frame `f` where it has one, else with the frame
that `p` gives it. -/
def pagerMoves (s : State) (c kern : Nat) (e : WEntry) (i : Nat) (f : Option (Nat × PageFrame)) (p : Option Nat × State) : Option Nat × State :=
  match f, p with
  | some x, _ => (some s.nextPage, startResident s c kern e x.1)
  | none, (some a, s1) => (some s1.nextPage, startMove s1 c kern e i a)
  | none, (none, s1) => (none, s1)

/-- The frame that holds a page, unless the page is away. -/
def pageFrame (s : State) (c va : Nat) : Option (Nat × PageFrame) :=
  s.frames.find? (fun x => x.2.st != .away && x.2.st != .moving && holdsPage x.2 c va)

/-- The pager takes a fault on (R283): the job's number, or none where it fails (R284). A fault on a page already moving joins. -/
def pagerStart (s : State) (c kern : Nat) (tbl : List WEntry) (va : Nat) (touched : List Seg) : Option Nat × State :=
  match lookup tbl va with
  | none => (none, s)
  | some e =>
    match s.pages.find? (fun j => j.2.ctx == c && decide (j.2.va = weVa e)) with
    | some j => (some j.1, s)
    | none => pagerMoves s c kern e (tbl.findIdx (fun e => weMaps e va)) (pageFrame s c (weVa e)) (giveFrame s c kern tbl va e touched)

/-- A window table with the page's entry replaced by its new frame. -/
def retable (va pa : Nat) (tbl : List WEntry) : List WEntry :=
  tbl.map (fun e => if weValid e ∧ weVa e = va then withFrame e pa else e)

/-- The words that a bank holds validate against the page's new frame from now on (R283). -/
def retableBank (s : State) (b va pa : Nat) : State :=
  let fix (c : Ctx) : Ctx := if c.bank = b then { c with tbl := retable va pa c.tbl } else c
  let r := rowOf s (bankRow b)
  let r1 := { r with mq := r.mq.map (fun q => { q with ctx := fix q.ctx }), bq := r.bq.map (fun q => { q with ctx := fix q.ctx }),
                     macros := r.macros.map (fun m => (m.1, { m.2 with ctx := fix m.2.ctx })) }
  setRow { s with agenda := s.agenda.map (fun e => { e with ctx := fix e.ctx }) } (bankRow b) r1

/-- The content of a moving page reaches its frame (R283, steps 3 and 4); one whose backing copy cannot be read is poisoned there (R286). -/
def fillFrame (s : State) (j : PageJob) (f : PageFrame) : State :=
  let src := paLocal j.back
  let n := pageBytes j.size
  let here := decide (paPkg j.back = s.dev.pkg)
  let dead := here && rangeDead s src n
  let s1 := applyBounce (if here then copyRange s src j.frame n else fillOutside s j.frame n) j.ctx j.va n j.frame
  { s1 with frames := s1.frames.put j.frame { f with st := if dead then .poisoned else .resident, since := s1.hkc } }

/-- The kc for which a refresh slot still holds the move of a page (R376). -/
def moveHeld (s : State) (j : PageJob) : Nat :=
  match Sparse.find s.frames j.frame with
  | some f => if f.st = .moving then max (slotLeft s j.back (pageBytes j.size)) (slotLeft s (globalOf s j.frame) (pageBytes j.size)) else 0
  | none => 0

/-- The pager has brought the page in (R283, steps 3 to 5): its content, the bounced lines, and every locked entry. -/
def pageIn (s : State) (j : PageJob) : State :=
  match Sparse.find s.frames j.frame with
  | none => s
  | some f =>
    let s1 := if f.st = .moving then fillFrame s j f else s
    let s2 := mapEntries s1 j.ctx j.va (fun e => withFrame e (globalOf s j.frame))
    (j.banks ++ j.drained).foldl (fun st b => retableBank st b j.va (globalOf s j.frame)) s2

/-- An entry with X cleared. -/
def withoutX (e : WEntry) : WEntry := { e with lo := e.lo &&& ~~~(8#64) }

/-- An entry whose page is away in host memory: X is lost (R289). -/
def toHost (e : WEntry) : WEntry := withoutX (withRes e 1)

/-- The host tables' entries of a frame's pages changed by `f`: they name the content where it lies (R289). -/
def moveHostEntries (s : State) (p : PageFrame) (f : WEntry → WEntry) : State :=
  (pagesOf p).foldl (fun st x =>
    let c := contextOf st x.1
    if c.hostTable.any (fun e => weValid e && decide (weVa e = x.2.1)) then setContext st x.1 { c with hostTable := mapTable x.2.1 f c.hostTable } else st) s

/-- A frame whose content has gone: it holds no page (R281). -/
def PageFrame.left (f : PageFrame) : PageFrame := { f with ctx := 257, others := [], toward := none, st := .away, given := false }

/-- The content of a frame goes where an offline moves it, and its record with it (R289): to another frame, from which it may be to move on, or to
host memory, where the page is away and the bounced lines follow it (R285). -/
def finishMove (s : State) (src dst : Nat) (f : PageFrame) : State :=
  let n := pageBytes f.size
  let dead := rangeDead s src n
  let on_ := match Sparse.find s.frames dst with | some x => x.toward | none => none
  let s1 := copyRange s src dst n
  if isDram dst then
    moveHostEntries { s1 with frames := (s1.frames.put src f.left).put dst { f with toward := on_, st := if dead ∧ f.st = .resident then .poisoned else f.st } } f
      (fun e => withFrame e (globalOf s dst))
  else moveHostEntries (applyBounces { s1 with frames := s1.frames.put src { f with toward := none, st := .away, given := false } } f dst) f toHost

/-- A shoot-down's change of an entry is made: where an offline moves the page's frame, its content moves now (R287, R289). -/
def moveWith (s : State) (c : Nat) (old : WEntry) : State :=
  match frameAt s (paLocal (wePa old)) with
  | some (b, f) => (match f.toward with | some d => if holdsPage f c (weVa old) then finishMove s b d f else s | none => s)
  | none => s

end Sys2Proof.Machine
end

