-- ==== Sys2Proof/Machine/Ops.lean ====
section
/-! DEFINITION. The named operations of the control core: results that land later (R53, R63), taking an exception and returning
from one (R356 to R368), the pager's part in a fault (R283, R369), and the ends and stops of a strand (R83, R109, R112). -/

namespace Sys2Proof.Machine

/-- A result of the executing word that lands `d` kc from now, with its flags (R53). -/
def landLater (s : State) (d : Nat) (k : LandKind) (flags : BitVec 8) : State :=
  later s d 0 (engineRank (wordEng s.cur.word)) (.resultLand { kind := k, flags := flags })

/-- A scalar result of the executing word that lands `d` kc from now. -/
def scalarLater (s : State) (d r : Nat) (v : Dword) : State := landLater s d (.regs [.s r v]) 0

/-- The strand of the executing word. -/
def curStrand (s : State) : Strand := strandOf s s.cur.bank

/-- The guard of the executing word's encoding (R57), as its packet read it. -/
def guardOn (s : State) (g : BitVec 4) : Bool := decide (g.toNat = 0) || s.cur.preds.getLsbD g.toNat

/-- A guarded word: guarded off, it has no effect (R57). -/
def runWord (s : State) (g : BitVec 4) (body : State → State) : Host.Outcome State Fault Refusal :=
  if guardOn s g then .next (body s) else .next s

/-- The code image's handler (R361): the offset of its first header, if the trailer declares one. -/
def handlerOf (s : State) (b : Nat) : Option Nat :=
  let z := bankStack b
  let k := (bankGroup s b).kern
  match Sparse.find (stackOf s z).images k with
  | none => none
  | some im =>
    if im.size < 8 then none
    else
      let o := imageWord s z k (im.size - 4)
      if imageWord s z k (im.size - 8) = 0xDE000000 ∧ o % 4 = 0 ∧ o < im.size - 8 then some o else none

/-- The destination field of a word, by its engine's format (R69 to R72); 0 where it has none. DEDUCED: `tksplit` and `tkjoin` name two destinations,
of which their first stands in the record (log entry 148). -/
def destField (w : Word) : Nat :=
  let x := w.toNat
  let op := bitsOf x 20 5
  match wordEng w with
  | 0 => bitsOf x 14 5
  | 1 => bitsOf x 13 6
  | 2 => bitsOf x 17 2
  | 3 => if bitsOf x 19 6 = 4 ∨ bitsOf x 19 6 = 5 then bitsOf x 9 5 else 0
  | 4 =>
    if op = 5 ∨ op = 6 then bitsOf x 15 5
    else if op = 7 ∨ op = 8 ∨ op = 0xD ∨ (op = 0xA ∧ bitsOf x 0 6 = 1) then bitsOf x 10 5 else 0
  | 5 => bitsOf x 4 5
  | _ => 0

/-- The step class of a checked drain's comparison: a drain held there is to be issued again (R420). -/
def compareClass : Nat := 9

/-- The kind of a hold record (R367) and its step position and flags. An M or B word is in transit until the kc, `arg` of its context,
at which it reaches its engine. -/
def holdKind (e : Timed) (f : Nat) : Nat × Nat × Nat :=
  match e.pay with
  | .word _ => (1, 0, 0)
  | .ev (.resultLand l) => (2, 0, l.flags.toNat)
  | .ev (.accessPerform a) => (match a.op with | .step _ k => if stepCls k = compareClass then (4, 0, 0) else (5, stepIdx k, 0) | _ => (3, 0, 0))
  | .ev (.mQueueIssue _ _) => (if f < e.ctx.arg then 1 else 4, 0, 0)
  | .ev (.bQueueIssue _) => (if f < e.ctx.arg then 1 else 4, 0, 0)
  | _ => (2, 0, 0)

/-- A hold record (R367). -/
def holdRecord (kind unit eng dest waddr at_ step flags : Nat) : List Byte :=
  leBytes 4 waddr ++ leBytes 1 kind ++ leBytes 1 (unit * 8 + eng) ++ leBytes 1 dest ++ leBytes 1 0 ++ leBytes 8 at_ ++
    leBytes 8 step ++ leBytes 8 flags

/-- The order of hold records: by kc, then by the age of the word (R366). -/
def holdBefore (a b : Timed) : Bool :=
  decide (a.at_ < b.at_) ||
    (decide (a.at_ = b.at_) &&
      (decide (a.ctx.pkc < b.ctx.pkc) ||
        (decide (a.ctx.pkc = b.ctx.pkc) &&
          (decide (engineRank (wordEng a.ctx.word) < engineRank (wordEng b.ctx.word)) ||
            (decide (engineRank (wordEng a.ctx.word) = engineRank (wordEng b.ctx.word)) && decide (a.ctx.waddr ≤ b.ctx.waddr))))))

/-- Insertion into the list of held operations. -/
def holdInsert (e : Timed) (l : List Timed) : List Timed :=
  match l with
  | [] => [e]
  | x :: t => if holdBefore e x then e :: x :: t else x :: holdInsert e t

/-- The macro word whose step an entry is. -/
def stepOf (e : Timed) : Option Nat :=
  match e.pay with
  | .ev (.accessPerform a) => (match a.op with | .step id _ => some id | _ => none)
  | _ => none

/-- Of a macro word's steps only the next stands in the list. -/
def nextSteps (seen : List Nat) (l : List Timed) : List Timed :=
  match l with
  | [] => []
  | e :: t =>
    match stepOf e with
    | some id => if seen.contains id then nextSteps seen t else e :: nextSteps (id :: seen) t
    | none => e :: nextSteps seen t

/-- An entry of the agenda is an operation of a word (R364): fetches, and what only the strand itself waits for, are none. -/
def isOp (e : Timed) : Bool :=
  match e.pay with
  | .fetch _ => false
  | .enter _ _ => false
  | .ev (.looseWaitEnd _) => false
  | .ev (.interruptTaken _) => false
  | .ev (.interruptTimerExpiry _) => false
  | .ev (.orphanMessageTimeout _ _) => false
  | _ => true

/-- The operations of bank `b` that are not complete (R364), in order; a word in an engine's queue stands there with its issue kc. -/
def heldOps (s : State) (b : Nat) : List Timed :=
  nextSteps [] ((s.agenda.filter (fun e => ofBank b e && !e.ctx.hand && isOp e)).foldl (fun l e => holdInsert e l) [])

/-- The bytes of the hold records of a freeze at `f`: 224 at most, the list ended by a record of kind 0 (R366). -/
def holdBytes (s : State) (b f : Nat) (dropped : Option Nat) : List Byte :=
  (((heldOps s b).map (fun e =>
    let k := holdKind e f
    holdRecord (if dropped = some e.seq then 6 else k.1) (if k.1 = 2 then e.ctx.unit else 0) (wordEng e.ctx.word) (destField e.ctx.word)
      e.ctx.waddr e.at_ k.2.1 k.2.2)).take 224).flatten

/-- `status` as it reads (R88). -/
def statusOf (s : State) (b : Nat) : Dword :=
  let t := strandOf s b
  let g := bankGroup s b
  BitVec.ofNat 64 ((if (kernelOf s g.kern).drainsafe then 512 else 0) + (if g.paired && decide (g.win = 1) then 256 else 0) +
    (if g.paired then 128 else 0) + g.mode % 4 * 16 + (if t.vftz then 8 else 0) + (if t.ie then 4 else 0) +
    (if t.trap then 2 else 0) + b % 2)

/-- Bytes at an offset of a sparse image: zeros are not listed. -/
def placeBytes (m : Sparse Byte) (o : Nat) (bs : List Byte) : Sparse Byte :=
  match bs with
  | [] => m
  | b :: t => placeBytes (if b = 0 then m.drop o else m.put o b) (o + 1) t

/-- `n` bytes at an offset of a sparse image, as a number. -/
def imageNat (m : Sparse Byte) (o n : Nat) : Nat := leNat ((List.range n).map (fun i => m.getD (o + i) 0))

/-- The bytes of a trap frame at entry (R366). -/
def frameImage (s : State) (b : Nat) (r : FaultRec) (f n : Nat) (dropped : Option Nat) : Sparse Byte :=
  let t := strandOf s b
  let m0 := placeBytes [] 0 (frecBytes r ++ leBytes 8 t.cp ++ leBytes 8 n ++ leBytes 8 f ++ leBytes 8 (statusOf s b).toNat)
  let m1 := placeBytes m0 64 (((List.range 31).map (fun i => leBytes 8 (sreg t (i + 1)).toNat)).flatten)
  let m2 := placeBytes m1 312 (leBytes 2 (predsOf t).toNat)
  let m3 := t.k.foldl (fun m e => placeBytes m (320 + 16 * e.1) (leBytes 16 e.2.toNat)) m2
  let m4 := placeBytes m3 448 ((t.loops.reverse.map (fun l => leBytes 8 l.start ++ leBytes 8 l.stop ++ leBytes 8 l.left)).flatten)
  let m5 := placeBytes m4 544 (leBytes 1 t.loops.length)
  let m6 := placeBytes m5 552 (leBytes 8 t.aflags.toNat ++ leBytes 8 t.aen.toNat ++ leBytes 8 t.vrm.toNat ++ leBytes 4 t.seed.toNat ++ leBytes 4 t.serial.toNat ++
    leBytes 8 t.cksyn.toNat ++ leBytes 8 t.ckret.toNat ++ (t.cktol.map (fun c => leBytes 8 c.toNat)).flatten)
  let m7 := t.x.foldl (fun m e => placeBytes m (1024 + 512 * e.1) (leBytes 512 e.2.toNat)) m6
  placeBytes m7 9216 (holdBytes s b f dropped)

/-- A frame byte is one that the handler may write (R366): reserved bytes stay zero (R3). -/
def frameWritable (o : Nat) : Bool :=
  (decide (32 ≤ o) && decide (o < 40)) || (decide (64 ≤ o) && decide (o < 314)) || (decide (320 ≤ o) && decide (o < 448)) ||
    decide (o = 552) || decide (o = 560) || decide (o = 568) || (decide (576 ≤ o) && decide (o < 584)) || decide (o = 592) || decide (o = 593) ||
    (decide (600 ≤ o) && decide (o < 648) && decide (o % 8 < 2)) || (decide (1024 ≤ o) && decide (o < 9216))

/-- A handler's write of a byte of its frame (R363): fields marked RO ignore it; of the status byte only `vftz` and `ie`
change; a register's field written makes its parity good (R371). -/
def framePut (f : Frame) (o : Nat) (b : Byte) : Frame :=
  if o = 56 then
    let old := f.bytes.getD 56 0
    { f with bytes := placeBytes f.bytes 56 [(old &&& 0xF3) ||| (b &&& 0x0C)] }
  else if frameWritable o then
    let i := if 64 ≤ o ∧ o < 312 then (o - 64) / 8 + 1 else 0
    { f with bytes := placeBytes f.bytes o [if o = 568 then b &&& 7 else b],
             bad := if i = 0 then f.bad else f.bad &&& ~~~(1#32 <<< i), badChk := if i = 0 then f.badChk else f.badChk &&& ~~~(1#32 <<< i) }
  else f

/-- A handler's write of several bytes. -/
def framePuts (f : Frame) (o : Nat) (bs : List Byte) : Frame :=
  match bs with
  | [] => f
  | b :: t => framePuts (framePut f o b) (o + 1) t

/-- The stack-SRAM address of a bank's frame, as `frame` reads it (R89, R366). -/
def frameBase (s : State) (b : Nat) : Nat :=
  globalOf s (baseSram + bankStack b * 0x800000 + Config.frameSlot (b % 32) % 1046529 * 8)

/-- The rounding mode that a write of `vrm` leaves (R48): an unassigned value, or one that the part lacks, leaves the field as
it was. -/
def vrmWrite (s : State) (old : BitVec 3) (x : Nat) : BitVec 3 :=
  let m := x % 8
  if m ≤ 3 ∨ (m = 4 ∧ s.part.srh) then BitVec.ofNat 3 m else old

/-- The registers restored from a frame by `rett` (R366, R368). -/
def restoreFrame (s : State) (t : Strand) (f : Frame) : Strand :=
  let m := f.bytes
  let st := m.getD 56 0
  { t with
    s := (List.range 31).foldl (fun a i => a.put (i + 1) (BitVec.ofNat 64 (imageNat m (64 + 8 * i) 8))) [],
    p := BitVec.ofNat 16 (imageNat m 312 2) ||| 1,
    k := (List.range 8).foldl (fun a i => a.put i (BitVec.ofNat 128 (imageNat m (320 + 16 * i) 16))) [],
    x := (List.range 16).foldl (fun a i => a.put i (BitVec.ofNat 4096 (imageNat m (1024 + 512 * i) 512))) [],
    aflags := BitVec.ofNat 8 (imageNat m 552 1), aen := BitVec.ofNat 8 (imageNat m 560 1),
    vrm := vrmWrite s t.vrm (imageNat m 568 8), seed := BitVec.ofNat 32 (imageNat m 576 4),
    serial := BitVec.ofNat 32 (imageNat m 580 4),
    ckret := BitVec.ofNat 16 (imageNat m 592 1 + imageNat m 593 1 * 256),
    cktol := (List.range 6).map (fun i => BitVec.ofNat 16 (imageNat m (600 + 8 * i) 2)),
    vftz := st.getLsbD 3, ie := st.getLsbD 2, trap := false, loops := f.loops, frame := none, wait := f.wait, fences := f.fences,
    badPar := f.bad, badChk := f.badChk }

/-- The kc N at which the strand's next packet is scheduled (R364): that of its fetch, or F where none waits. -/
def nextIssue (s : State) (b f : Nat) : Nat :=
  match s.agenda.find? (fun e => (match e.pay with | .fetch x => x == b | _ => false) && !e.ctx.hand) with
  | some e => if e.at_ < f then f else e.at_
  | none => f

/-- What the trap window finds (R365): the oldest held access of bank `b` that performs from F to F + 5, belongs to a word
older than the cause, and finds its page not resident or a DRAM line uncorrectable. -/
def probe (s : State) (b f : Nat) (r : FaultRec) : Option (Timed × FaultRec) :=
  let hits := (s.agenda.filter (fun e => ofBank b e && !e.ctx.hand && decide (f ≤ e.at_) && decide (e.at_ ≤ f + 5) &&
      (r.cause == 0x28 || olderThan e.ctx r))).filterMap (fun e =>
    match e.pay with
    | .ev (.accessPerform a) =>
      (match accessFault s e.ctx a with
       | some x => if x.cause = 0x04 ∨ ((accessSegs e.ctx a).all (fun g => isDram (paLocal g.pa))) then some (e, x) else none
       | none => none)
    | _ => none)
  hits.foldl (fun best e => match best with
    | none => some e
    | some x => if olderThan e.1.ctx x.2 then some e else some x) none

/-- A page fault of the strand in bank `b` takes drain semantics (R369). -/
def drains (s : State) (b : Nat) : Bool :=
  let r := rowOf s (bankRow b)
  timedMode (bankGroup s b) && (strandOf s (otherBank b)).st == .ready && !(r.mq ++ r.bq).any (fun q => decide (q.ctx.bank = b)) &&
    !r.macros.any (fun m => decide (m.2.ctx.bank = b))

/-- The strand's operations in flight finish at once (R369): every one but the faulting access is due now, on the hub's clock. -/
def drainOps (s : State) (b : Nat) (seq : Option Nat) : State :=
  { s with agenda := s.agenda.map (fun e =>
      if ofBank b e && decide (some e.seq ≠ seq) && (match e.pay with
          | .word _ => true | .ev (.resultLand _) => true | .ev (.accessPerform _) => true | .ev (.handoffRelease _) => true | _ => false) then
        { e with clk := .hub, at_ := s.hkc, ctx := { e.ctx with drain := true } }
      else e) }

/-- The lines of the operands that a word names by handles (R283): it touches them all. -/
def operandSegs (c : Ctx) : List Seg := c.recs.flatMap (fun r => (recLines r).map (fun l => { va := 64 * l, pa := 0, len := 64 }))

/-- The pager takes the fault of bank `b` (R283): under freeze semantics the freeze ends when the page is in (R365); under drain
semantics the core goes to its other bank, and the group waits until the strand is let back in (R369). Where the pager fails, the
fault domain takes 0x0A (R284). A page fault that the window's probe puts in another cause's place (`recast`) takes freeze semantics in any case
(R365). -/
def pagerFreeze (s : State) (b : Nat) (c : Ctx) (touched : List Seg) (r : FaultRec) (seq : Option Nat) (recast : Bool) : State :=
  let g := (strandOf s b).grp
  let dr := drains s b && !recast
  match pagerStart s (groupOf s g).ctx (groupOf s g).kern c.tbl r.addr (touched ++ operandSegs c) with
  | (some j, s1) =>
    (match Sparse.find s1.pages j with
     | some p =>
       if dr then
         let s2 := drainOps { s1 with pages := s1.pages.put j { p with drained := b :: p.drained } } b seq
         let s3 := setStrand s2 b { strandOf s2 b with st := .bankedOut, prev := .waiting }
         freezeGroup (switchTo s3 (otherBank b)) g (bankStack b) .pager
       else offerCore (freezeGroup { s1 with pages := s1.pages.put j { p with banks := b :: p.banks } } g (bankStack b) .pager) b
     | none => s1)
  | (none, s1) => fatal s1 g { r with cause := 0x0A, restartable := false, addr := match lookup c.tbl r.addr with | some e => weVa e | none => r.addr }

/-- Entering the handler (R362 to R366): the group freezes at F, the frame is written, the queues rest in it, and the handler's
first packet issues 6 kc of the zone's clock later. `dropped` is the entry of a word that `rett` does not carry out again. -/
def enterHandler (s : State) (b h : Nat) (r : FaultRec) (f : Nat) (dropped : Option Nat) : State :=
  let z := bankStack b
  let g := (strandOf s b).grp
  let img := frameImage s b r f (nextIssue s b f) dropped
  let n := nextIssue s b f
  let s1 := freezeGroup s g z .trap
  let rw := rowOf s1 (bankRow b)
  let mine (q : QWord) : Bool := q.job.isNone
  let t := strandOf s1 b
  let fr : Frame :=
    { bytes := img, frec := r, f := f, n := n, cp := t.cp, loops := t.loops, retries := 0, bad := t.badPar, badChk := t.badChk,
      prev := if t.st = .frozen then t.prev else t.st, wait := t.wait, mq := rw.mq.filter mine, bq := rw.bq, res := rw.res,
      divBusy := rw.divBusy, xBusy := rw.xBusy, fences := t.fences }
  let s2 := setStrand s1 b { t with frame := some fr, trap := true, st := .trapped, cp := h, wait := [], loops := [], fences := [],
                                    vbad := t.vbad.filter (fun e => decide (e.1 / 128 < 128)) }
  let s3 := setRow s2 (bankRow b) { rw with mq := rw.mq.filter (fun q => !mine q), bq := [], res := MRes.idle,
                                            divBusy := 0, xBusy := 0 }
  let s4 := match dropped with
    | some q => dropEntries s3 (fun e => decide (e.seq = q))
    | none => s3
  let s5 := post s4 (.zone z) ((stackOf s4 z).zkc + 6) 1 (bankRow b) 0 { Ctx.none with bank := b, grp := g, hand := true } (.fetch b)
  offerCore s5 b

/-- A tile fault that its group may not retry any more (R207). -/
def retrySpent (t : Strand) (r : FaultRec) : Bool :=
  (r.cause == 0x18 || r.cause == 0x19) && decide (t.ckret.toNat / 256 ≤ t.ckret.toNat % 256)

/-- A fault record goes to the log (R360). -/
def logFault (s : State) (b sev : Nat) (det : Nat) (r : FaultRec) : State :=
  logRec s 2 sev (bankKernel s b).tag (bankGroup s b).ctx det (some r)

/-- The detail of an uncorrectable DRAM line or SRAM word of a run (R384). -/
def deadDet (s : State) (a n : Nat) : Option Nat :=
  if isDram a then ((spanLines a n).find? (fun l => (lineClass s (64 * l)).1 == .uncorrectable)).map (fun l => dramDet (64 * l))
  else ((wordsOf a n).find? (sramDead s)).map (fun w => globalOf s (4 * w) + 2 ^ 52)

/-- The record of an uncorrectable line or word that a strand's word consumed (R384): its detail beside the fault record. -/
def logDead (s : State) (b : Nat) (touched : List Seg) (r : FaultRec) : State :=
  match touched.findSome? (fun g => deadDet s (paLocal g.pa) g.len) with
  | some d => logFault s b 2 d r
  | none => s

/-- TAKING AN EXCEPTION. The strand in bank `b` takes the fault, service call or interrupt that record `r` names, at freeze kc
`f` (R356, R362 to R365): `c` and `touched` are the faulting word's context and accesses, `seq` its agenda entry if it is a late
fault. A fault in a handler is a double fault (R109); the window's probe may recast the cause (R365); a page fault goes to the
pager (R283); a tile fault goes to the log once (R202, R360); a spent one and a cause without a handler kill the fault domain (R207, R356), but an 0x32 that cannot be
run again or has no handler cancels the phase (R382). -/
def takeException (s : State) (b : Nat) (r0 : FaultRec) (f : Nat) (c0 : Ctx) (touched0 : List Seg) (seq0 : Option Nat) : State :=
  let t := strandOf s b
  if t.trap then fatal s t.grp { r0 with cause := 0x38 }
  else
    let p := probe s b f r0
    let again : State :=
      match p with
      | none => s
      | some _ =>
        if r0.cause = 0x38 then post s (.kern t.grp (bankStack b)) f 0 (bankRow b) 0 { Ctx.none with bank := b, grp := t.grp } (.enter b r0)
        else s
    let r := match p with | some (_, x) => x | none => r0
    let c := match p with | some (e, _) => e.ctx | none => c0
    let touched := match p with
      | some (e, _) => (match e.pay with | .ev (.accessPerform a) => accessSegs e.ctx a | _ => [])
      | none => touched0
    let seq := match p with | some (e, _) => some e.seq | none => seq0
    let kills := decide (3 ≤ (groupOf s t.grp).cancels) && ((handlerOf s b).isNone || !r.restartable)
    let s1 := if r.cause = 0x32 then poisonSegs (if kills then again else logDead again b touched r) touched else again
    if r.cause = 0x04 ∧ r.restartable then pagerFreeze s1 b c touched r seq p.isSome
    else if retrySpent t r then fatal s1 t.grp r
    else
      let s2 := if (r.cause = 0x18 ∨ r.cause = 0x19) ∧ (handlerOf s1 b).isSome then logFault s1 b 2 0 r else s1
      match handlerOf s2 b with
      | none => if r.cause = 0x32 then phaseCancel s2 t.grp r else fatal s2 t.grp r
      | some h =>
        if r.cause = 0x32 ∧ !r.restartable then phaseCancel s2 t.grp r
        else enterHandler s2 b h r f (if r.late ∧ !r.restartable then seq else none)

/-- The strand in bank `b` takes a fault as fatal (R356): in its handler, with its retries spent, or without a handler, where the phase is not
cancelled instead (R382). -/
def takesFatal (s : State) (b : Nat) (r : FaultRec) : Bool :=
  let t := strandOf s b
  t.trap || retrySpent t r || ((handlerOf s b).isNone && r.cause != 0x32)

/-- The record of a job's fault, or of its follow-on word's, that bank `b` is about to take goes to the log (R272); one that it takes as
fatal is logged there. -/
def logJobFault (s : State) (b : Nat) (r : FaultRec) : State :=
  if (strandOf s b).trap then logFault s b 3 0 r else if takesFatal s b r then s else logFault s b 2 0 r

/-- The word of a context is the follow-on word of a job (R192): it has no header, and 1 stands in its place; `seed` and `serial` then hold the job's
agent id and kind (R272). -/
def isFollowOn (c : Ctx) : Bool := decide (c.hdr = 1)

/-- A late fault of the executing event (R8): its entry stands again in the agenda, so that `rett` carries it out again where the
fault is restartable, and drops it where it is not (R368). That of a follow-on word is logged for its job (R272). -/
def lateFault (s0 : State) (ph : Nat) (pay : Pay) (r : FaultRec) (touched : List Seg) : State :=
  let s := if isFollowOn s0.cur then logJobFault s0 s0.cur.bank r else s0
  let s1 := post s (ctxClk s.cur) (now s) ph (bankRow s.cur.bank) (engineRank (wordEng s.cur.word)) s.cur pay
  takeException s1 s.cur.bank r (now s) s.cur touched (some s.seq)

/-- The lowest pending interrupt of a strand that may take one (R370). -/
def dueInterrupt (t : Strand) : Option (Nat × Nat) := if t.ie ∧ !t.trap then t.pend.head? else none

/-- The record of an interrupt (R358): its kc is the freeze kc, and its engine 0. -/
def interruptRec (s : State) (b f sub detail : Nat) : FaultRec :=
  { mkRec s { Ctx.none with bank := b, waddr := (strandOf s b).cp, pkc := f } 0x28 0 (sub * 2 ^ 32 + detail % 2 ^ 32) 0 false true with eng := 0 }

/-- An interrupt is taken (R370, R364): its bit clears unless the window's probe puts a fault of an older word in its place
(R365). -/
def takeInterrupt (s : State) (b f : Nat) : State :=
  let t := strandOf s b
  match dueInterrupt t with
  | none => s
  | some (sub, detail) =>
    let r := interruptRec s b f sub detail
    match probe s b f r with
    | some _ => takeException s b r f Ctx.none [] none
    | none => takeException (setStrand s b { t with pend := t.pend.drop sub }) b r f Ctx.none [] none

/-- The entries of a bank's handler that are not complete (R368). -/
def handlerBusy (s : State) (b : Nat) : Bool :=
  s.agenda.any (fun e => ofBank b e && e.ctx.hand && (match e.pay with | .fetch _ => false | _ => true)) ||
    (let r := rowOf s (bankRow b)
     r.mq.any (fun q => decide (q.ctx.bank = b) && q.ctx.hand) || r.bq.any (fun q => decide (q.ctx.bank = b) && q.ctx.hand) ||
       r.macros.any (fun m => decide (m.2.ctx.bank = b) && m.2.ctx.hand))

/-- The engine resources that a strand takes back at `rett` (R362): buffers and tiles stand as the handler's words leave them, at
once. -/
def mergeRes (old hand : MRes) : MRes :=
  { old with
    bufs := hand.bufs.foldl (fun m e => m.put e.1 { e.2 with full := e.2.full.map (fun _ => 0), rel := 0 }) old.bufs,
    tiles := hand.tiles.foldl (fun m e =>
      let d := match Sparse.find old.tiles e.1 with | some x => (x.done, x.port) | none => (0, 0)
      m.put e.1 { e.2 with done := d.1, port := d.2, clr := 0, rerun := 0 }) old.tiles }

/-- A held operation whose data fail the word parity of the hold buffer comes to nothing (R379, R380): its word takes 0x32 in its place. -/
def spoilHeld (s : State) (b : Nat) : State :=
  let t := strandOf s b
  let l := ((heldOps s b).zipIdx.filter (fun e => !(failsIn t.vbad [128 + e.2]).isEmpty)).map (·.1)
  let ids := l.filterMap stepOf
  let r := rowOf s (bankRow b)
  if l.isEmpty then s
  else
    { setRow (setStrand s b { t with vbad := t.vbad.filter (fun e => decide (e.1 / 128 < 128)) }) (bankRow b)
        { r with macros := r.macros.map (fun m => if ids.contains m.1 then (m.1, { m.2 with dead := true }) else m) } with
      agenda := s.agenda.map (fun e => if l.any (fun x => x.seq == e.seq) then { e with pay := .enter b (mkRec s e.ctx 0x32 0 0 0 true false) } else e) }

/-- RETURNING FROM AN EXCEPTION (R368): the frame is restored, `status.trap` clears, the strand ends its part in the freeze, and
a pending interrupt is taken at F. A frame whose cp reads all ones, or whose cause is 0x32 and cannot be run again, cancels the
phase instead (R382). A changed cp issues at F + 3 + its idle. -/
def returnFrom (s : State) (b : Nat) (idleOf : Nat → Nat) : State :=
  let t := strandOf s b
  match t.frame with
  | none => s
  | some f =>
    let cp := imageNat f.bytes 32 8
    let g := t.grp
    let z := bankStack b
    if cp = 2 ^ 64 - 1 ∨ (f.frec.cause = 0x32 ∧ !f.frec.restartable) then phaseCancel s g f.frec
    else
      let t0 := restoreFrame s t f
      let t1 := if cp = f.cp then { t0 with cp := cp, st := if f.prev = StrandState.running then StrandState.frozen else f.prev, prev := f.prev }
        else { t0 with cp := cp, st := .frozen, prev := .running, wait := t0.wait.filter (fun w => w != .issue) }
      let t2 := { t1 with ckret := BitVec.ofNat 16 (t1.ckret.toNat / 256 * 256 + min 255 (t1.ckret.toNat % 256 + f.retries)) }
      let s0 := dropLog s b
      let r := rowOf s0 (bankRow b)
      let s1 := setRow (setStrand s0 b t2) (bankRow b)
        { r with mq := f.mq ++ r.mq, bq := f.bq ++ r.bq, res := mergeRes f.res r.res, divBusy := f.divBusy,
                 xBusy := f.xBusy }
      let isFetch (e : Timed) : Bool := match e.pay with | .fetch x => x == b | _ => false
      let s2 :=
        if cp = f.cp then dropEntries s1 (fun e => isFetch e && e.ctx.hand)
        else
          post (dropEntries s1 (fun e => isFetch e || (match e.pay with | .ev (.looseWaitEnd x) => x == b | _ => false))) (.kern g z) (f.f + 3 + idleOf cp) 1 (bankRow b) 0 { Ctx.none with bank := b, grp := g } (.fetch b)
      let s3 := endStop (spoilHeld s2 b) g z .trap
      match dueInterrupt t2 with
      | none => s3
      | some _ => takeInterrupt s3 b f.f

/-- The strand in bank `b` is the recovery strand of its context (R303). -/
def isRecovery (s : State) (b : Nat) : Bool :=
  let t := strandOf s b
  let x := bankGroup s b
  let c := contextOf s x.ctx
  c.recov != noAgent && decide (agCtx c.recov = x.ctx) && decide (agStack c.recov = t.gstack) && decide (agRow c.recov = t.grow) &&
    decide (c.recovk ≠ 0) && decide ((kernelOf s x.kern).blk = c.recovk)

/-- A strand may still reach its next node packet (R287, R288): one that stands there, is halted, runs its handler or waits for a page does not,
nor does one whose group stands for a fault or the debugger. One that a `realign`, or a word that is rebuilt, holds up does. DEDUCED: log entry 32. -/
def canReachNode (s : State) (b : Nat) : Bool :=
  let t := strandOf s b
  let blocked := (groupOf s t.grp).stops.any (fun w => w == .trap || w == .pager || w == .debugger)
  match t.st with
  | .running => !blocked
  | .waiting => !blocked
  | .ready => !blocked
  | .frozen => !blocked && !t.shot
  | _ => false

/-- The shoot-down stop of a group (R287, R343), with zone `z` as the place of the event: once none of its strands can still reach a node packet, it
freezes. DEDUCED: log entry 32. -/
def standForShootdown (s : State) (g z : Nat) : State :=
  let x := groupOf s g
  if (banksOf s g).any (canReachNode s) ∨ x.stops.contains .shootdown ∨ x.zones.isEmpty then s else freezeGroup s g z .shootdown

/-- The strand in bank `b` has come to a stop: with the last of its group, a shoot-down that is pending freezes the group (R114, R287). -/
def standIfStopped (s : State) (b : Nat) : State :=
  let g := (strandOf s b).grp
  if (kernelOf s (groupOf s g).kern).shootWait.isEmpty then s else standForShootdown s g (bankStack b)

/-- The strand in bank `b` ends (R109, R83). With the last strand the group is retired (R84); a recovery strand's end opens its
halted context again (R304). In a frozen group it waits for the release (R346, `settle`). DESIGN CHOICE: a group some of whose strands are done and all others yielded yields (log entry 110). -/
def endStrand (s : State) (b : Nat) : State :=
  let t := strandOf s b
  let g := t.grp
  let x := groupOf s g
  let s1 := setStrand s b { t with st := .done, pend := [] }
  let s2 := dropEntries s1 (fun e => (match e.pay with | .fetch y => y == b | _ => false))
  let s3 := if isRecovery s2 b ∧ (contextOf s2 x.ctx).st = .halted then reopenContext s2 x.ctx else s2
  if (groupOf s3 g).st = .running ∧ allStrands s3 g (fun y => y == .done) then retireGroup s3 g
  else
    let s4 := giveCore s3 b
    if !allStrands s4 g (fun y => y == .done || y == .yielded) then standIfStopped s4 b
    else if (groupOf s4 g).st = .yielding then leaveWhenDone s4 g
    else s4

/-- A group whose last strand ended or yielded while it was frozen, or which the debugger then let go, is retired or leaves its rows when it is
released (R84, R346). -/
def settle (s : State) (g : Nat) : State :=
  match (groupOf s g).st with
  | .running => if allStrands s g (fun y => y == .done) then retireGroup s g else s
  | .yielding => if allStrands s g (fun y => y == .done || y == .yielded) then leaveWhenDone s g else s
  | _ => s

/-- A strand goes to yielded (R112, R309): with the first the group is yielding, and with the last it leaves its rows. DESIGN CHOICE: strands
that are done count with those that have yielded (log entry 110). -/
def yieldStrand (s : State) (b : Nat) : State :=
  let t := strandOf s b
  let g := t.grp
  let s1 := setStrand s b { t with st := .yielded, pend := [] }
  let s2 := dropEntries s1 (fun e => (match e.pay with | .fetch y => y == b | _ => false))
  let s3 := if (groupOf s2 g).st = .running ∨ (groupOf s2 g).st = .frozen then setGroupState s2 g .yielding else s2
  if allStrands s3 g (fun y => y == .done || y == .yielded) then leaveWhenDone s3 g else standIfStopped (giveCore s3 b) b

/-- The node snapshot (R112, R206): `cp` of the next packet, `s1` to `s7` as they read, and the issue kc; `ckret.count` returns
to 0. -/
def writeSnapshot (s : State) (b : Nat) : State :=
  let t := strandOf s b
  setStrand s b { t with snap := some { cp := s.cur.nxt, regs := nodeRegs t, kc := s.cur.pkc },
                         ckret := BitVec.ofNat 16 (t.ckret.toNat / 256 * 256) }

/-- A strand of a kernel whose table has a shoot-down pending in its stack stops after its snapshot (R114, R287): its packets are held, and when
every strand of its group has stopped, the group freezes. -/
def stopForShootdown (s : State) (b : Nat) : State :=
  let t := strandOf s b
  if (kernelOf s (groupOf s t.grp).kern).shootWait.contains (bankStack b) then
    standIfStopped (setStrand s b { t with st := .frozen, prev := .running, shot := true }) b
  else s

end Sys2Proof.Machine
end

