-- ==== Sys2Proof/Machine/Operands.lean ====
section
/-! DEFINITION. The operand forms of the engines: immediates with their prefixes (R60, R94), scalar operands read at issue (R63),
addresses (R71, R103), vector sources and destinations with their latches (R71, R116, R126). -/

namespace Sys2Proof.Machine

/-- A scalar source of a C word, read at issue (R63). -/
def srcS (s : State) (r : BitVec 5) : Dword := sreg (curStrand s) r.toNat

/-- The immediate of a CI word (R60): imm9, or with one prefix 33 bits, or with two 57 bits, sign-extended. -/
def immOf (pre : List (BitVec 24)) (i : BitVec 9) : Dword :=
  match pre with
  | [] => i.signExtend 64
  | [p] => (p ++ i).signExtend 64
  | p :: q :: _ => (p ++ q ++ i).signExtend 64

/-- The immediate of the executing CI word. -/
def curImm (s : State) (i : BitVec 9) : Dword := immOf s.cur.pre i

/-- The trip count of `loopi` (R60, R100). -/
def loopCount (pre : List (BitVec 24)) (n : BitVec 10) : Nat :=
  match pre with
  | [] => n.toNat
  | p :: _ => p.toNat % 2 ^ 23 * 2 ^ 10 + n.toNat

/-- The first prefix of the executing word, 0 without one. -/
def curPre (s : State) : Nat := match s.cur.pre with | [] => 0 | p :: _ => p.toNat

/-- The effective address of a C load or store (R103). -/
def effAddr (base : Dword) (off : BitVec 5) (size : Nat) : Dword := base + BitVec.ofNat 64 (off.toNat * size)

/-- The effective address of `vld` and `vst` (R71): the base and a multiple of 512 bytes. -/
def vecAddr (base : Dword) (off : BitVec 4) : Dword := base + BitVec.ofNat 64 (off.toNat * 512)

/-- A vector source of the executing V word, read at its engine (R119). -/
def srcV (s : State) (r : BitVec 6) : Vec := vecOf (curStrand s) r.toNat

/-- A lane mask named by a six-bit field. -/
def srcK (s : State) (r : BitVec 6) : Mask := maskOf (curStrand s) r.toNat

/-- The latch that a result of the executing V word rotates into (R116): Latch(u, t), t its engine's kc. -/
def latchOf (s : State) : Nat := 4 * s.cur.unit + now s % 4

/-- The destination as a V word reads it (R126): its register, or its own latch when nw is 1. -/
def destV (s : State) (d : BitVec 6) (nw : BitVec 1) : Vec :=
  if nw = 1 then (curStrand s).x.getD (latchOf s) 0 else (curStrand s).v.getD d.toNat 0

/-- The register writes of a vector result (R116). -/
def vecWrites (latch : Nat) (d : BitVec 6) (nw : BitVec 1) (x : Vec) : List RegWr :=
  if nw = 1 then [.x latch x] else [.x latch x, .v d.toNat x]

/-- A vector result of the executing word: it lands in its latch and, unless nw is 1, in its register (R116), with its flags
(R53). -/
def vecLater (s : State) (lat : Nat) (d : BitVec 6) (nw : BitVec 1) (x : Vec) (flags : BitVec 8) : State :=
  landLater s lat (.regs (vecWrites (latchOf s) d nw x)) flags

/-- A lane mask result, 1 kc later (R131, R132). -/
def maskLater (s : State) (d : BitVec 6) (k : Mask) (flags : BitVec 8) : State := landLater s 1 (.regs [.k d.toNat k]) flags

/-- The lanes of a result with the union of their flags. -/
def lanesOf (f : Nat → Nat × BitVec 8) : Vec × BitVec 8 :=
  let r := (List.range 128).map f
  (BitVec.ofNat 4096 (lanesNat (r.map (fun x => BitVec.ofNat 32 x.1))), r.foldl (fun a x => a ||| x.2) 0)

/-- The lanes of a result without flags. -/
def mapLanes (f : Nat → Word) : Vec := ofLanes f

/-- The low and high 16 bits of a lane (R115). -/
def half0 (w : Word) : BitVec 16 := w.extractLsb' 0 16
def half1 (w : Word) : BitVec 16 := w.extractLsb' 16 16

/-- A lane made of two 16-bit elements. -/
def halves (lo hi : Nat) : Nat := lo % 65536 + hi % 65536 * 65536

end Sys2Proof.Machine
end

