-- ==== Sys2Proof/Machine/Alu.lean ====
section
/-! DEFINITION. The integer words of the C engine: register-register and immediate ALU words (R94), multiply and divide (R95), compares
(R96) and predicate logic (R97). A word acts at its issue kc; its result lands later. -/

namespace Sys2Proof.Machine

/-- A register-register ALU word (R94): its result lands 1 kc later. -/
def aluWord (s : State) (g : BitVec 4) (d a b : BitVec 5) (f : Dword → Dword → Dword) : Host.Outcome State Fault Refusal :=
  runWord s g (fun s => scalarLater s 1 d.toNat (f (srcS s a) (srcS s b)))

/-- An immediate ALU word (R94, R60). -/
def aluImm (s : State) (g : BitVec 4) (d a : BitVec 5) (i : BitVec 9) (f : Dword → Dword → Dword) : Host.Outcome State Fault Refusal :=
  runWord s g (fun s => scalarLater s 1 d.toNat (f (srcS s a) (curImm s i)))

/-- The shift count of a register operand (R94). -/
def shiftBy (b : Dword) : Nat := b.toNat % 64

/-- `add`: the sum modulo 2^64 (R94). -/
def execAdd (g : BitVec 4) (d a b : BitVec 5) (s : State) : Host.Outcome State Fault Refusal :=
  aluWord s g d a b (fun a b => a + b)

/-- `sub`: the difference modulo 2^64 (R94). -/
def execSub (g : BitVec 4) (d a b : BitVec 5) (s : State) : Host.Outcome State Fault Refusal :=
  aluWord s g d a b (fun a b => a - b)

/-- `and` (R94). -/
def execAnd (g : BitVec 4) (d a b : BitVec 5) (s : State) : Host.Outcome State Fault Refusal :=
  aluWord s g d a b (fun a b => a &&& b)

/-- `or` (R94). -/
def execOr (g : BitVec 4) (d a b : BitVec 5) (s : State) : Host.Outcome State Fault Refusal :=
  aluWord s g d a b (fun a b => a ||| b)

/-- `xor` (R94). -/
def execXor (g : BitVec 4) (d a b : BitVec 5) (s : State) : Host.Outcome State Fault Refusal :=
  aluWord s g d a b (fun a b => a ^^^ b)

/-- `shl`: left by the low six bits of sb (R94). -/
def execShl (g : BitVec 4) (d a b : BitVec 5) (s : State) : Host.Outcome State Fault Refusal :=
  aluWord s g d a b (fun a b => a <<< shiftBy b)

/-- `shr`: right with zero fill (R94). -/
def execShr (g : BitVec 4) (d a b : BitVec 5) (s : State) : Host.Outcome State Fault Refusal :=
  aluWord s g d a b (fun a b => a >>> shiftBy b)

/-- `shra`: right with sign fill (R94). -/
def execShra (g : BitVec 4) (d a b : BitVec 5) (s : State) : Host.Outcome State Fault Refusal :=
  aluWord s g d a b (fun a b => BitVec.sshiftRight a (shiftBy b))

/-- `min`: the smaller as signed (R94). -/
def execMin (g : BitVec 4) (d a b : BitVec 5) (s : State) : Host.Outcome State Fault Refusal :=
  aluWord s g d a b (fun a b => minSigned a b)

/-- `max`: the larger as signed (R94). -/
def execMax (g : BitVec 4) (d a b : BitVec 5) (s : State) : Host.Outcome State Fault Refusal :=
  aluWord s g d a b (fun a b => maxSigned a b)

/-- `clz`: leading zero bits; 64 for zero (R94). -/
def execClz (g : BitVec 4) (d a : BitVec 5) (s : State) : Host.Outcome State Fault Refusal :=
  aluWord s g d a 0 (fun a _ => leadingZeros a)

/-- `popc`: one bits (R94). -/
def execPopc (g : BitVec 4) (d a : BitVec 5) (s : State) : Host.Outcome State Fault Refusal :=
  aluWord s g d a 0 (fun a _ => onesCount a)

/-- `addi` (R94). -/
def execAddi (g : BitVec 4) (d a : BitVec 5) (i : BitVec 9) (s : State) : Host.Outcome State Fault Refusal :=
  aluImm s g d a i (fun a b => a + b)

/-- `andi` with the sign-extended immediate (R94). -/
def execAndi (g : BitVec 4) (d a : BitVec 5) (i : BitVec 9) (s : State) : Host.Outcome State Fault Refusal :=
  aluImm s g d a i (fun a b => a &&& b)

/-- `ori` (R94). -/
def execOri (g : BitVec 4) (d a : BitVec 5) (i : BitVec 9) (s : State) : Host.Outcome State Fault Refusal :=
  aluImm s g d a i (fun a b => a ||| b)

/-- `xori` (R94). -/
def execXori (g : BitVec 4) (d a : BitVec 5) (i : BitVec 9) (s : State) : Host.Outcome State Fault Refusal :=
  aluImm s g d a i (fun a b => a ^^^ b)

/-- `shli` (R94). -/
def execShli (g : BitVec 4) (d a : BitVec 5) (i : BitVec 9) (s : State) : Host.Outcome State Fault Refusal :=
  aluImm s g d a i (fun a b => a <<< shiftBy b)

/-- `shri` (R94). -/
def execShri (g : BitVec 4) (d a : BitVec 5) (i : BitVec 9) (s : State) : Host.Outcome State Fault Refusal :=
  aluImm s g d a i (fun a b => a >>> shiftBy b)

/-- `shrai` (R94). -/
def execShrai (g : BitVec 4) (d a : BitVec 5) (i : BitVec 9) (s : State) : Host.Outcome State Fault Refusal :=
  aluImm s g d a i (fun a b => BitVec.sshiftRight a (shiftBy b))

/-- The latency of a multiply, 3 kc, and of a divide, 18 kc (R95). -/
def mulLat : Nat := 3
def divLat : Nat := 18

/-- A multiply word (R95): its result lands 3 kc later. -/
def mulWord (s : State) (g : BitVec 4) (d a b : BitVec 5) (f : Dword → Dword → Dword) : Host.Outcome State Fault Refusal :=
  runWord s g (fun s => scalarLater s mulLat d.toNat (f (srcS s a) (srcS s b)))

/-- A divide word (R95): its result and flag land 18 kc later, and the divider is busy until then. -/
def divWord (s : State) (g : BitVec 4) (d a b : BitVec 5) (f : Dword → Dword → Dword × BitVec 8) : Host.Outcome State Fault Refusal :=
  runWord s g (fun s =>
    let r := bankRow s.cur.bank
    let x := f (srcS s a) (srcS s b)
    let s1 := setRow s r { rowOf s r with divBusy := now s + divLat }
    landLater s1 divLat (.regs [.s d.toNat x.1]) x.2)

/-- `mul`: the low 64 bits of the product (R95). -/
def execMul (g : BitVec 4) (d a b : BitVec 5) (s : State) : Host.Outcome State Fault Refusal :=
  mulWord s g d a b (fun a b => a * b)

/-- `mulh`: the high half of the signed product (R95). -/
def execMulh (g : BitVec 4) (d a b : BitVec 5) (s : State) : Host.Outcome State Fault Refusal :=
  mulWord s g d a b (fun a b => mulHigh a b)

/-- `mulhu`: the high half of the unsigned product (R95). -/
def execMulhu (g : BitVec 4) (d a b : BitVec 5) (s : State) : Host.Outcome State Fault Refusal :=
  mulWord s g d a b (fun a b => mulHighU a b)

/-- `div` (R95, R50). -/
def execDiv (g : BitVec 4) (d a b : BitVec 5) (s : State) : Host.Outcome State Fault Refusal :=
  divWord s g d a b divSigned

/-- `divu` (R95, R50). -/
def execDivu (g : BitVec 4) (d a b : BitVec 5) (s : State) : Host.Outcome State Fault Refusal :=
  divWord s g d a b divUnsigned

/-- `rem` (R95, R50). -/
def execRem (g : BitVec 4) (d a b : BitVec 5) (s : State) : Host.Outcome State Fault Refusal :=
  divWord s g d a b remSigned

/-- `remu` (R95, R50). -/
def execRemu (g : BitVec 4) (d a b : BitVec 5) (s : State) : Host.Outcome State Fault Refusal :=
  divWord s g d a b remUnsigned

/-- The predicate pair of a compare (R96): the result and its complement, visible together 1 kc later. -/
def pairLater (s : State) (d : Nat) (r : Bool) : State := landLater s 1 (.regs [.p d r, .p (d + 1) (!r)]) 0

/-- A register compare (R96). -/
def cmpWord (s : State) (g : BitVec 4) (d a b : BitVec 5) (cc : Nat) : Host.Outcome State Fault Refusal :=
  runWord s g (fun s => pairLater s d.toNat (compareRes cc (srcS s a) (srcS s b)))

/-- A compare with an immediate, which is sign-extended first (R96). -/
def cmpImm (s : State) (g : BitVec 4) (d a : BitVec 5) (i : BitVec 9) (cc : Nat) : Host.Outcome State Fault Refusal :=
  runWord s g (fun s => pairLater s d.toNat (compareRes cc (srcS s a) (curImm s i)))

/-- `cmp.eq` (R96). -/
def execCmpEq (g : BitVec 4) (d a b : BitVec 5) (s : State) : Host.Outcome State Fault Refusal :=
  cmpWord s g d a b 0

/-- `cmp.lt` (R96). -/
def execCmpLt (g : BitVec 4) (d a b : BitVec 5) (s : State) : Host.Outcome State Fault Refusal :=
  cmpWord s g d a b 1

/-- `cmp.ltu` (R96). -/
def execCmpLtu (g : BitVec 4) (d a b : BitVec 5) (s : State) : Host.Outcome State Fault Refusal :=
  cmpWord s g d a b 2

/-- `cmp.le` (R96). -/
def execCmpLe (g : BitVec 4) (d a b : BitVec 5) (s : State) : Host.Outcome State Fault Refusal :=
  cmpWord s g d a b 3

/-- `cmp.leu` (R96). -/
def execCmpLeu (g : BitVec 4) (d a b : BitVec 5) (s : State) : Host.Outcome State Fault Refusal :=
  cmpWord s g d a b 4

/-- `cmpi.eq` (R96). -/
def execCmpiEq (g : BitVec 4) (d a : BitVec 5) (i : BitVec 9) (s : State) : Host.Outcome State Fault Refusal :=
  cmpImm s g d a i 0

/-- `cmpi.lt` (R96). -/
def execCmpiLt (g : BitVec 4) (d a : BitVec 5) (i : BitVec 9) (s : State) : Host.Outcome State Fault Refusal :=
  cmpImm s g d a i 1

/-- `cmpi.ltu` (R96). -/
def execCmpiLtu (g : BitVec 4) (d a : BitVec 5) (i : BitVec 9) (s : State) : Host.Outcome State Fault Refusal :=
  cmpImm s g d a i 2

/-- A predicate-logic word (R97): its result is visible 1 kc later. -/
def predWord (s : State) (g : BitVec 4) (d a b : BitVec 5) (f : Bool → Bool → Bool) : Host.Outcome State Fault Refusal :=
  runWord s g (fun s => landLater s 1 (.regs [.p d.toNat (f (predOf (curStrand s) a.toNat) (predOf (curStrand s) b.toNat))]) 0)

/-- `pand` (R97). -/
def execPand (g : BitVec 4) (d a b : BitVec 5) (s : State) : Host.Outcome State Fault Refusal :=
  predWord s g d a b (fun a b => a && b)

/-- `por` (R97). -/
def execPor (g : BitVec 4) (d a b : BitVec 5) (s : State) : Host.Outcome State Fault Refusal :=
  predWord s g d a b (fun a b => a || b)

/-- `pxor` (R97). -/
def execPxor (g : BitVec 4) (d a b : BitVec 5) (s : State) : Host.Outcome State Fault Refusal :=
  predWord s g d a b (fun a b => xor a b)

/-- `pandn`: pa and not pb (R97). -/
def execPandn (g : BitVec 4) (d a b : BitVec 5) (s : State) : Host.Outcome State Fault Refusal :=
  predWord s g d a b (fun a b => a && !b)

end Sys2Proof.Machine
end

