-- ==== Sys2Proof/Machine/Array.lean ====
section
/-! DEFINITION. The arithmetic of the array, the chain and the tile checks, on exact values: elements and blocks (R23 to R30), cell
partials (R31, R194, R195), chain additions (R32, R33), the checksum row (R174), and the comparison of sums (R199 to R201). -/

namespace Sys2Proof.Machine

/-- The value of an element of a block with scale code 127 and a special byte (R24, R26, R29); INT8 as an integer. -/
def elemFv (fmt special x : Nat) : Fv :=
  match fmt with
  | 0 => if x = 8 then fpVal e4m3 special else fpVal e2m1 x
  | 1 => fpVal e4m3 x
  | 2 => fpVal e5m2 x
  | 3 => ofInt (signedOf 8 x) 0
  | 4 => fpVal bf16 x
  | _ => fpVal fp16 x

/-- A value times 2^(b − 127) (R29). -/
def scaleFv (b : Nat) (x : Fv) : Fv :=
  match x with
  | .fin s m e => .fin s m (e + (b : Int) - 127)
  | y => y

/-- The bits of one element in a block. -/
def elemBits (fmt : Nat) : Nat := 512 / fmtElems fmt

/-- Element `k` of a block by its pattern. -/
def elemAt (fmt : Nat) (blk : BitVec 512) (k : Nat) : Nat := bitsOf blk.toNat (elemBits fmt * k) (elemBits fmt)

/-- The values of a block's elements under its header (R29, R30): in a NaN block every element is NaN. -/
def blockVals (fmt : Nat) (blk : BitVec 512) (hdr : Nat) : List Fv :=
  let scale := if fmtHeader fmt then hdr % 256 else 127
  (List.range (fmtElems fmt)).map (fun k =>
    if fmtHeader fmt && scale == 255 then .nan else scaleFv scale (elemFv fmt (hdr / 256 % 256) (elemAt fmt blk k)))

/-- A block made of the pad pattern, whose header has scale 0x7F and special 0x00 (R150). -/
def padBlock (fmt pad : Nat) : BitVec 512 :=
  BitVec.ofNat 512 ((List.range (fmtElems fmt)).foldl (fun acc k => acc + pad % 2 ^ elemBits fmt * 2 ^ (elemBits fmt * k)) 0)

/-- The exact sum of products (R31). -/
def dotFv (xs ys : List Fv) : Fv := (List.zipWith fvMul xs ys).foldl fvAdd (.fin false 0 0)

/-- The INT32 pattern of an exact integer (R33). -/
def intWord (x : Fv) : Word :=
  match x with
  | .fin s m e => BitVec.ofInt 32 (signed s (m * 2 ^ e.toNat))
  | _ => 0

/-- An exact sum as a partial: INT32 modulo 2^32, or one RNE to FP32 with an exact zero as +0 (R31, R33). -/
def partWord (int : Bool) (x : Fv) : Word := if int then intWord x else if isZero x then 0 else rne32 x

/-- The cell partial of two blocks' values (R31). -/
def partialOf (int : Bool) (ws xs : List Fv) : Word := partWord int (dotFv ws xs)

/-- The value of a partial or checksum word: INT32 or FP32. -/
def wordFv (int : Bool) (x : Word) : Fv := if int then ofInt x.toInt 0 else fpVal fp32 x.toNat

/-- A chain or selvedge addition (R32, R33). -/
def chainAdd (int : Bool) (x y : Word) : Word := if int then x + y else addF32 x y

/-- The chain over the cells' partials, from what came over the west edge if anything did (R175). -/
def chainOf (int : Bool) (start : Option Word) (cs : List Word) : Word :=
  match start, cs with
  | some p, _ => cs.foldl (chainAdd int) p
  | none, [] => 0
  | none, c :: t => t.foldl (chainAdd int) c

/-- The checksum-column weights of the 64 blocks of a cell (R194). -/
def wcOf (fmt : Nat) (blocks : List (BitVec 512 × Nat)) : List Word :=
  let vals := blocks.map (fun b => blockVals fmt b.1 b.2)
  (List.range (fmtElems fmt)).map (fun k =>
    partWord (decide (fmt = 3)) ((vals.map (fun v => v.getD k (.fin false 0 0))).foldl fvAdd (.fin false 0 0)))

/-- The checksum row of the activation rows' values (R174): ascending m, each addition rounded with RNE. -/
def checkRow (int : Bool) (n : Nat) (rows : List (List Fv)) : List Fv :=
  (List.range n).map (fun k =>
    match rows.map (fun r => r.getD k (.fin false 0 0)) with
    | [] => .fin false 0 0
    | x :: t =>
      if int then wordFv true (intWord ((x :: t).foldl fvAdd (.fin false 0 0)))
      else t.foldl (fun a y => fpVal fp32 (rne32 (fvAdd a y)).toNat) (fpVal fp32 (rne32 x).toNat))

/-- `a × 2^ea > b × 2^eb` for naturals. -/
def scaledGt (a : Nat) (ea : Int) (b : Nat) (eb : Int) : Bool :=
  let lo := if ea < eb then ea else eb
  decide (b * 2 ^ (eb - lo).toNat < a * 2 ^ (ea - lo).toNat)

/-- The tolerance of a sum of magnitudes (R199), as a number of units and their exponent. -/
def tolOf (tol : BitVec 16) (a : Word) : Nat × Int :=
  let ulps : Nat := tol.toNat % 256
  let floor := signedOf 8 (tol.toNat / 256)
  let ea : Nat := a.toNat / 2 ^ 23 % 256
  let ue : Int := if ea = 0 then -149 else (ea : Int) - 150
  if floor = -128 then (ulps, ue)
  else
    let lo := if ue < floor then ue else floor
    (ulps * 2 ^ (ue - lo).toNat + 2 ^ (floor - lo).toNat, lo)

/-- One line of the comparison (R199 to R201): whether it fails, and whether it is skipped. -/
def lineFails (int : Bool) (tol : BitVec 16) (ys : List Word) (c : Word) : Bool × Bool :=
  if int then
    let s := ys.foldl (· + ·) 0
    (decide (tol.toNat % 256 < (s - c).toInt.natAbs), false)
  else
    let s := ys.foldl addF32 0
    let a := ys.foldl (fun acc y => addF32 acc (y &&& 0x7FFFFFFF)) 0
    if ys.all finite32 && finite32 s && finite32 a && finite32 c then
      match fvAdd (fpVal fp32 s.toNat) (fvNeg (fpVal fp32 c.toNat)) with
      | .fin _ m e => let t := tolOf tol a; (scaledGt m e t.1 t.2, false)
      | _ => (false, true)
    else (false, true)

end Sys2Proof.Machine
end

