-- ==== Sys2Proof/Machine/MPlan.lean ====
section
/-! DEFINITION. The M engine's words as data: their fields (R164, R165), what a product word runs (R160, R161, R173, R175, R178 to
R183), what each word holds (R163, R210), and the kc at which a queued word issues, which is fixed at dispatch (R163, R171,
R185, R191). -/

namespace Sys2Proof.Machine

/-- The fields of an M word (R72, R164). -/
def mOp (w : Word) : Nat := bitsOf w.toNat 19 6
def mTile (w : Word) : Nat := bitsOf w.toNat 17 2
def mFmtBits (w : Word) : Nat := bitsOf w.toNat 4 3
def mBuf (w : Word) : Nat := bitsOf w.toNat 3 1
def mCk (w : Word) : Bool := bitOf w.toNat 2
def mAcc (w : Word) : Bool := bitOf w.toNat 1
def mZ (w : Word) : Bool := bitOf w.toNat 0

/-- The fields of a control word (R165). -/
def ctlM (x : Dword) : Nat := bitsOf x.toNat 0 8
def ctlTrow (x : Dword) : Nat := bitsOf x.toNat 8 7
def ctlCout (x : Dword) : Bool := bitOf x.toNat 15
def ctlCin (x : Dword) : Bool := bitOf x.toNat 16
def ctlSrc (x : Dword) : Nat := bitsOf x.toNat 16 2
def ctlPix (x : Dword) : Nat := bitsOf x.toNat 24 16
def ctlKb (x : Dword) : Nat := bitsOf x.toNat 40 16

/-- A word is a product, `mgrp` included (R164). -/
def isProduct (w : Word) : Bool := decide (3 ≤ mOp w) && decide (mOp w ≤ 11)

/-- What a product runs. -/
structure Prod where
  /-- 0 plain, 1 gathered rows, 2 convolution, 3 ragged groups. -/
  kind : Nat
  fmt : Nat
  rows : Nat
  trow : Nat
  cout : Bool
  cin : Bool
  ck : Bool
  acc : Bool
  tile : Nat
  buf : Nat
  q : Nat
  chain : Nat
  ncol : Nat
  col0 : Nat
  row0 : Nat
  nrow : Nat
  groups : Nat
  cap : Nat
  /-- The kc that the kind adds to every row (R176). -/
  lead : Nat
  img : ShapeImg
  deriving DecidableEq, Repr

/-- The first captured record of a word (handle A, W, S or D). -/
def rec0 (c : Ctx) : ShapeImg := c.recs.headD 0

/-- The second captured record of a word (handle W of `mgrp`). -/
def rec1 (c : Ctx) : ShapeImg := c.recs.getD 1 0

/-- The product that a word with a context runs. -/
def prodOf (w : Word) (c : Ctx) : Prod :=
  let op := mOp w
  let img := rec0 c
  let kind := if op = 9 then 1 else if op = 10 then 3 else if op = 11 then 2 else 0
  let grp := decide (kind = 3)
  let cin := !grp && ctlCin c.rb
  let cout := !grp && ctlCout c.rb
  let z := bankStack c.bank % 4
  let cross := (cout && decide (z = 3)) || (cin && decide (z = 0))
  { kind := kind, fmt := if kind = 0 then op - 3 else mFmtBits w,
    rows := if grp then recDim img 3 * recDim img 2 else ctlM c.rb,
    trow := if grp then 0 else ctlTrow c.rb,
    cout := cout, cin := cin, ck := mCk w, acc := mAcc w, tile := mTile w, buf := mBuf w,
    q := if cross then ceilDiv (recNrow img) 2 else 1,
    chain := if cin then 8 else 8 - recCol0 img,
    ncol := recNcol img, col0 := recCol0 img, row0 := recRow0 img, nrow := recNrow img,
    groups := if grp then recDim img 3 else 1, cap := if grp then recDim img 2 else ctlM c.rb,
    lead := if kind = 1 then 4 else if kind = 2 then 2 else 0, img := img }

/-- The buffer that group `g` of a product reads. -/
def bufOf (p : Prod) (g : Nat) : Nat := if p.kind = 3 then (p.buf + g) % 2 else p.buf

/-- The buffers that a product reads when it runs again (R216): of an `mgrp`, those of its groups. -/
def bufsOf (p : Prod) : List Nat := (List.range (if p.kind = 3 then min p.groups 2 else 1)).map (bufOf p)

/-- The format code of a mode that fixes it by its opcode, for `mload` by its record. -/
def loadFmt (c : Ctx) : Nat := recFmt (rec0 c)

/-- The kc between the groups of an `mgrp` (R180). -/
def grpStep (p : Prod) : Nat := max 72 (p.cap + 1)

/-- A tile of a row. -/
def tileOf (r : Row) (t : Nat) : Tile := r.tiles.getD t Tile.clear

/-- A creel buffer of a row. -/
def creelOf (r : Row) (n : Nat) : Creel := r.creels.getD n Creel.empty

/-- The kc of the zone for one kc of a word's timing (R191): two in paired mode. -/
def pace (s : State) (c : Ctx) : Nat := if (groupOf s c.grp).paired then 2 else 1

/-- What a word holds, in kc (R163, R210): loader, array and drain port. -/
def mHolds (w : Word) (c : Ctx) (r : Row) : Nat × Nat × Nat :=
  let p := prodOf w c
  let held := (tileOf r (mTile w)).prod.map (fun x => prodOf x.word x.ctx)
  match mOp w with
  | 1 => (72, 0, 0)
  | 2 => (72, 0, 0)
  | 10 => (72 + (p.groups - 1) * grpStep p, 72 + p.groups * grpStep p, 0)
  | 12 => (0, 0, ctlM c.rb + 2)
  | 13 => (0, 0, ctlM c.rb + 8)
  | 14 => (0, 0, ctlM c.rb + 8)
  | 15 => (0, 0, 1)
  | 16 => (0, 0, 0)
  | 17 => (0, 0, 10)
  | 18 => (0, 0, 8 + 2 * (match held with | some h => h.chain | none => 1))
  | 19 => (0, 0, 0)
  | 20 => (0, 0, ctlM c.rb + 1)
  | 21 => (0, (match held with | some h => h.q * (h.rows + 1) | none => 1), 0)
  | _ => (0, p.q * (p.rows + 1) + p.lead, 0)

/-- The cells, by column, that a record's range names. -/
def rangeCols (img : ShapeImg) : BitVec 8 := BitVec.ofNat 8 ((2 ^ recNcol img - 1) * 2 ^ recCol0 img)

/-- The plan of a buffer, from the row's state where no word dispatched so far concerns it. -/
def bufPlan (r : Row) (res : MRes) (n : Nat) : BufPlan :=
  match Sparse.find res.bufs n with
  | some x => x
  | none => let b := creelOf r n; { full := if b.st = .empty then none else some 0, fmt := b.fmt, rel := 0 }

/-- The plan of a tile, from the row's state where no word dispatched so far concerns it. -/
def tilePlan (r : Row) (res : MRes) (n : Nat) : TilePlan :=
  match Sparse.find res.tiles n with
  | some x => x
  | none =>
    let t := tileOf r n
    { typed := t.typed, int := t.int, checked := t.checked, fmt := t.fmt, ow := if t.owSet then some (t.owTrow, t.owM) else none,
      done := 0, port := 0, clr := 0, rerun := 0 }

/-- The kc from which no hold of a list meets the cells. -/
def clearOf (l : List Hold) (cells : BitVec 8) : Nat :=
  l.foldl (fun m h => if h.cells &&& cells = 0 then m else max m h.upto) 0

/-- The kc from which a buffer is full and no word reads it (R163, R169). -/
def bufReady (x : BufPlan) : Nat := max (x.full.getD 0) x.rel

/-- The kc from which a product's rows land behind those of the tile's earlier words (R185; log entry 114). -/
def rowsAfter (p : Prod) (t : TilePlan) (pc : Nat) : Nat :=
  t.done - pc * (if p.kind = 3 then 72 + 7 + 2 * p.chain else 7 + 2 * p.chain + p.lead)

/-- The kc from which a word's inputs and its tile are ready (R163, R169, R171, R185): products follow the earlier drains of their
tile and add their rows behind earlier products, words that read or rewrite a tile through the port follow the products and `mscl` words
before them; a load has the cells of its record, that of handle W for `mgrp`. -/
def mReady (w : Word) (c : Ctx) (r : Row) (res : MRes) (pc : Nat) : Nat :=
  let p := prodOf w c
  let t := tilePlan r res (mTile w)
  let tileFree := max t.done t.port
  match mOp w with
  | 1 => max (bufPlan r res (mBuf w)).rel (clearOf res.holds (rangeCols (rec0 c)))
  | 2 => max (bufPlan r res (mBuf w)).rel (clearOf res.holds (rangeCols (rec0 c)))
  | 10 => max (max (bufPlan r res p.buf).rel ((bufPlan r res (1 - p.buf)).rel - pc * grpStep p)) (max (max t.port (rowsAfter p t pc)) (clearOf res.holds (rangeCols (rec1 c))))
  | 12 => max (tilePlan r res (ctlSrc c.rb)).done tileFree
  | 13 => tileFree
  | 14 => tileFree
  | 15 => tileFree
  | 16 => 0
  | 17 => tileFree
  | 18 => tileFree
  | 19 => 0
  | 20 => tileFree
  | 21 => tileFree
  | _ => max (bufReady (bufPlan r res p.buf)) (if p.cout then 0 else max t.port (rowsAfter p t pc))

/-- The buffers that `ckfix` and `mrty` read (R213, R216): those of the held tile's product, for `ckfix` that of the row in `cksyn`. -/
def heldBufs (s : State) (w : Word) (c : Ctx) (r : Row) : List Nat :=
  match (tileOf r (mTile w)).prod with
  | none => []
  | some pr =>
    let p := prodOf pr.word pr.ctx
    if mOp w = 18 then [bufOf p ((bitsOf (strandOf s c.bank).cksyn.toNat 35 8 - p.trow) / max 1 p.cap)] else bufsOf p

/-- The kc from which the buffers of a `ckfix` or `mrty` are full (R163, R169). -/
def fixReady (s : State) (w : Word) (c : Ctx) (r : Row) (res : MRes) : Nat :=
  if mOp w = 18 ∨ mOp w = 21 then (heldBufs s w c r).foldl (fun m n => max m (bufReady (bufPlan r res n))) 0 else 0

/-- The next kc of a window (R191): even for A, odd for B, in paired mode. -/
def inWindow (g : Group) (t : Nat) : Nat := if g.paired && decide (t % 2 ≠ g.win) then t + 1 else t

/-- The kc at which an M word that reaches its engine at `arr` issues (R163). -/
def mIssueAt (s : State) (w : Word) (c : Ctx) (r : Row) (res : MRes) (arr : Nat) : Nat :=
  let h := mHolds w c r
  let t0 := max (max arr res.issue) (max (mReady w c r res (pace s c)) (fixReady s w c r res))
  let t1 := if h.1 = 0 then t0 else max t0 res.loader
  let t2 := if h.2.1 = 0 then t1 else max t1 res.array
  inWindow (groupOf s c.grp) (if h.2.2 = 0 then t2 else max t2 res.port)

/-- The offset at which a product's tile is complete (R176, R180). -/
def prodDone (p : Prod) : Nat :=
  if p.kind = 3 then 72 + (p.groups - 1) * grpStep p + p.cap + 7 + 2 * p.chain else 7 + p.q * p.rows + 2 * p.chain + p.lead

/-- The plan of a product's tile after it. -/
def planProd (p : Prod) (t : TilePlan) (done : Nat) : TilePlan :=
  { t with typed := true, int := if t.typed then t.int else decide (p.fmt = 3), fmt := p.fmt,
           checked := if p.acc then t.checked && p.ck else p.ck,
           ow := if p.acc then t.ow else some (p.trow, p.rows), done := max t.done done }

/-- A tile's plan when a word has cleared it. -/
def planClear (t : TilePlan) (done clr : Nat) : TilePlan :=
  { t with typed := false, int := false, checked := true, ow := none, done := done, clr := clr }

/-- A tile's plan when a drain has released the port (R187): with z it is clear. -/
def planDrain (t : TilePlan) (z : Bool) (port : Nat) : TilePlan :=
  if z then { planClear t port port with port := port } else { t with port := port }

/-- What a word issued at `t` makes of the row's buffers and tiles (R163, R169, R176, R186 to R188); `again` are the buffers that a `ckfix` or
`mrty` reads. The last source row of an `mscl` is read M + 1 kc after its issue: rows of later words land in that tile behind it (R185). -/
def mEffect (w : Word) (c : Ctx) (r : Row) (res : MRes) (again : List Nat) (pc t : Nat) : MRes :=
  let p := prodOf w c
  let ti := mTile w
  let tp := tilePlan r res ti
  let setT (x : TilePlan) : MRes := { res with tiles := res.tiles.put ti x }
  let read (m : MRes) (n upto : Nat) : MRes := { m with bufs := m.bufs.put n { bufPlan r m n with rel := upto } }
  let held := (tileOf r ti).prod.map (fun x => prodOf x.word x.ctx)
  match mOp w with
  | 1 => { res with bufs := res.bufs.put (mBuf w) { full := some (t + 72 * pc), fmt := loadFmt c, rel := t + 72 * pc },
                    loads := { from_ := t, upto := t + 72 * pc, cells := rangeCols (rec0 c) } :: res.loads }
  | 2 => { res with bufs := res.bufs.put (mBuf w) { full := some (t + 72 * pc), fmt := loadFmt c, rel := t + 72 * pc },
                    loads := { from_ := t, upto := t + 72 * pc, cells := rangeCols (rec0 c) } :: res.loads }
  | 10 =>
    let cells := rangeCols (rec1 c)
    let last (b : Nat) : Nat := if (p.groups - 1) % 2 = b then p.groups - 1 else p.groups - 2
    let upd (m : MRes) (n b : Nat) : MRes :=
      if p.groups ≤ b then m
      else { m with bufs := m.bufs.put n { full := some (t + (last b * grpStep p + 72) * pc), fmt := p.fmt,
                                           rel := t + (72 + last b * grpStep p + p.cap + 1) * pc } }
    let m := upd (upd (setT (planProd p tp (t + prodDone p * pc))) p.buf 0) (1 - p.buf) 1
    { m with loads := { from_ := t, upto := t + (72 + (p.groups - 1) * grpStep p) * pc, cells := cells } :: m.loads }
  | 12 =>
    let m := setT { tp with typed := true, int := false, checked := false, done := t + (ctlM c.rb + 5) * pc }
    let src := tilePlan r m (ctlSrc c.rb)
    { m with tiles := m.tiles.put (ctlSrc c.rb) { src with done := max src.done (t + (ctlM c.rb + 2) * pc) } }
  | 13 => setT (planDrain tp (mZ w) (t + (ctlM c.rb + 8) * pc))
  | 14 => setT (planDrain tp (mZ w) (t + (ctlM c.rb + 8) * pc))
  | 15 => setT (planClear tp (t + pc) (t + pc))
  | 16 => res
  | 17 => setT { tp with port := t + 10 * pc }
  | 18 =>
    let n := 8 + 2 * (match held with | some h => h.chain | none => 1)
    again.foldl (fun m b => read m b (t + n * pc)) (setT { tp with done := t + n * pc, port := t + n * pc })
  | 19 => res
  | 20 => res
  | 21 =>
    match held with
    | some h =>
      again.foldl (fun m b => read m b (t + h.q * (h.rows + 1) * pc))
        (setT { tp with done := t + (7 + h.q * h.rows + 2 * h.chain) * pc, checked := true, rerun := t })
    | none => res
  | _ => read (if p.cout then res else setT (planProd p tp (t + prodDone p * pc))) p.buf (t + (p.q * (p.rows + 1) + p.lead) * pc)

/-- The plan with a word that issues at `t` taken in. -/
def mCommit (s : State) (w : Word) (c : Ctx) (r : Row) (res : MRes) (t : Nat) : MRes :=
  let pc := pace s c
  let h := mHolds w c r
  let m := mEffect w c r res (heldBufs s w c r) pc t
  { m with
    issue := t + 1,
    loader := if h.1 = 0 then m.loader else t + h.1 * pc,
    array := if h.2.1 = 0 then m.array else t + h.2.1 * pc,
    port := if h.2.2 = 0 then m.port else t + h.2.2 * pc,
    loads := m.loads.filter (fun x => decide (timeOf s (ctxClk c) < x.upto)) }

/-- A queued word may issue now (R163): nothing else issues in this kc, what it holds is free, the buffers it reads are full and the
tile it reads is complete, for a drain complete or held (R185). A drain or `mscl` whose tile no word before it fills waits: the rules name no
kc for it, and R163 lets it issue only on a complete tile. DEDUCED: log entry 154. -/
def mMayIssue (s : State) (w : Word) (c : Ctx) (r : Row) (t : Nat) : Bool :=
  let h := mHolds w c r
  let p := prodOf w c
  let x := tileOf r (mTile w)
  let settled := x.st != .filling
  let drainable := x.st == .complete || x.st == .held
  decide (r.res.issueNow ≤ t) && decide (inWindow (groupOf s c.grp) t = t) && (h.1 == 0 || decide (r.res.loaderNow ≤ t)) &&
    (h.2.1 == 0 || decide (r.res.arrayNow ≤ t)) && (h.2.2 == 0 || decide (r.res.portNow ≤ t)) &&
    (match mOp w with
     | 1 => (creelOf r (mBuf w)).st != .reading && (creelOf r (mBuf w)).st != .filling
     | 2 => (creelOf r (mBuf w)).st != .reading && (creelOf r (mBuf w)).st != .filling
     | 10 => (creelOf r p.buf).st != .reading && (creelOf r p.buf).st != .filling
     | 12 => settled && (tileOf r (ctlSrc c.rb)).st == .complete
     | 16 => true
     | 19 => true
     | 13 => drainable | 14 => drainable | 15 => settled | 17 => settled | 20 => settled
     | 18 => settled && (heldBufs s w c r).all (fun n => (creelOf r n).st == .full)
     | 21 => settled && (heldBufs s w c r).all (fun n => (creelOf r n).st == .full)
     | _ => (creelOf r p.buf).st == .full)

end Sys2Proof.Machine
end

