-- ==== Sys2Proof/Machine/Macro.lean ====
section
/-! DEFINITION. Macro words in progress (R193): their records, the agenda entries of their steps, and the bytes that they read and
write through the window table captured at their dispatch. -/

namespace Sys2Proof.Machine

/-- A guarded macro word acts with its own encoding as the word that its steps carry (R57, R193). -/
def runMacro (s : State) (g : BitVec 4) (i : Instr) (body : State → State) : Host.Outcome State Fault Refusal :=
  runWord s g (fun s => body { s with cur := { s.cur with word := (encode i).headD 0 } })

/-- The row of the executing word. -/
def curRow (s : State) : Nat := bankRow s.cur.bank

/-- A macro word of a row. -/
def macroAt (s : State) (r id : Nat) : Option Macro := Sparse.find (rowOf s r).macros id

/-- The state with a macro word of a row replaced. -/
def putMacro (s : State) (r id : Nat) (m : Macro) : State := setRow s r { rowOf s r with macros := (rowOf s r).macros.put id m }

/-- The state without a macro word of a row. -/
def dropMacro (s : State) (r id : Nat) : State := setRow s r { rowOf s r with macros := (rowOf s r).macros.drop id }

/-- The executing word becomes a macro word of its row: its number, and the state. -/
def newMacro (s : State) (prod : Option Product) (inj : Option (BitVec 24)) (dead : Bool) : Nat × State :=
  let r := rowOf s (curRow s)
  (r.nextMacro, setRow s (curRow s) { r with
    nextMacro := r.nextMacro + 1,
    macros := r.macros.put r.nextMacro
      { word := s.cur.word, ctx := s.cur, clk := ctxClk s.cur, t := now s, win := (groupOf s s.cur.grp).win, buf := [], words := [],
        prod := prod, inj := inj, dead := dead } })

/-- The class of a macro word's accesses (R244): an X word's own, and 0 for M and B words. -/
def stepClass (w : Word) : Nat := if wordEng w = 3 then bitsOf w.toNat 0 4 else 0

/-- A step of macro word `id` of the executing word, `d` kc from now: its phase, the runs it reaches, and the masks under which it writes them. -/
def stepUnder (s : State) (id cls idx d ph : Nat) (runs : List Nat) (len : Nat) (wr : Bool) (sel : Nat) (masks : List Nat) : State :=
  later s d ph (engineRank (wordEng s.cur.word)) (.accessPerform
    { op := .step id (stepNo cls idx), va := runs.headD 0, pa := 0, len := if runs.isEmpty then 0 else len, cls := stepClass s.cur.word, lag := 0,
      more := runs.tail, wr := wr, sel := sel, masks := masks })

/-- A step that reads its runs, or writes them whole. -/
def stepLater (s : State) (id cls idx d ph : Nat) (runs : List Nat) (len : Nat) (wr : Bool) (sel : Nat) : State :=
  stepUnder s id cls idx d ph runs len wr sel []

/-- The byte mask of a 64-byte line of which some bits are written (R449): where a bit is not, the line is written in part. -/
def byteMask (bits : Nat) : Nat :=
  if bits = 2 ^ 512 - 1 then 2 ^ 64 - 1
  else max 1 ((List.range 64).foldl (fun m i => if bitsOf bits (8 * i) 8 = 255 then m + 2 ^ i else m) 0)

/-- The bytes that a word reads at a virtual address (R280, R375). -/
def readVa (s : State) (c : Ctx) (va n : Nat) : List Byte :=
  (segsOf c.tbl 4 va n).flatMap (fun g => fetchBytes s (paLocal g.pa) g.len)

/-- A number that a word reads at a virtual address. -/
def readVaNat (s : State) (c : Ctx) (va n : Nat) : Nat := leNat (readVa s c va n)

/-- What the reads of an access leave behind (R375, R385). -/
def afterReads (s : State) (c : Ctx) (a : Access) : State :=
  (accessSegs c a).foldl (fun st g => if paPkg g.pa = st.dev.pkg then afterRead st (paLocal g.pa) g.len else st) s

/-- Writing bytes under a mask through the table, with the dirty bit of the entry that covers them (R224). -/
def writeSegs (s : State) (c : Ctx) (l : List Seg) (bs : List Byte) (mask : Nat) : State :=
  match l with
  | [] => s
  | g :: t =>
    let s1 := storeMasked s (paLocal g.pa) (bs.take g.len) mask
    writeSegs (markDirty s1 c.bank g.pa g.len) c t (bs.drop g.len) (mask / 2 ^ g.len)

/-- A word writes bytes at a virtual address. -/
def writeVa (s : State) (c : Ctx) (va : Nat) (bs : List Byte) : State :=
  writeSegs s c (segsOf c.tbl 4 va bs.length) bs (2 ^ bs.length - 1)

/-- A word writes some of the bytes at a virtual address. -/
def writeVaMasked (s : State) (c : Ctx) (va : Nat) (bs : List Byte) (mask : Nat) : State :=
  writeSegs s c (segsOf c.tbl 4 va bs.length) bs mask

/-- The little-endian bytes of 32-bit values. -/
def wordsBytes (ws : List Word) : List Byte := (ws.map (fun w => leBytes 4 w.toNat)).flatten

/-- A fault record of an M, X or B word of context `c`. That of a follow-on word is recorded against its job (R272). -/
def macroRec (s : State) (c : Ctx) (cause opsel addr detail : Nat) (restartable : Bool) : FaultRec :=
  let r := mkRec s c cause opsel addr detail true restartable
  if isFollowOn c then { r with restartable := false, detail := c.seed.toNat + c.serial.toNat * 2 ^ 32 } else r

end Sys2Proof.Machine
end

