-- ==== Sys2Proof/Machine/Tile.lean ====
section
/-! DEFINITION. The tile words (R160 to R193): loads into the creels, products, `mscl`, `mzero` and `mmode`, each as what it does
when it issues at its engine and at each of its steps. Drains and the check words stand in Checks. -/

namespace Sys2Proof.Machine

/-- The state with a tile of a row replaced. -/
def setTile (s : State) (r t : Nat) (x : Tile) : State := setRow s r { rowOf s r with tiles := (rowOf s r).tiles.put t x }

/-- The state with a creel buffer of a row replaced. -/
def setCreel (s : State) (r n : Nat) (x : Creel) : State := setRow s r { rowOf s r with creels := (rowOf s r).creels.put n x }

/-- Rows of a tile, cells of a creel buffer or entries of the edge buffer are written: their parity is good, and a failing word that could not be
rebuilt is logged (R379, R450). -/
def arrWritten (s : State) (r : Nat) (ks : List Nat) : State :=
  let bad := (rowOf s r).arrBad
  let s1 := setRow s r { rowOf s r with arrBad := wordsWritten bad 1024 ks }
  if (failsIn bad ks).any (fun e => decide (e.1 / 128 < 1024) && wordDead bad 1024 e) then logInner s1 else s1

/-- An M word issues at its engine (R163): what it holds is held from now. -/
def mHold (s : State) : State :=
  let r := rowOf s (curRow s)
  let h := mHolds s.cur.word s.cur r
  let pc := pace s s.cur
  let t := now s
  setRow s (curRow s) { r with res := { r.res with
    issueNow := t + 1,
    loaderNow := if h.1 = 0 then r.res.loaderNow else t + h.1 * pc,
    arrayNow := if h.2.1 = 0 then r.res.arrayNow else t + h.2.1 * pc,
    portNow := if h.2.2 = 0 then r.res.portNow else t + h.2.2 * pc,
    array := if h.2.1 = 0 then r.res.array else max r.res.array (t + h.2.1 * pc),
    port := if h.2.2 = 0 then r.res.port else max r.res.port (t + h.2.2 * pc) } }

/-- A step of the executing M word, on its window's pace (R191). -/
def mLater (s : State) (id cls idx d ph : Nat) (runs : List Nat) (len : Nat) (wr : Bool) (sel : Nat) : State :=
  stepLater s id cls idx (d * pace s s.cur) ph runs len wr sel

/-- The posts of a list, one after another. -/
def forEach (s : State) (l : List Nat) (f : State → Nat → State) : State := l.foldl f s

/-- The row of a strand's group that a record's range starts at, counted from the strand's row (R161). -/
def rangeRow (s : State) (c : Ctx) (img : ShapeImg) : Nat := (strandOf s c.bank).grow - recRow0 img

/-- The virtual address of a line or header of one cell in a creel-order record (R167). -/
def creelVa (s : State) (c : Ctx) (img : ShapeImg) (base j : Nat) : Nat := base + (8 * rangeRow s c img + j) * 0x20000000

/-- The kinds of a product's, `mscl`'s and drain's steps. -/
def kRow : Nat := 0
def kGather : Nat := 1
def kEdge : Nat := 2
def kWrite : Nat := 3
def kCheck : Nat := 4
def kDone : Nat := 5
def kRelease : Nat := 6
def kEnd : Nat := 7
def kCount : Nat := 8
def kCompare : Nat := compareClass
def kLeave : Nat := 10
def kOut : Nat := 11
def kPort : Nat := 12
def kNote : Nat := 13
def kScale : Nat := 14
def kHeader : Nat := 15
/-- The kind of the load steps of group `g`. -/
def kLoad (g : Nat) : Nat := 16 + g

/-- The lines, header lines and end of one pass of a load that begins `d` kc from now (R172), with the opening, header and checksum-column
kc, in which nothing is gathered, as steps of their own (R193). -/
def loadSteps (s : State) (id g d : Nat) (img : ShapeImg) (pass : Nat) : State :=
  let js := List.range (recNcol img)
  let s0 := forEach s (List.range 4) (fun st i => mLater st id (kLoad g) (128 + i) (d + i) 3 [] 0 false 5)
  let s1 := forEach s0 (List.range 64) (fun st l =>
    mLater st id (kLoad g) l (d + 4 + l) 3 (js.map (fun j => creelVa s s.cur img (recBase img) j + 4096 * pass + 64 * l)) 64 false 5)
  let s2 := if fmtHeader (recFmt img) then
      forEach s1 [0, 1] (fun st h =>
        mLater st id (kLoad g) (64 + h) (d + 68 + h) 3 (js.map (fun j => creelVa s s.cur img (recHdr img) j + 128 * pass + 64 * h)) 64 false 5)
    else forEach s1 [0, 1] (fun st h => mLater st id (kLoad g) (128 + 68 + h) (d + 68 + h) 3 [] 0 false 5)
  let s3 := forEach s2 [70, 71] (fun st i => mLater st id (kLoad g) (128 + i) (d + i) 3 [] 0 false 5)
  mLater s3 id (kLoad g) 72 (d + 72) 0 [] 0 false 5

/-- A load issues (R169, R172): its buffer is filling. -/
def loadIssue (s : State) (n : Nat) : State :=
  let s1 := mHold s
  let r := curRow s
  let b := creelOf (rowOf s1 r) n
  let s2 := setCreel s1 r n { b with st := .filling, gen := b.gen + 1 }
  let m := newMacro s2 none none false
  loadSteps m.2 m.1 0 0 (rec0 s.cur) (s.cur.rb.toNat % 65536)

/-- `mload` (R172). -/
def execMload (g : BitVec 4) (a b : BitVec 5) (c : BitVec 1) (s : State) : Host.Outcome State Fault Refusal :=
  runMacro s g (.mload g a b c) (fun s => loadIssue s c.toNat)

/-- `mloadt` (R168, R172). -/
def execMloadt (g : BitVec 4) (a b : BitVec 5) (c : BitVec 1) (s : State) : Host.Outcome State Fault Refusal :=
  runMacro s g (.mloadt g a b c) (fun s => loadIssue s c.toNat)

/-- The 64 K-blocks that 64 lines make, as they lie or transposed (R167, R168). -/
def blocksOf (trans : Bool) (fmt : Nat) (lines : List (BitVec 512)) : List (BitVec 512) :=
  if !trans then lines
  else
    let e := fmtElems fmt
    let w := fmtBytes fmt
    (List.range 64).map (fun n =>
      BitVec.ofNat 512 ((List.range e).foldl (fun acc k => acc + elemAt fmt (lines.getD (k * w + n / e) 0) (n % e) * 2 ^ (8 * w * k)) 0))

/-- The key of a gathered load line: cell offset and line. -/
def lineAt (j l : Nat) : Nat := 1048576 + j * 128 + l

/-- A cell of a full buffer that no load has filled holds values that the spec does not state: free ones (log entry 3). -/
def fillFree (s : State) (r n : Nat) (p : Prod) : State :=
  (List.range p.ncol).foldl (fun st j =>
    let b := creelOf (rowOf st r) n
    match Sparse.find b.blocks (p.col0 + j) with
    | some _ => st
    | none =>
      let blocks := (List.range 64).map (fun k => BitVec.ofNat 512 (Config.freeNat (st.freeCtr + k)))
      let hdrs := (List.range 64).map (fun k => Config.freeNat (st.freeCtr + 64 + k) % 65536)
      setCreel { st with freeCtr := st.freeCtr + 128 } r n
        { b with blocks := b.blocks.put (p.col0 + j) blocks, hdrs := b.hdrs.put (p.col0 + j) hdrs,
                 wc := b.wc.put (p.col0 + j) (wcOf p.fmt (blocks.zip hdrs)) }) s

/-- A step of a load has performed (R172): a line's bytes are gathered; with the last step the buffer is full. In the opening, idle header
and checksum-column kc nothing else happens, but that the load of a group of an `mgrp` begins in the first (R180). -/
def loadStep (s : State) (id g idx : Nat) (a : Access) : State :=
  let r := curRow s
  match macroAt s r id with
  | none => s
  | some m =>
    let grp := decide (mOp m.word = 10)
    if m.dead then s
    else if idx < 66 then
      let got := ((a.va :: a.more).zip (List.range 8)).foldl (fun b e => b.put (lineAt e.2 idx) (BitVec.ofNat 512 (readVaNat s s.cur e.1 64))) m.buf
      putMacro (afterReads s s.cur a) r id { m with buf := got }
    else if idx ≠ 72 then
      let n := (mBuf m.word + g) % 2
      let b := creelOf (rowOf s r) n
      if grp ∧ idx = 128 then setCreel s r n { b with st := .filling, gen := b.gen + 1 } else s
    else
      let img := if grp then rec1 m.ctx else rec0 m.ctx
      let fmt := recFmt img
      let n := if grp then (mBuf m.word + g) % 2 else mBuf m.word
      let b := creelOf (rowOf s r) n
      let b1 := (List.range (recNcol img)).foldl (fun (x : Creel) j =>
        let col := recCol0 img + j
        let blocks := blocksOf (decide (mOp m.word = 2)) fmt ((List.range 64).map (fun l => m.buf.getD (lineAt j l) 0))
        let hdrs := (List.range 64).map (fun k => bitsOf (m.buf.getD (lineAt j (64 + k / 32)) 0).toNat (16 * (k % 32)) 16)
        { x with blocks := x.blocks.put col blocks, hdrs := x.hdrs.put col hdrs, wc := x.wc.put col (wcOf fmt (blocks.zip hdrs)) }) b
      let s0 := arrWritten s r ((List.range (recNcol img)).map (fun j => creelKey n (recCol0 img + j)))
      let s1 := setCreel s0 r n { b1 with st := if grp then .reading else .full, fmt := fmt }
      if grp then fillFree s1 r n (prodOf m.word m.ctx) else dropMacro s1 r id

/-- The pixel row, the pixel column and the K-block of its pixel that row `m` of an `mconv` reads in active cell `j`; none where it reads pad
(R179).
Of a convolution whose output width is not positive the spec states no position: it is free. DESIGN CHOICE: log entry 113. -/
def convAt (p : Prod) (c : Ctx) (m j : Nat) : Option (Nat × Nat × Nat) :=
  let cb := recDim p.img 0 / fmtElems p.fmt
  let blk := ctlKb c.rb + j
  let tap := blk / cb
  let ow := (recDim p.img 1 + recPl p.img + recPr p.img - recDw p.img * (recKw p.img - 1) - 1) / recSw p.img + 1
  let pix := ctlPix c.rb + m
  let at_ := if recDw p.img * (recKw p.img - 1) + 1 ≤ recDim p.img 1 + recPl p.img + recPr p.img then (pix / ow, pix % ow)
    else (Config.freePosition (2 * pix), Config.freePosition (2 * pix + 1))
  let y := at_.1 * recSh p.img + tap / recKw p.img * recDh p.img
  let x := at_.2 * recSw p.img + tap % recKw p.img * recDw p.img
  if blk < recKh p.img * recKw p.img * cb ∧ recPt p.img ≤ y ∧ y < recPt p.img + recDim p.img 2 ∧ recPl p.img ≤ x ∧
      x < recPl p.img + recDim p.img 1 then
    some (y - recPt p.img, x - recPl p.img, blk % cb)
  else none

/-- The runs of activation row `m` of a product, one for each active cell (R173, R178 to R180): none where the row reads pad. -/
def rowVa (p : Prod) (c : Ctx) (m idx j : Nat) : Option Nat :=
  let b := recBase p.img + j * 0x80000
  match p.kind with
  | 1 => if idx < recDim p.img 2 then some (b + idx * recStride p.img 2) else none
  | 2 => (convAt p c m j).map (fun q => b + q.2.1 * recStride p.img 1 + q.1 * recStride p.img 2 + 64 * q.2.2)
  | 3 => some (b + m % p.cap * recStride p.img 2 + m / p.cap * recStride p.img 3)
  | _ => if m < recDim p.img 2 then some (b + m * recStride p.img 2) else none

/-- The header of that row's block in cell `j` (R29, R173; log entry 13 for `mconv`). -/
def rowHdr (p : Prod) (c : Ctx) (m idx j : Nat) : Option Nat :=
  let h := recHdr p.img + j * 0x80000
  match p.kind with
  | 1 => if idx < recDim p.img 2 then some (h + 2 * idx) else none
  | 2 => (convAt p c m j).map (fun q => h + 2 * ((q.1 * recDim p.img 1 + q.2.1) * (recDim p.img 0 / fmtElems p.fmt) + q.2.2))
  | 3 => some (h + 2 * m)
  | _ => if m < recDim p.img 2 then some (h + 2 * m) else none

/-- The steps that read activation row `m` of a product, `d` kc from now (R174). -/
def readRow (s : State) (id : Nat) (p : Prod) (c : Ctx) (m idx d : Nat) : State :=
  let js := List.range p.ncol
  let s1 := mLater s id kRow m d 3 (js.filterMap (fun j => rowVa p c m idx j)) 64 false 4
  if fmtHeader p.fmt then mLater s1 id kHeader m d 3 (js.filterMap (fun j => rowHdr p c m idx j)) 2 false 4 else s1

/-- The keys under which a product gathers a row's block, its header, its index, and what came over the edge. -/
def blockAt (m j : Nat) : Nat := m * 8 + j
def indexAt (m : Nat) : Nat := 2048 + m
def edgeAt (m n : Nat) : Nat := 4096 + m * 65 + n
def countAt (g : Nat) : Nat := 16384 + g

/-- The rows of a rectangle leave over a package edge link two in a kc (R183). -/
def slotDelay (s : State) (p : Prod) (c : Ctx) : Nat :=
  if p.cout && decide (bankStack c.bank % 4 = 3) then rangeRow s c p.img / 2 else 0

/-- The steps of one group of rows whose product begins `d` kc from now (R174, R176, R180 to R182). -/
def rowSteps (s : State) (id : Nat) (p : Prod) (c : Ctx) (d first count check : Nat) : State :=
  let out := (if p.cout then 5 + slotDelay s p c else 7) + 2 * p.chain + p.lead
  let ms := (List.range count).map (first + ·)
  let s1 := forEach s ms (fun st m =>
    if p.kind = 1 then mLater st id kGather m (d + p.q * (m - first)) 3 [recIdx p.img + 4 * m] 4 false 4
    else readRow st id p c m 0 (d + p.lead + p.q * (m - first)))
  let s2 := forEach s1 ms (fun st m => mLater st id kWrite m (d + out + p.q * (m - first)) 0 [] 0 false 4)
  let s3 := if p.cin then
      forEach s2 (ms ++ if p.ck then [p.rows] else []) (fun st m => mLater st id kEdge m (d + 5 + p.lead + p.q * m) 0 [] 0 false 14)
    else s2
  if p.ck && decide (count ≠ 0) then mLater s3 id kCheck check (d + out + p.q * (if p.kind = 3 then p.cap else p.rows)) 0 [] 0 false 4 else s3

/-- The state of a product's tile when it issues (R177, R184, R196, R214): filling, its type set, the flag mask of an overwritten tile
cleared, its armed injection taken. -/
def productTile (t : Tile) (p : Prod) (pr : Product) : Tile :=
  let fresh := !p.acc
  { t with
    st := .filling, typed := true, int := if t.typed then t.int else decide (p.fmt = 3),
    checked := if fresh then p.ck else t.checked && p.ck,
    nprod := if fresh then 1 else t.nprod + 2,
    cinSeen := if fresh then p.cin else t.cinSeen || p.cin,
    mask := if fresh then 0 else t.mask,
    owTrow := if fresh then p.trow else t.owTrow, owM := if fresh then p.rows else t.owM, owSet := if fresh then true else t.owSet,
    counts := if fresh then pr.counts else t.counts, cap := if fresh then p.cap else t.cap, fmt := p.fmt, col0 := p.col0,
    prod := if fresh then some pr else none, inj := none }

/-- A buffer is being read by a product (R169). -/
def readBuf (s : State) (r : Nat) (p : Prod) (n : Nat) : State :=
  let s1 := fillFree s r n p
  setCreel s1 r n { creelOf (rowOf s1 r) n with st := .reading }

/-- A product issues (R169, R175, R176): its buffers are being read, its tile is filling, and its steps follow. A word whose rectangle has
failed writes nothing (R162). -/
def productIssue (s : State) (p : Prod) (pr : Product) (retry : Bool) : State :=
  let r := curRow s
  let s2 := forEach (mHold s) (bufsOf p) (fun st n => readBuf st r p n)
  let t := tileOf (rowOf s2 r) p.tile
  let s3 := if p.cout then s2
    else setTile s2 r p.tile (if retry then { productTile t p pr with inj := t.inj } else productTile t p pr)
  let m := newMacro s3 (some pr) (if !retry && !p.cout then t.inj else none) (decide (s.cur.unit = 1))
  let s4 := if p.kind = 3 then
      forEach m.2 (List.range p.groups) (fun st g => rowSteps st m.1 p pr.ctx (g * p.cap) (g * p.cap) (pr.counts.getD g 0) g)
    else rowSteps m.2 m.1 p pr.ctx 0 0 p.rows 0
  let done := 7 + p.q * p.rows + 2 * p.chain + p.lead
  let s5 := if p.cout then s4 else mLater s4 m.1 kDone 0 done 0 [] 0 false 4
  let rel := p.q * (p.rows + 1) + p.lead
  mLater (forEach s5 (bufsOf p) (fun st n => mLater st m.1 kRelease n rel 0 [] 0 false 4)) m.1 kEnd 0 (max done rel) 5 [] 0 false 4

/-- The product that the executing word runs. -/
def curProduct (s : State) : Product :=
  { word := s.cur.word, ctx := s.cur, gens := (List.range 2).map (fun n => (creelOf (rowOf s (curRow s)) n).gen), counts := [] }

/-- A product word (R175). -/
def productWord (s : State) (g : BitVec 4) (i : Instr) : Host.Outcome State Fault Refusal :=
  runMacro s g i (fun s => productIssue s (prodOf s.cur.word s.cur) (curProduct s) false)

/-- `mmul.e2m1` (R175). -/
def execMmulE2m1 (g : BitVec 4) (t : BitVec 2) (a b : BitVec 5) (c k u : BitVec 1) (s : State) : Host.Outcome State Fault Refusal :=
  productWord s g (.mmulE2m1 g t a b c k u)

/-- `mmul.e4m3` (R175). -/
def execMmulE4m3 (g : BitVec 4) (t : BitVec 2) (a b : BitVec 5) (c k u : BitVec 1) (s : State) : Host.Outcome State Fault Refusal :=
  productWord s g (.mmulE4m3 g t a b c k u)

/-- `mmul.e5m2` (R175). -/
def execMmulE5m2 (g : BitVec 4) (t : BitVec 2) (a b : BitVec 5) (c k u : BitVec 1) (s : State) : Host.Outcome State Fault Refusal :=
  productWord s g (.mmulE5m2 g t a b c k u)

/-- `mmul.i8` (R175). -/
def execMmulI8 (g : BitVec 4) (t : BitVec 2) (a b : BitVec 5) (c k u : BitVec 1) (s : State) : Host.Outcome State Fault Refusal :=
  productWord s g (.mmulI8 g t a b c k u)

/-- `mmul.bf16` (R175). -/
def execMmulBf16 (g : BitVec 4) (t : BitVec 2) (a b : BitVec 5) (c k u : BitVec 1) (s : State) : Host.Outcome State Fault Refusal :=
  productWord s g (.mmulBf16 g t a b c k u)

/-- `mmul.f16` (R175). -/
def execMmulF16 (g : BitVec 4) (t : BitVec 2) (a b : BitVec 5) (c k u : BitVec 1) (s : State) : Host.Outcome State Fault Refusal :=
  productWord s g (.mmulF16 g t a b c k u)

/-- `mmulg` (R178). -/
def execMmulg (g : BitVec 4) (t : BitVec 2) (a b : BitVec 5) (f : BitVec 3) (c k u : BitVec 1) (s : State) :
    Host.Outcome State Fault Refusal :=
  productWord s g (.mmulg g t a b f c k u)

/-- `mconv` (R179). -/
def execMconv (g : BitVec 4) (t : BitVec 2) (a b : BitVec 5) (f : BitVec 3) (c k u : BitVec 1) (s : State) :
    Host.Outcome State Fault Refusal :=
  productWord s g (.mconv g t a b f c k u)

/-- `mgrp` (R180): the count table is read when the word issues; what follows depends on it. -/
def execMgrp (g : BitVec 4) (t : BitVec 2) (a b : BitVec 5) (f : BitVec 3) (c k u : BitVec 1) (s : State) :
    Host.Outcome State Fault Refusal :=
  runMacro s g (.mgrp g t a b f c k u) (fun s =>
    let p := prodOf s.cur.word s.cur
    let r := curRow s
    let s1 := mHold s
    let t := tileOf (rowOf s1 r) p.tile
    let m := newMacro (setTile s1 r p.tile (productTile t p (curProduct s))) (some (curProduct s)) t.inj (decide (s.cur.unit = 1))
    mLater m.2 m.1 kCount 0 0 3 [recIdx p.img] (4 * p.groups) false 4)

/-- The counts of an `mgrp`'s table, as read. -/
def countsOf (s : State) (p : Prod) (a : Access) : List Nat := (List.range p.groups).map (fun g => readVaNat s s.cur (a.va + 4 * g) 4)

/-- An `mgrp` whose count table it cannot take, or whose rectangle has failed, writes no row, and its tile is complete at the kc that its
declared cap gives (R162, R180; log entry 117). -/
def groupsEnd (s : State) (id : Nat) (p : Prod) : State :=
  mLater (mLater s id kDone 0 (prodDone p) 0 [] 0 false 4) id kEnd 0 (prodDone p) 5 [] 0 false 4

/-- The count table of `mgrp` has been read, no count above cap: the loads and the groups' rows follow (R180). An accumulating word
leaves the tile the counts of the product that overwrote it. DESIGN CHOICE: log entry 125. -/
def countStep (s : State) (id : Nat) (p : Prod) (a : Access) : State :=
  let r := curRow s
  match macroAt s r id with
  | none => s
  | some m =>
    if m.dead then groupsEnd s id p
    else
      let ns := countsOf s p a
      let x := tileOf (rowOf s r) p.tile
      let loads (n : Nat) : Nat := ((List.range p.groups).filter (fun g => bufOf p g == n)).length
      let pr : Option Product := m.prod.map (fun y =>
        { y with counts := ns, gens := (List.range 2).map (fun n => y.gens.getD n 0 + loads n) })
      let s1 := putMacro (afterReads s s.cur a) r id
        { m with prod := pr, words := (ns.zip (List.range p.groups)).foldl (fun w e => w.put (countAt e.2) (BitVec.ofNat 32 e.1)) m.words }
      let s2 := setTile s1 r p.tile { x with counts := if p.acc then x.counts else ns, prod := if x.prod.isSome then pr else none }
      let s3 := (List.range p.groups).foldl (fun st g =>
        let st1 := loadSteps st id g (g * grpStep p) (rec1 s.cur) g
        rowSteps st1 id p s.cur (72 + g * grpStep p) (g * p.cap) (ns.getD g 0) g) s2
      let s4 := (List.range p.groups).foldl (fun st g =>
        mLater st id kRelease (bufOf p g) (72 + g * grpStep p + p.cap + 1) 0 [] 0 false 4) s3
      groupsEnd s4 id p

/-- A row's blocks have been read (R174): they travel to the active cells; a pad row's blocks are pad (R150). -/
def rowStep (s : State) (id idx : Nat) (p : Prod) (c : Ctx) (a : Access) : State :=
  let r := curRow s
  match macroAt s r id with
  | none => s
  | some m =>
    let ix := (m.words.getD (indexAt idx) 0).toNat
    let put (b : Sparse (BitVec 512)) (j : Nat) : Sparse (BitVec 512) :=
      b.put (blockAt idx j) (match rowVa p c idx ix j with
        | some va => BitVec.ofNat 512 (readVaNat s s.cur va 64)
        | none => padBlock p.fmt (recPad p.img))
    putMacro (afterReads s s.cur a) r id { m with buf := (List.range p.ncol).foldl put m.buf }

/-- A row's headers have been read. -/
def headerStep (s : State) (id idx : Nat) (p : Prod) (c : Ctx) (a : Access) : State :=
  let r := curRow s
  match macroAt s r id with
  | none => s
  | some m =>
    let ix := (m.words.getD (indexAt idx) 0).toNat
    let put (b : Sparse Word) (j : Nat) : Sparse Word :=
      b.put (blockAt idx j) (match rowHdr p c idx ix j with
        | some va => BitVec.ofNat 32 (readVaNat s s.cur va 2)
        | none => 0x7F)
    putMacro (afterReads s s.cur a) r id { m with words := (List.range p.ncol).foldl put m.words }

/-- An index has been read (R178): its row is read 4 kc later, by `ckfix` in the same kc (R213). -/
def gatherStep (s : State) (id idx : Nat) (p : Prod) (c : Ctx) (a : Access) : State :=
  let r := curRow s
  match macroAt s r id with
  | none => s
  | some m =>
    let ix := readVaNat s s.cur a.va 4
    readRow (putMacro (afterReads s s.cur a) r id { m with words := m.words.put (indexAt idx) (BitVec.ofNat 32 ix) }) id p c idx ix
      (if mOp m.word = 18 then 0 else p.lead)

/-- The values of an activation row's block in a cell. -/
def cellX (m : Macro) (p : Prod) (row j : Nat) : List Fv :=
  blockVals p.fmt (m.buf.getD (blockAt row j) 0) (m.words.getD (blockAt row j) 0x7F).toNat

/-- The values of a weight K-block of output column `n` in a cell. -/
def cellW (b : Creel) (p : Prod) (j n : Nat) : List Fv :=
  blockVals p.fmt ((b.blocks.getD (p.col0 + j) []).getD n 0) ((b.hdrs.getD (p.col0 + j) []).getD n 0)

/-- The checksum column's weights in a cell (R194). -/
def cellWc (b : Creel) (p : Prod) (j : Nat) : List Fv :=
  (b.wc.getD (p.col0 + j) []).map (wordFv (decide (p.fmt = 3)))

/-- The injection of a product, if its row and cell take part (R214). -/
def injectInto (m : Macro) (p : Prod) (row j n : Nat) (x : Word) : Word :=
  match m.inj with
  | none => x
  | some i =>
    if bitsOf i.toNat 0 8 = p.trow + row ∧ bitsOf i.toNat 8 7 = n ∧ bitsOf i.toNat 16 3 = j then x ^^^ (1#32 <<< bitsOf i.toNat 19 5) else x

/-- The partials of one row in every cell: those of the 64 columns, then that of the checksum column (R31, R194). -/
def rowParts (m : Macro) (p : Prod) (b : Creel) (row : Nat) : List (List Word) :=
  let int := decide (p.fmt = 3)
  (List.range p.ncol).map (fun j =>
    let x := cellX m p row j
    ((List.range 64).map (fun n => injectInto m p row j n (partialOf int (cellW b p j n) x))) ++
      [injectInto m p row j 64 (partialOf int (cellWc b p j) x)])

/-- The chain results of a row: the values of the columns, and of the checksum column (R175). -/
def rowChain (m : Macro) (p : Prod) (parts : List (List Word)) (row cols : Nat) : List Word :=
  (List.range cols).map (fun n =>
    chainOf (decide (p.fmt = 3)) (if p.cin then some (m.words.getD (edgeAt row n) 0) else none) (parts.map (fun c => c.getD n 0)))

/-- The rows of a group of a product: all of them, or those of a ragged group. -/
def groupRowsOf (p : Prod) (pr : Product) (g : Nat) : List Nat :=
  if p.kind = 3 then (List.range (pr.counts.getD g 0)).map (g * p.cap + ·) else List.range p.rows

/-- A partial leaves for the next stack, or over the package edge link (R181, R183, R342, R387, R389): there the rows of a rectangle leave
in alternate slots. -/
def sendPartial (s : State) (p : Prod) (c : Ctx) (entry : Nat) (vals : List Word) : State :=
  let z := bankStack c.bank
  let st := now s
  if z % 4 = 3 then
    let i := rangeRow s c p.img
    sendFlit s 8 (i % 2) (bankRow c.bank) 1 st (leNat (wordsBytes (vals.take 64)))
  else if (linkOf s z).st = .retired then s
  else
    let rkc := (gzone (groupOf s c.grp) (z + 1)).kc
    let u := useSlot s z (edgeSlot (bankRow c.bank) false) 1
    let a := arrivalAt u.2 (9 * z + (z + 1)) st (st + lam s z (z + 1)) rkc false
    let q := landingAt a.2 c.grp (z + 1) (a.1 + u.1)
    post a.2 q.1 q.2 0 (bankRow c.bank + 16) 0 { Ctx.none with grp := c.grp }
      (.ev (.chainPartialArrival { grp := c.grp, row := bankRow c.bank + 16, entry := entry, vals := vals }))

/-- A later product that overwrites the tile has issued (R196): the flag mask is its own from then on. -/
def overwritten (r : Row) (id tile : Nat) : Bool :=
  r.macros.any (fun e => decide (id < e.1) && decide (wordEng e.2.word = 2) && isProduct e.2.word && mTile e.2.word == tile &&
    !(prodOf e.2.word e.2.ctx).acc && !(prodOf e.2.word e.2.ctx).cout)

/-- A row of a product leaves the chain (R175, R196, R197): it goes into the tile, or east. The cells test their row against the tolerance that the
product's word sampled at its dispatch, for `mrty` against the original product's. DEDUCED: log entry 140. -/
def writeStep (s : State) (id idx : Nat) (p : Prod) (pr : Product) : State :=
  let r := curRow s
  match macroAt s r id with
  | none => s
  | some m =>
    if m.dead then s
    else
      let int := decide (p.fmt = 3)
      let b := creelOf (rowOf s r) (bufOf p (idx / max 1 p.cap))
      let parts := rowParts m p b idx
      let out := rowChain m p parts idx (if p.ck then 65 else 64)
      if p.cout then sendPartial s p pr.ctx idx out
      else
        let t := tileOf (rowOf s r) p.tile
        if t.st = .poisoned then s
        else
          let row := p.trow + idx
          let old := t.vals.getD row (List.replicate 64 0)
          let vals := (List.range 64).map (fun n => if p.acc then chainAdd int (old.getD n 0) (out.getD n 0) else out.getD n 0)
          let tol := pr.ctx.tol.getD p.fmt 0
          let fails := (List.range p.ncol).filter (fun j =>
            let c := parts.getD j []
            (lineFails int tol (c.take 64) (c.getD 64 0)).1)
          let t1 := { t with vals := t.vals.put row vals }
          setTile (arrWritten s r [tileKey p.tile row]) r p.tile (if p.ck then
            { t1 with cs := t.cs.put row (if p.acc then chainAdd int (t.cs.getD row 0) (out.getD 64 0) else out.getD 64 0),
                      mask := if overwritten (rowOf s r) id p.tile then t.mask else fails.foldl (fun k j => k ||| (1#8 <<< j)) t.mask }
          else t1)

/-- The checksum row of a group leaves the chain (R195, R196, R198). -/
def checkStep (s : State) (id g : Nat) (p : Prod) (pr : Product) : State :=
  let r := curRow s
  match macroAt s r id with
  | none => s
  | some m =>
    if m.dead then s
    else
      let int := decide (p.fmt = 3)
      let b := creelOf (rowOf s r) (bufOf p g)
      let rows := groupRowsOf p pr g
      let parts := (List.range p.ncol).map (fun j =>
        let xs := checkRow int (fmtElems p.fmt) (rows.map (fun k => cellX m p k j))
        (List.range 64).map (fun n => partialOf int (cellW b p j n) xs))
      let out := rowChain m p parts p.rows 64
      if p.cout then sendPartial s p pr.ctx p.rows out
      else
        let t := tileOf (rowOf s r) p.tile
        if t.st = .poisoned then s
        else
          let old := t.cr.getD g (List.replicate 64 0)
          let vals := (List.range 64).map (fun n => if p.acc then chainAdd int (old.getD n 0) (out.getD n 0) else out.getD n 0)
          setTile s r p.tile { t with cr := t.cr.put g vals }

/-- The key under which a macro word keeps that its last row has landed. -/
def doneAt : Nat := 131072

/-- A macro word of the strand, or of its handler, writes a tile, and rows of it have still to land. -/
def stillFills (hand : Bool) (tile : Nat) (m : Macro) : Bool :=
  decide (wordEng m.word = 2) && m.ctx.hand == hand && mTile m.word == tile && (Sparse.find m.words doneAt).isNone &&
    ((isProduct m.word && !(prodOf m.word m.ctx).cout) || mOp m.word == 12 || mOp m.word == 21)

/-- A tile's last row has landed (R184): it is complete, unless another word, an earlier or a later one, still has rows to land in it. -/
def doneStep (s : State) (id tile : Nat) : State :=
  let r := curRow s
  let s1 := match macroAt s r id with
    | some m => putMacro s r id { m with words := m.words.put doneAt 1 }
    | none => s
  let t := tileOf (rowOf s1 r) tile
  if t.st = .filling ∧ !(rowOf s1 r).macros.any (fun e => stillFills s.cur.hand tile e.2) then setTile s1 r tile { t with st := .complete } else s1

/-- The array lets a buffer go (R169). -/
def releaseStep (s : State) (n : Nat) : State :=
  let r := curRow s
  let b := creelOf (rowOf s r) n
  if b.st = .reading then setCreel s r n { b with st := .full } else s

/-- An entry of the edge buffer is consumed (R181): its values start the chain. A checksum value that the sender did not send is a
free one (log entry 3). -/
def edgeStep (s : State) (id idx : Nat) : State :=
  let r := curRow s
  match macroAt s r id, Sparse.find (rowOf s r).edge idx with
  | some m, some vals =>
    let f := freeValue s
    let all := if vals.length < 65 then vals ++ [BitVec.ofNat 32 f.1] else vals
    let m1 := { m with words := ((List.range 65).zip all).foldl (fun w e => w.put (edgeAt idx e.1) e.2) m.words }
    let s1 := putMacro f.2 r id m1
    setRow s1 r { rowOf s1 r with edge := (rowOf s1 r).edge.drop idx }
  | _, _ => s

/-- `mscl` (R186): its destination is filling, FP32 and unchecked. -/
def execMscl (g : BitVec 4) (t : BitVec 2) (a b : BitVec 5) (u : BitVec 1) (s : State) : Host.Outcome State Fault Refusal :=
  runMacro s g (.mscl g t a b u) (fun s =>
    let r := curRow s
    let s1 := mHold s
    let t := tileOf (rowOf s1 r) (mTile s.cur.word)
    let s2 := setTile s1 r (mTile s.cur.word)
      { t with st := .filling, typed := true, int := false, checked := false, nprod := 2, prod := none }
    let m := newMacro s2 none none false
    let s3 := mLater m.2 m.1 kScale 0 0 3 [recBase (rec0 s.cur)] 768 false 4
    let s4 := forEach s3 (List.range (ctlM s.cur.rb)) (fun st i => mLater (mLater st m.1 kLeave i (2 + i) 3 [] 0 false 4) m.1 kOut i (5 + i) 0 [] 0 false 4)
    mLater (mLater s4 m.1 kDone 0 (ctlM s.cur.rb + 5) 0 [] 0 false 4) m.1 kEnd 0 (ctlM s.cur.rb + 5) 5 [] 0 false 4)

/-- The scales of `mscl` have been read. -/
def scaleStep (s : State) (id : Nat) (a : Access) : State :=
  let r := curRow s
  match macroAt s r id with
  | none => s
  | some m =>
    putMacro (afterReads s s.cur a) r id
      { m with words := (List.range 192).foldl (fun w i => w.put i (BitVec.ofNat 32 (readVaNat s s.cur (a.va + 4 * i) 4))) m.words }

/-- The key under which a macro word keeps column `n` of row `i`. -/
def outAt (i n : Nat) : Nat := 32768 + i * 64 + n

/-- A source row of `mscl` has been read and scaled (R35, R186). -/
def sclRead (s : State) (id i : Nat) : State :=
  let r := curRow s
  match macroAt s r id with
  | none => s
  | some m =>
    let t := tileOf (rowOf s r) (ctlSrc m.ctx.rb)
    let row := ctlTrow m.ctx.rb + i
    let vals := t.vals.getD row (List.replicate 64 0)
    let out (n : Nat) : Word :=
      let v := if t.int then rne32 (ofInt (vals.getD n 0).toInt 0) else vals.getD n 0
      mulF32 (mulF32 v (m.words.getD n 0)) (m.words.getD (64 + row) 0)
    putMacro s r id { m with words := (List.range 64).foldl (fun w n => w.put (outAt i n) (out n)) m.words }

/-- A row of `mscl` is written (R186). -/
def sclWrite (s : State) (id i : Nat) : State :=
  let r := curRow s
  match macroAt s r id with
  | none => s
  | some m =>
    if m.dead then s
    else
      let t := tileOf (rowOf s r) (mTile m.word)
      let row := ctlTrow m.ctx.rb + i
      let old := t.vals.getD row (List.replicate 64 0)
      let vals := (List.range 64).map (fun n =>
        let x := m.words.getD (outAt i n) 0
        if mAcc m.word then addF32 (old.getD n 0) x else x)
      setTile (arrWritten s r [tileKey (mTile m.word) row]) r (mTile m.word) { t with vals := t.vals.put row vals }

/-- A tile is cleared (R184): all values +0, no type, checked; an armed injection stays (R214). -/
def clearTile (s : State) (r t : Nat) : State :=
  setTile (arrWritten s r ((List.range 256).map (tileKey t))) r t { Tile.clear with inj := (tileOf (rowOf s r) t).inj }

/-- `mzero` (R188): the tile is clear at t + 1. -/
def execMzero (g : BitVec 4) (t : BitVec 2) (s : State) : Host.Outcome State Fault Refusal :=
  runMacro s g (.mzero g t) (fun s =>
    let m := newMacro (mHold s) none none false
    mLater m.2 m.1 kPort t.toNat 1 0 [] 0 false 0)

/-- `mmode` (R189): the drain-mode entry for drains that issue after it. -/
def execMmode (g : BitVec 4) (a b : BitVec 5) (s : State) : Host.Outcome State Fault Refusal :=
  runMacro s g (.mmode g a b) (fun s =>
    let s1 := mHold s
    let r := rowOf s1 (curRow s)
    setRow s1 (curRow s) { r with mmSeed := s.cur.ra.setWidth 32, mmMode := vrmWrite s r.mmMode s.cur.rb.toNat,
                                  mmBase := (s.cur.rb >>> 32).setWidth 32 })

end Sys2Proof.Machine
end

