-- ==== Sys2Proof/Machine/Plan.lean ====
section
/-! DEFINITION. The kc at which the accesses of a strand's words perform, as they are fixed at dispatch: those of words on their way to
their engines, in the engines' queues, and in progress. Hand-offs (R228), fences (R251) and `barr` (R354) look them up. The B
engine's operands and times (R291, R296) stand here too. -/

namespace Sys2Proof.Machine

/-- The operation of a B word (R294). -/
def bOp (w : Word) : Nat := bitsOf w.toNat 19 6

/-- The f field of a B word (R294). -/
def bF (w : Word) : Nat := bitsOf w.toNat 0 4

/-- The operands of a B word: the records of a, b and d; `bsum` has no b. -/
def bRecA (c : Ctx) : ShapeImg := c.recs.headD 0
def bRecB (c : Ctx) : ShapeImg := c.recs.getD 1 0
def bRecD (c : Ctx) : ShapeImg := c.recs.getD 2 0

/-- The slices of a bank operand, and its width (R291). -/
def bSlices (r : ShapeImg) : Nat := recDim r 0 / 1024
def bWidth (r : ShapeImg) : Nat := recDim r 1

/-- The slice time of a B word (R296). -/
def bTs (w : Word) (c : Ctx) : Nat :=
  match bOp w with
  | 3 => bWidth (bRecA c) * bWidth (bRecB c) + 4
  | 4 => bWidth (bRecA c) * bWidth (bRecB c) + 6
  | 5 => max (bWidth (bRecA c)) (bWidth (bRecB c)) + 2
  | 7 => bWidth (bRecA c) + 12
  | _ => bWidth (bRecD c) + 2

/-- The kc for which a B word holds its engine and bank groups (R296). -/
def bBusy (w : Word) (c : Ctx) : Nat := 32 + bSlices (bRecA c) * bTs w c + if bOp w = 7 then bWidth (bRecD c) else 0

/-- The virtual address of plane `k` of slice `i` of an operand in cell `j` of its range (R291). -/
def planeVa (s : State) (c : Ctx) (r : ShapeImg) (j i k : Nat) : Nat :=
  recBase r + (8 * rangeRow s c r + j) * 0x20000000 + 128 * (bWidth r * i + k)

/-- The planes of a slice of an operand in every active cell: their virtual addresses. -/
def sliceVas (s : State) (c : Ctx) (r : ShapeImg) (i : Nat) : List Nat :=
  ((List.range (recNcol r)).map (fun j => (List.range (bWidth r)).map (planeVa s c r j i))).flatten

/-- The first kc from `t` at which no window of a list meets `n` kc on the cells (R171, R296); `fuel` bounds the windows. -/
def afterLoads (l : List Hold) (cells : BitVec 8) (n fuel t : Nat) : Nat :=
  match fuel with
  | 0 => t
  | k + 1 =>
    match l.find? (fun h => decide (h.cells &&& cells ≠ 0) && decide (h.from_ < t + n) && decide (t < h.upto)) with
    | some h => afterLoads l cells n k h.upto
    | none => t

/-- The kc at which a B word that reaches its engine at `arr` issues (R296), behind the words of the queue. -/
def bIssueAt (w : Word) (c : Ctx) (res : MRes) (arr : Nat) : Nat :=
  afterLoads res.loads (rangeCols (bRecA c)) (bBusy w c) (res.loads.length + 1) (max arr res.bfree)

/-- The plan with a B word that issues at `t` taken in. -/
def bCommit (w : Word) (c : Ctx) (res : MRes) (now_ t : Nat) : MRes :=
  { res with bfree := t + bBusy w c,
             holds := { from_ := t, upto := t + bBusy w c, cells := rangeCols (bRecA c) } ::
               res.holds.filter (fun h => decide (now_ < h.upto)) }

/-- A planned access: its perform kc, its virtual address and length, whether it writes, and its class. -/
structure PlanAcc where
  at_ : Nat
  va : Nat
  len : Nat
  wr : Bool
  cls : Nat
  /-- A load or store that the core's data cache takes (R252). -/
  cached : Bool := false
  deriving DecidableEq, Repr

/-- The strand runs under timed rules: its kernel is timed, and no handler runs. -/
def timedNow (s : State) (b : Nat) : Bool := timedMode (bankGroup s b) && !(strandOf s b).trap

/-- The C accesses that the core's data cache holds (R225, R252): loads and stores outside the zone, in loose and safelight modes, of
pages that are no commons (C) pages. -/
def cachedAccess (s : State) (c : Ctx) (g : Seg) : Bool :=
  !timedNow s c.bank && decide (paPkg g.pa = s.dev.pkg) && decide (paZone s g.pa ≠ bankStack c.bank) &&
    !(lookup c.tbl g.va).any weC && (match placeOf (paLocal g.pa) with | .commons _ => false | _ => true)

/-- A C load or store goes through the core's data cache. -/
def throughCache (s : State) (c : Ctx) (a : Access) : Bool :=
  match a.op, segsOf c.tbl 2 a.va a.len with
  | .load _ _, g :: _ => cachedAccess s c g
  | .store _, g :: _ => cachedAccess s c g
  | _, _ => false

/-- The accesses of an X word that issues at `t` (R261, R263, R264). A receive counts with its latest kc, and a submission as an access
of its card's class (R251). -/
def xPlan (w : Word) (c : Ctx) (t : Nat) : List PlanAcc :=
  let op := bitsOf w.toNat 19 6
  let cls := bitsOf w.toNat 0 4
  let lines (r : ShapeImg) (at0 : Nat) (wr : Bool) : List PlanAcc :=
    let ls := recLines r
    (ls.zip (List.range ls.length)).map (fun e => { at_ := at0 + e.2, va := 64 * e.1, len := 64, wr := wr, cls := cls })
  match op with
  | 1 => lines (rec0 c) (t + 2) false ++ lines (rec1 c) (t + 3 + (recLines (rec0 c)).length) true
  | 2 => lines (rec0 c) (t + 2) false
  | 3 => lines (rec0 c) (t + 2 + c.rb.toNat % 2 ^ 32) true
  | 4 => [{ at_ := t, va := 0, len := 0, wr := false, cls := bitsOf (c.recs.getD 2 0).toNat 8 4 }]
  | 5 => [{ at_ := t, va := 0, len := 0, wr := false, cls := bitsOf (c.recs.getD 2 0).toNat 8 4 }]
  | _ => []

/-- The latency of a V access by what it reaches (R141). -/
def vLatency (b pa : Nat) : Nat :=
  match placeOf (paLocal pa) with
  | .spad c _ => if c / 8 = bankRow b then 6 else 10
  | _ => 8

/-- The accesses of a V word that issues at `t` (R141, R142). -/
def vPlan (w : Word) (c : Ctx) (t : Nat) : List PlanAcc :=
  let at_ (va : Nat) : Nat := t + vLatency c.bank (match lookup c.tbl va with | some e => physOf e va | none => 0) - 1
  match decode w with
  | .ok (.vld _ _ _ o k) => let va := (vecAddr c.ra o).toNat; [{ at_ := at_ va, va := va, len := 512, wr := false, cls := k.toNat }]
  | .ok (.vst _ _ _ o k) => let va := (vecAddr c.ra o).toNat; [{ at_ := at_ va, va := va, len := 512, wr := true, cls := k.toNat }]
  | .ok (.vldg _ _ _ _ k) => [{ at_ := t + 7, va := c.ra.toNat, len := 0, wr := false, cls := k.toNat }]
  | _ => []

/-- The accesses of an M word that issues at `t`: every row that it writes, and the last kc at which it reads. -/
def mPlan (s : State) (w : Word) (c : Ctx) (r : Row) (t : Nat) : List PlanAcc :=
  let pc := pace s c
  let p := prodOf w c
  let img := rec0 c
  let rows (n first : Nat) (len : Nat) : List PlanAcc :=
    (List.range n).map (fun i => { at_ := t + (first + i) * pc, va := recBase img + i * recStride img 1, len := len, wr := true, cls := 0 })
  let read (d : Nat) : List PlanAcc := [{ at_ := t + d * pc, va := recBase img, len := 0, wr := false, cls := 0 }]
  let held := (tileOf r (mTile w)).prod.map (fun x => prodOf x.word x.ctx)
  match mOp w with
  | 1 => read (if fmtHeader (recFmt img) then 69 else 67)
  | 2 => read (if fmtHeader (recFmt img) then 69 else 67)
  | 10 => read (72 + (p.groups - 1) * grpStep p + p.cap)
  | 12 => read 0
  | 13 => rows (ctlM c.rb) 12 (recDim img 0)
  | 14 => rows (ctlM c.rb) 12 (recDim img 0)
  | 15 => []
  | 16 => []
  | 17 => [{ at_ := t + 9 * pc, va := recBase img, len := 64, wr := true, cls := 0 }]
  | 18 => read 5
  | 19 => []
  | 20 => rows (ctlM c.rb) 4 256
  | 21 => read (match held with | some h => h.lead + h.q * h.rows | none => 0)
  | _ => read (p.lead + p.q * p.rows)

/-- The accesses of a B word that issues at `t` (R296): the planes it writes, and the last kc at which it reads. -/
def bPlan (s : State) (w : Word) (c : Ctx) (t : Nat) : List PlanAcc :=
  let d := bRecD c
  let ns := bSlices (bRecA c)
  let ts := bTs w c
  let reads : List PlanAcc := [{ at_ := t + 32 + (ns - 1) * ts, va := recBase (bRecA c), len := 0, wr := false, cls := 0 }]
  if bOp w = 7 then
    reads ++ ((List.range (recNcol d)).flatMap (fun j => (List.range (bWidth d)).flatMap (fun k => (List.range ((ns + 1023) / 1024)).map
      (fun i => { at_ := t + 32 + ns * ts + k, va := planeVa s c d j i k, len := 128, wr := true, cls := 0 }))))
  else
    reads ++ ((List.range ns).flatMap (fun i => (sliceVas s c d i).map
      (fun va => { at_ := t + 32 + (i + 1) * ts - 1, va := va, len := 128, wr := true, cls := 0 })))

/-- The accesses of a word that issues at its engine at `t`; C words have theirs on the agenda as soon as they execute. -/
def wordPlan (s : State) (w : Word) (c : Ctx) (t : Nat) : List PlanAcc :=
  match wordEng w with
  | 1 => vPlan w c t
  | 2 => mPlan s w c (rowOf s (bankRow c.bank)) t
  | 3 => xPlan w c t
  | 5 => bPlan s w c t
  | _ => []

/-- A step of a macro word that reaches no memory. -/
def emptyStep (a : Access) : Bool := match a.op with | .step _ _ => decide (a.len = 0) | _ => false

/-- The accesses that the words of bank `b`, its handler's or its own, have in flight, dispatched in packets up to issue kc `pkc`. -/
def inFlightOf (s : State) (hand : Bool) (b pkc : Nat) : List PlanAcc :=
  let r := rowOf s (bankRow b)
  let mine (c : Ctx) : Bool := decide (c.bank = b) && decide (c.pkc ≤ pkc) && c.hand == hand
  let agenda := (s.agenda.filter (fun e => mine e.ctx)).flatMap (fun e =>
    match e.pay with
    | .word w => wordPlan s w e.ctx e.at_
    | .ev (.accessPerform a) => if emptyStep a then []
      else (a.va :: a.more).map (fun v =>
        { at_ := e.at_, va := v, len := a.len, wr := accessWrites a, cls := a.cls, cached := throughCache s e.ctx a })
    | _ => [])
  let queued := ((r.mq ++ r.bq).filter (fun q => mine q.ctx && q.job.isNone)).flatMap (fun q => wordPlan s q.word q.ctx q.issueAt)
  let going := (r.macros.filter (fun m => mine m.2.ctx && !m.2.dead)).flatMap (fun m => wordPlan s m.2.word m.2.ctx m.2.t)
  agenda ++ queued ++ going

/-- The accesses in flight of the executing word's side of bank `b` (R228, R251). DEDUCED: a handler's fence and a handler's hand-off cover the
handler's own accesses, and not those that its strand has frozen (log entries 50 and 143). -/
def inFlight (s : State) (b pkc : Nat) : List PlanAcc := inFlightOf s s.cur.hand b pkc

/-- P of R228: the latest perform kc of every write in flight of bank `b` that reaches the region of a held entry, up to a packet;
0 where there is none. -/
def latestWrite (s : State) (b pkc : Nat) (h : HeldTok) : Nat :=
  let g := bankGroup s b
  let tbl := bankTable s b
  (inFlight s b pkc).foldl (fun m a =>
    if a.wr ∧ m < a.at_ ∧ ((segsOf tbl 4 a.va a.len).any (fun x => (checkPoints x.pa x.len).any (heldCovers g h))) then a.at_ else m) 0

/-- The latest perform kc of the accesses in flight of bank `b`, its handler's or its own, in the classes of a mask, up to a packet; 0 where there
is none. -/
def latestAccess (s : State) (hand : Bool) (b pkc mask : Nat) : Nat :=
  (inFlightOf s hand b pkc).foldl (fun m a => if bitOf mask a.cls ∧ m < a.at_ then a.at_ else m) 0

/-- The kc at which the strand of bank `b` knows that an access has performed (R251): its perform kc, and outside the zone the latency back, where
the data cache does not take it (R252). -/
def ackKc (s : State) (b : Nat) (a : PlanAcc) : Nat :=
  if a.cached then a.at_ else
  match lookup (bankTable s b) a.va with
  | some e =>
    let z := paZone s (physOf e a.va)
    a.at_ + (if z = bankStack b ∨ a.len = 0 then 0 else if z = 10 then latEntry s (if paPkg (physOf e a.va) < s.dev.pkg then 82 else 81)
      else lam s (min z 8) (bankStack b))
  | none => a.at_

/-- The latest kc at which an access of bank `b` in the classes of a mask, up to a packet, is known to have performed (R251). -/
def latestAck (s : State) (b pkc mask : Nat) : Nat :=
  let back := ((strandOf s b).acks.filter (fun a => decide (a.pkc ≤ pkc) && a.hand == s.cur.hand && bitOf mask a.cls)).foldl (fun m a => max m a.kc) 0
  (inFlight s b pkc).foldl (fun m a => if bitOf mask a.cls ∧ m < ackKc s b a then ackKc s b a else m) back

/-- An access has performed outside the zone: its acknowledgement is on its way back (R251). -/
def noteAck (s : State) (c : Ctx) (a : Access) : State :=
  let k := ackKc s c.bank { at_ := now s, va := a.va, len := if emptyStep a then 0 else a.len, wr := accessWrites a, cls := a.cls, cached := throughCache s c a }
  if k ≤ now s ∨ c.drain then s
  else
    let t := strandOf s c.bank
    setStrand s c.bank { t with acks := { kc := k, cls := a.cls, pkc := c.pkc, hand := c.hand } :: t.acks.filter (fun x => x.hand != c.hand || decide (now s < x.kc)) }

/-- The latest perform kc of the writes in flight of bank `b`, up to a packet; 0 where there is none. -/
def latestAnyWrite (s : State) (b pkc : Nat) : Nat :=
  (inFlight s b pkc).foldl (fun m a => if a.wr ∧ m < a.at_ then a.at_ else m) 0

end Sys2Proof.Machine
end

