-- ==== Sys2Proof/Machine/BankWords.lean ====
section
/-! DEFINITION. The bank words (R291 to R299) at their engine and at each of their slices. -/

namespace Sys2Proof.Machine

/-- The kinds of a B word's steps: a slice of a, b or d read, a slice or a plane of d written, the end. -/
def bRead : Nat := 0
def bWrite : Nat := 3
def bEnd : Nat := 4

/-- The steps of a slice (R296). -/
def sliceSteps (s : State) (id i : Nat) : State :=
  let c := s.cur
  let w := c.word
  let ts := bTs w c
  let d0 := 32 + i * ts
  let s1 := stepLater s id bRead i d0 3 (sliceVas s c (bRecA c) i) 128 false 1
  let s2 := if bOp w = 7 then s1 else stepLater s1 id (bRead + 1) i d0 3 (sliceVas s c (bRecB c) i) 128 false 2
  let s3 := if bOp w = 7 then s2 else stepLater s2 id (bRead + 2) i d0 3 (sliceVas s c (bRecD c) i) 128 false 3
  if bOp w = 7 then s3 else stepLater s3 id bWrite i (d0 + ts - 1) 4 (sliceVas s c (bRecD c) i) 128 true 3

/-- The planes `k` of the slices of d that the sums of `ns` slices reach, in every active cell (R295, R296). -/
def sumVas (s : State) (c : Ctx) (ns k : Nat) : List Nat :=
  (List.range (recNcol (bRecD c))).flatMap (fun j => (List.range ((ns + 1023) / 1024)).map (fun i => planeVa s c (bRecD c) j i k))

/-- The byte masks under which those planes are written: elements from the last sum up keep their content (R295, R449). -/
def sumMasks (c : Ctx) (ns : Nat) : List Nat :=
  (List.range (recNcol (bRecD c))).flatMap (fun _ => (List.range ((ns + 1023) / 1024)).map (fun i =>
    if 1024 * (i + 1) ≤ ns then 2 ^ 128 - 1 else max 1 (2 ^ ((ns - 1024 * i) / 8) - 1)))

/-- A B word issues at its engine (R296). -/
def bankIssue (s : State) : State :=
  let c := s.cur
  let ns := bSlices (bRecA c)
  let m := newMacro s none none false
  let s1 := (List.range ns).foldl (fun st i => sliceSteps st m.1 i) m.2
  let s2 := if bOp c.word = 7 then
      (List.range (bWidth (bRecD c))).foldl (fun st k =>
        stepUnder st m.1 bWrite k (32 + ns * bTs c.word c + k) 4 (sumVas s c ns k) 128 true 3 (sumMasks c ns)) s1
    else s1
  stepLater s2 m.1 bEnd 0 (bBusy c.word c - 1) 5 [] 0 false 0

/-- `badd` (R295). -/
def execBadd (g : BitVec 4) (a b d : BitVec 5) (t u : BitVec 1) (s : State) : Host.Outcome State Fault Refusal :=
  runMacro s g (.badd g a b d t u) bankIssue

/-- `bsub` (R295). -/
def execBsub (g : BitVec 4) (a b d : BitVec 5) (t u : BitVec 1) (s : State) : Host.Outcome State Fault Refusal :=
  runMacro s g (.bsub g a b d t u) bankIssue

/-- `bmul` (R295). -/
def execBmul (g : BitVec 4) (a b d : BitVec 5) (t u : BitVec 1) (s : State) : Host.Outcome State Fault Refusal :=
  runMacro s g (.bmul g a b d t u) bankIssue

/-- `bmac` (R295). -/
def execBmac (g : BitVec 4) (a b d : BitVec 5) (t u : BitVec 1) (s : State) : Host.Outcome State Fault Refusal :=
  runMacro s g (.bmac g a b d t u) bankIssue

/-- `bcmp` (R295). -/
def execBcmp (g : BitVec 4) (a b d : BitVec 5) (v : BitVec 1) (c : BitVec 2) (s : State) : Host.Outcome State Fault Refusal :=
  runMacro s g (.bcmp g a b d v c) bankIssue

/-- `blog` (R295). -/
def execBlog (g : BitVec 4) (a b d : BitVec 5) (t : BitVec 4) (s : State) : Host.Outcome State Fault Refusal :=
  runMacro s g (.blog g a b d t) bankIssue

/-- `bsum` (R295). -/
def execBsum (g : BitVec 4) (a d : BitVec 5) (t u : BitVec 1) (s : State) : Host.Outcome State Fault Refusal :=
  runMacro s g (.bsum g a d t u) bankIssue

/-- The key of half `h` of plane `k` of an operand in cell `j`. -/
def planeKey (o j k h : Nat) : Nat := ((o * 8 + j) * 16 + k) * 2 + h

/-- The 1,024 bits of a plane that a B word has read. -/
def planeOf (m : Macro) (o j k : Nat) : Nat :=
  (m.buf.getD (planeKey o j k 0) 0).toNat + (m.buf.getD (planeKey o j k 1) 0).toNat * 2 ^ 512

/-- The element of lane `l` of an operand of width `w` in cell `j`, as a bit pattern (R291). -/
def elemPat (ps : List Nat) (l : Nat) : Nat := (ps.zip (List.range ps.length)).foldl (fun x e => if bitOf e.1 l then x + 2 ^ e.2 else x) 0

/-- An element as an integer: signed or unsigned (R295). -/
def elemInt (sg : Bool) (w x : Nat) : Int := if sg then signedOf w x else (x : Int)

/-- `Fit` of an exact result into `wd` bits (R295). -/
def bankFit (sg sat : Bool) (wd : Nat) (r : Int) : Nat :=
  if !sat then wrapTo wd r
  else
    let lo : Int := if sg then -(2 ^ (wd - 1) : Int) else 0
    let hi : Int := if sg then (2 ^ (wd - 1) : Int) - 1 else (2 ^ wd : Int) - 1
    wrapTo wd (if r < lo then lo else if hi < r then hi else r)

/-- `blog` on two bit patterns (R295): bit k of the result is the table's bit 2 × bit(A, k) + bit(B, k). -/
def bankLogic (table wd x y : Nat) : Nat :=
  (List.range wd).foldl (fun r k =>
    if bitOf table ((if bitOf x k then 2 else 0) + (if bitOf y k then 1 else 0)) then r + 2 ^ k else r) 0

/-- One element's result (R295): from the patterns of a, b and d. -/
def bankElem (op f wa wb wd x y z : Nat) : Nat :=
  let sg := bitOf f 0
  let sat := bitOf f 1
  let a := elemInt sg wa x
  let b := elemInt sg wb y
  match op with
  | 1 => bankFit sg sat wd (a + b)
  | 2 => bankFit sg sat wd (a - b)
  | 3 => bankFit sg sat wd (a * b)
  | 4 => bankFit sg sat wd (elemInt sg wd z + a * b)
  | 5 =>
    let p := elemInt (bitOf f 2) wa x
    let q := elemInt (bitOf f 2) wb y
    let r := match f % 4 with
      | 0 => decide (p = q)
      | 1 => decide (p ≠ q)
      | 2 => decide (p < q)
      | _ => decide (p ≤ q)
    if r then 1 else 0
  | _ => bankLogic f wd x y

/-- The results of a slice in one cell, as planes of d. -/
def bankSlice (m : Macro) (j : Nat) : List Nat :=
  let w := m.word
  let wa := bWidth (bRecA m.ctx)
  let wb := bWidth (bRecB m.ctx)
  let wd := bWidth (bRecD m.ctx)
  let pa := (List.range wa).map (planeOf m 0 j)
  let pb := (List.range wb).map (planeOf m 1 j)
  let pd := (List.range wd).map (planeOf m 2 j)
  let rs := (List.range 1024).map (fun l => bankElem (bOp w) (bF w) wa wb wd (elemPat pa l) (elemPat pb l) (elemPat pd l))
  (List.range wd).map (fun k => (rs.zip (List.range 1024)).foldl (fun x e => if bitOf e.1 k then x + 2 ^ e.2 else x) 0)

/-- The exact sum of a slice in one cell (R295). -/
def bankSum (m : Macro) (j : Nat) : Int :=
  let wa := bWidth (bRecA m.ctx)
  let pa := (List.range wa).map (planeOf m 0 j)
  (List.range 1024).foldl (fun r l => r + elemInt (bitOf (bF m.word) 0) wa (elemPat pa l)) 0

/-- A slice of operand `o` has been read. -/
def bankRead (s : State) (id o i : Nat) (a : Access) (m : Macro) : State :=
  let r := if o = 0 then bRecA m.ctx else if o = 1 then bRecB m.ctx else bRecD m.ctx
  let cells := List.range (recNcol r)
  let buf := cells.foldl (fun (x : Sparse (BitVec 512)) j => (List.range (bWidth r)).foldl (fun y k =>
    let n := readVaNat s s.cur (planeVa s m.ctx r j i k) 128
    (y.put (planeKey o j k 0) (BitVec.ofNat 512 n)).put (planeKey o j k 1) (BitVec.ofNat 512 (n / 2 ^ 512))) x) m.buf
  let m1 := { m with buf := buf }
  let words := if bOp m.word = 7 then
      cells.foldl (fun (x : Sparse Word) j => x.put (j * 65536 + i) (BitVec.ofInt 32 (bankSum m1 j))) m.words
    else m.words
  putMacro (afterReads s s.cur a) (curRow s) id { m1 with words := words }

/-- A slice of d is written (R296). -/
def bankWrite (s : State) (i : Nat) (m : Macro) : State :=
  let d := bRecD m.ctx
  (List.range (recNcol d)).foldl (fun st j =>
    let ps := bankSlice m j
    (ps.zip (List.range ps.length)).foldl (fun x e => writeVa x s.cur (planeVa s m.ctx d j i e.2) (leBytes 128 e.1)) st) s

/-- Plane `k` of the sums is written (R295, R296): elements from the last sum up keep their content. -/
def bankSums (s : State) (k : Nat) (m : Macro) : State :=
  let d := bRecD m.ctx
  let ns := bSlices (bRecA m.ctx)
  let f := bF m.word
  (List.range (recNcol d)).foldl (fun st j =>
    (List.range ((ns + 1023) / 1024)).foldl (fun x i =>
      let va := planeVa s m.ctx d j i k
      let old := readVaNat x s.cur va 128
      let new := (List.range 1024).foldl (fun n l =>
        let e := 1024 * i + l
        let b := if e < ns then bitOf (bankFit (bitOf f 0) (bitOf f 1) (bWidth d) (m.words.getD (j * 65536 + e) 0).toInt) k else bitOf old l
        if b then n + 2 ^ l else n) 0
      writeVaMasked x s.cur va (leBytes 128 new) (2 ^ ((min 1024 (ns - 1024 * i) + 7) / 8) - 1)) st) s

/-- What a step of a B word does (R296, R299). -/
def bStep (s : State) (id k : Nat) (a : Access) : State :=
  match macroAt s (curRow s) id with
  | none => s
  | some m =>
    let cls := stepCls k
    let i := stepIdx k
    if cls = bEnd then dropMacro s (curRow s) id
    else if m.dead then s
    else if cls = bWrite then (if bOp m.word = 7 then bankSums s i m else bankWrite s i m)
    else bankRead s id cls i a m

/-- What a late fault leaves of a B word (R299): it writes nothing further, but for a page that is away. -/
def bFails (s : State) (id cause : Nat) : State :=
  match macroAt s (curRow s) id with
  | some m => if cause = 0x04 then s else putMacro s (curRow s) id { m with dead := true }
  | none => s

end Sys2Proof.Machine
end

