-- ==== Sys2Proof/Machine/TokenWords.lean ====
section
/-! DEFINITION. The token words (R227 to R236) and the hand-offs they start (R228, R451): what each does at its engine, what its
result does when it lands, and HANDOFF_RELEASE, HANDOFF_ARRIVAL and TKTAKE_TIMEOUT. -/

namespace Sys2Proof.Machine

/-- The held-token set of an agent changed by `f`: a placed strand's, the saved set of one that is not, a job's card, or the host
agent's (R222, R232, R243). Another package keeps those of its own agents. -/
def mapHeld (s : State) (agent : Nat) (f : List HeldTok → List HeldTok) : State :=
  if agPkg agent ≠ s.dev.pkg then s else
  match agKind agent with
  | 0 =>
    (match agentBank s agent with
     | some b => setStrand s b { strandOf s b with held := f (strandOf s b).held }
     | none =>
       let g := agGroup agent
       let k := agStack agent * 16 + agRow agent
       match Sparse.find s.groups g with
       | none => s
       | some x =>
         match Sparse.find x.saves k with
         | none => s
         | some r =>
           let r1 := { r with held := f r.held }
           let s1 := setGroup s g { x with saves := x.saves.put k r1 }
           if x.st = .yielded then writeSave s1 g (agStack agent) (agRow agent) r1 else s1)
  | 1 =>
    let k := agent % 1024
    (match Sparse.find s.jobs k with
     | some j => { s with jobs := s.jobs.put k { j with toks := f j.toks } }
     | none => s)
  | 2 => setContext s (agCtx agent) { contextOf s (agCtx agent) with hostHeld := f (contextOf s (agCtx agent)).hostHeld }
  | _ => s

/-- The entry of a set that names a token. -/
def heldEntry (l : List HeldTok) (id : Nat) : Option HeldTok := l.find? (fun h => decide (h.id = id))

/-- The entry of a set that names a token, changed. -/
def onEntry (id : Nat) (f : HeldTok → HeldTok) (l : List HeldTok) : List HeldTok := l.map (fun h => if h.id = id then f h else h)

/-- A set without a token. -/
def dropEntry (id : Nat) (l : List HeldTok) : List HeldTok := l.filter (fun h => h.id != id)

/-- A new entry of a set, clean (R224). -/
def freshEntry (s : State) (id : Nat) (mode : HeldMode) : HeldTok :=
  let t := tokenOf s (tokKey s id)
  { id := id, base := t.base, size := t.size, mode := mode, dirty := false, leaving := false, spad := false }

/-- The smallest scope that covers the giver and the target of a hand-off (R237, R246). -/
def partyScope (s : State) (giver target : Nat) : Nat := coverScope s (spotOf s giver) (spotOf s target)

/-- A line of a data cache lies in a region. No line of scratchpad is cached, so that the group does not matter. -/
def lineIn (s : State) (h : HeldTok) (l : Nat) : Bool := heldCovers Group.blank h (globalOf s (64 * l))

/-- The dirty lines of a region that an agent wrote, in whichever core it was then: the row, the line's number and the line (R225). -/
def dirtyLines (s : State) (agent : Nat) (h : HeldTok) : List (Nat × Nat × CacheLine) :=
  s.rows.flatMap (fun r => (r.2.dcache.filter (fun e => decide (e.2.owner = agent) && decide (e.2.dirty ≠ 0) && lineIn s h e.1)).map (fun e => (r.1, e)))

/-- A hand-off writes back the giver's dirty cache lines in the region (R225). -/
def writeBack (s : State) (agent : Nat) (h : HeldTok) : State :=
  (dirtyLines s agent h).foldl (fun st e => cleanLine st e.1 e.2.1 e.2.2) s

/-- A take invalidates the taker's cache lines in the region (R225): those of its core, and those it filled or wrote in another. -/
def invalidate (s : State) (b : Nat) (h : HeldTok) : State :=
  let me := bankAgent s b
  { s with rows := s.rows.map (fun r => (r.1, { r.2 with dcache := r.2.dcache.filter (fun e =>
      !(lineIn s h e.1 && (decide (r.1 = bankRow b) || decide (e.2.owner = me)))) })) }

/-- The cache lines of an agent's strand in a region are invalid from now on, where it is placed (R225, R237). -/
def invalidateFor (s : State) (agent : Nat) (h : HeldTok) : State :=
  match agentBank s agent with
  | some b => invalidate s b h
  | none => s

/-- The kc by which the executing hand-off word reaches its H, after t (R228): 12, or until the kc after the last write in flight to
the region; in loose and safelight modes dirty cache lines take a variable time to write back (log entry 3). -/
def handDelay (s : State) (h : HeldTok) : Nat × State :=
  let t := now s
  let p := latestWrite s s.cur.bank s.cur.pkc h
  let d := if p + 1 ≤ t + 12 then 12 else p + 1 - t
  if (dirtyLines s (bankAgent s s.cur.bank) h).isEmpty then (d, s)
  else
    let (r, s1) := freeValue s
    (d + 24 + r, s1)

/-- A hand-off word: the entry is leaving from the kc after T, and the hand-off stands for its H (R229, R230, R232). -/
def handWord (s : State) (kind : HandKind) (target scope : Nat) : State :=
  let b := s.cur.bank
  let id := s.cur.ra.toNat % 2 ^ 32
  match heldEntry (strandOf s b).held id with
  | none => s
  | some h =>
    let me := bankAgent s b
    let s1 := if kind = .share then s else setStrand s b { strandOf s b with held := onEntry id (fun x => { x with leaving := true }) (strandOf s b).held }
    let (d, s2) := handDelay s1 h
    later s2 d 0 4 (.handoffRelease
      { kind := kind, tok := id, giver := me, target := target, scope := max scope (partyScope s me target), zone := bankStack b, stamp := now s + d })

/-- `tklend` (R229). -/
def execTklend (g : BitVec 4) (_a _b : BitVec 5) (c : BitVec 4) (s : State) : Host.Outcome State Fault Refusal :=
  runWord s g (fun s => handWord s .lend (s.cur.rb.toNat % 2 ^ 32) c.toNat)

/-- `tklend.pass` (R229). -/
def execTklendPass (g : BitVec 4) (_a _b : BitVec 5) (c : BitVec 4) (s : State) : Host.Outcome State Fault Refusal :=
  runWord s g (fun s => handWord s .pass (s.cur.rb.toNat % 2 ^ 32) c.toNat)

/-- `tkshare` (R230): the count of shares advances at T + 1. -/
def execTkshare (g : BitVec 4) (_a _b : BitVec 5) (c : BitVec 4) (s : State) : Host.Outcome State Fault Refusal :=
  runWord s g (fun s =>
    let i := tokKey s (s.cur.ra.toNat % 2 ^ 32)
    let t := tokenOf s i
    handWord (setToken s i { t with shares := t.shares + 1, st := if t.st = .owned then .shared else t.st }) .share (s.cur.rb.toNat % 2 ^ 32) c.toNat)

/-- `tkret` (R232). -/
def execTkret (g : BitVec 4) (_a : BitVec 5) (c : BitVec 4) (s : State) : Host.Outcome State Fault Refusal :=
  runWord s g (fun s => handWord s .ret (tokenOf s (tokKey s (s.cur.ra.toNat % 2 ^ 32))).lender c.toNat)

/-- An agent lies in a stack: a placed strand of it, or a job of its scheduler (R228, R234). -/
def agentIn (s : State) (z a : Nat) : Bool :=
  match agKind a with
  | 0 => (match agentBank s a with | some b => decide (bankStack b = z) | none => false)
  | 1 => decide (agPkg a = s.dev.pkg) && decide (a / 64 % 16 = z)
  | _ => false

/-- The kc after t at which a token word's result lands: 12 where it is local, or in timed mode; else a variable kc of at least 24
(R228; log entry 3). -/
def tokenDelay (s : State) (local_ : Bool) : Nat × State :=
  if local_ || timedNow s s.cur.bank then (12, s)
  else
    let (r, s1) := freeValue s
    (24 + r, s1)

/-- `tkshare.rv` (R230). -/
def execTkshareRv (g : BitVec 4) (_a _b : BitVec 5) (_c : BitVec 4) (s : State) : Host.Outcome State Fault Refusal :=
  runWord s g (fun s =>
    let (d, s1) := tokenDelay s (agentIn s (bankStack s.cur.bank) (s.cur.rb.toNat % 2 ^ 32))
    landLater s1 d (.tkShareRv (s.cur.ra.toNat % 2 ^ 32) (s.cur.rb.toNat % 2 ^ 32)) 0)

/-- `tkret.sh` (R232). -/
def execTkretSh (g : BitVec 4) (_a : BitVec 5) (_c : BitVec 4) (s : State) : Host.Outcome State Fault Refusal :=
  runWord s g (fun s =>
    let id := s.cur.ra.toNat % 2 ^ 32
    let (d, s1) := tokenDelay s (agentIn s (bankStack s.cur.bank) (tokenOf s (tokKey s id)).holder)
    landLater s1 d (.tkRetSh id) 0)

/-- The hand-off, or the grant, that a take waits for has reached the caller's zone (R231). -/
def handArrived (s : State) (id agent : Nat) (share : Bool) : Bool :=
  let t := tokenOf s (tokKey s id)
  tokCurrent s id && (if share then t.grants.contains (agent + 2 ^ 32)
    else t.st == .inFlight && decide (t.target = agent) && t.arrived)

/-- A take at its engine (R231): timed, its slack runs; loose, it completes 12 kc after the hand-off's arrival, until which the strand
waits. -/
def takeWord (s : State) (share : Bool) : State :=
  let b := s.cur.bank
  let id := s.cur.ra.toNat % 2 ^ 32
  if timedNow s b then later s (s.cur.rb.toNat % 2 ^ 32) 5 4 (.tktakeTimeout id share)
  else if handArrived s id (bankAgent s b) share then landLater s 12 (.tkTaken id share) 0
  else setStrand s b { strandOf s b with wait := .take id share :: (strandOf s b).wait }

/-- `tktake` (R231). -/
def execTktake (g : BitVec 4) (_a _b : BitVec 5) (_c : BitVec 4) (s : State) : Host.Outcome State Fault Refusal :=
  runWord s g (fun s => takeWord s false)

/-- `tktake.sh` (R231). -/
def execTktakeSh (g : BitVec 4) (_a _b : BitVec 5) (_c : BitVec 4) (s : State) : Host.Outcome State Fault Refusal :=
  runWord s g (fun s => takeWord s true)

/-- `tksplit` (R233). -/
def execTksplit (g : BitVec 4) (a b : BitVec 5) (s : State) : Host.Outcome State Fault Refusal :=
  runWord s g (fun s => landLater s 12 (.tkSplit (s.cur.ra.toNat % 2 ^ 32) a.toNat b.toNat) 0)

/-- `tkjoin` (R233). -/
def execTkjoin (g : BitVec 4) (a b : BitVec 5) (s : State) : Host.Outcome State Fault Refusal :=
  runWord s g (fun s => landLater s 12 (.tkJoin (s.cur.ra.toNat % 2 ^ 32) (s.cur.rb.toNat % 2 ^ 32) a.toNat b.toNat) 0)

/-- A `tkqry` form (R234, R235): sampled at the end of t + 11; at scope `package` the result lands at a variable kc. -/
def queryWord (s : State) (f b scope : Nat) : State :=
  let (d, s1) := tokenDelay s (decide (scope = 4))
  later s1 (d - 1) 5 4 (.resultLand { kind := .tkQry f (s.cur.ra.toNat % 2 ^ 32) b scope, flags := 0 })

/-- `tkqry` (R234). -/
def execTkqry (g : BitVec 4) (_a b : BitVec 5) (c : BitVec 4) (s : State) : Host.Outcome State Fault Refusal :=
  runWord s g (fun s => queryWord s 0 b.toNat c.toNat)

/-- `tkqry.base` (R234). -/
def execTkqryBase (g : BitVec 4) (_a b : BitVec 5) (c : BitVec 4) (s : State) : Host.Outcome State Fault Refusal :=
  runWord s g (fun s => queryWord s 1 b.toNat c.toNat)

/-- `tkqry.ag` (R234). -/
def execTkqryAg (g : BitVec 4) (_a b : BitVec 5) (c : BitVec 4) (s : State) : Host.Outcome State Fault Refusal :=
  runWord s g (fun s => queryWord s 2 b.toNat c.toNat)

/-- `tkmint` (R236). -/
def execTkmint (g : BitVec 4) (_a b : BitVec 5) (s : State) : Host.Outcome State Fault Refusal :=
  runWord s g (fun s =>
    let (d, s1) := tokenDelay s false
    landLater s1 d (.tkMint (s.cur.ra.toNat % 2 ^ 32) b.toNat) 0)

/-- `tkmint.new` (R236). -/
def execTkmintNew (g : BitVec 4) (_a b : BitVec 5) (s : State) : Host.Outcome State Fault Refusal :=
  runWord s g (fun s =>
    let (d, s1) := tokenDelay s false
    landLater s1 d (.tkMintNew s.cur.ra b.toNat) 0)

/-- The code of a token state (R221). -/
def tokCode (t : TokState) : Nat :=
  match t with
  | .free => 0 | .owned => 1 | .lent => 2 | .shared => 3 | .inFlight => 4 | .lost => 5 | .orphaned => 6

/-- What a `tkqry` form reads (R234). DEDUCED: an entry that is a share counts as held by the caller (log entry 141). -/
def queryValue (s : State) (b f id scope : Nat) : Nat :=
  let t := tokenOf s (tokKey s id)
  let z := bankStack b
  let seen := scope ≠ 4 ∨ agentIn s z t.holder ∨ agentIn s z t.lender ∨ agentIn s z t.target
  let mine := heldEntry (strandOf s b).held id
  if seen then
    match f with
    | 0 => t.holder * 2 ^ 32 + (match mine with | some h => if h.mode == .lentOut then 0 else 2 ^ 23 | none => 0) + (match mine with | some h => if h.dirty then 2 ^ 22 else 0 | none => 0) +
        t.size * 2 ^ 16 + t.shares * 2 ^ 4 + tokCode t.st
    | 1 => tokHome id * 2 ^ 48 + t.base
    | _ => t.target * 2 ^ 32 + t.lender
  else if f = 0 then 15 else 0

/-- `tkshare.rv` completes (R230): a grant that its agent has not taken is withdrawn. -/
def landShareRv (s : State) (id tgt : Nat) : State :=
  let i := tokKey s id
  let t := tokenOf s i
  if tokCurrent s id ∧ (t.grants.contains tgt ∨ t.grants.contains (tgt + 2 ^ 32)) then
    releaseShare (setToken s i { t with grants := (t.grants.erase (tgt + 2 ^ 32)).erase tgt }) i
  else s

/-- `tkret.sh` completes (R232). -/
def landRetSh (s : State) (b id : Nat) : State :=
  let t := strandOf s b
  match t.held.find? (fun h => decide (h.id = id) && h.mode == .share) with
  | some _ =>
    releaseShare (setStrand s b { t with held := t.held.filter (fun h => !(decide (h.id = id) && h.mode == .share)) }) (tokKey s id)
  | none => s

/-- A take completes (R231, R226): the entry is own or share, and clean. -/
def landTaken (s : State) (b id : Nat) (share : Bool) : State :=
  let i := tokKey s id
  let t := tokenOf s i
  let me := bankAgent s b
  if !handArrived s id me share then s
  else
    let t1 := if share then { t with grants := t.grants.erase (me + 2 ^ 32) }
      else { t with st := if t.lender = noAgent then .owned else .lent, holder := me, target := noAgent, arrived := false, ret := false }
    let s1 := setToken s i t1
    let h := freshEntry s1 id (if share then .share else .own)
    let s1 := if share then sendNews s1 id 2 me (if i < 65536 then s.dev.pkg else agPkg t.holder) else sendNews s1 id 1 me (tokHome id)
    invalidate (setStrand s1 b { strandOf s1 b with held := (strandOf s1 b).held ++ [h] }) b h

/-- Entry `i` of the token table is free. -/
def entryFree (s : State) (i : Nat) : Bool := (tokenOf s i).st == .free

/-- The table has a free entry. -/
def anyFree (s : State) : Bool := (firstFrom (entryFree s) 0 65536).isSome

/-- The free entry that a new token takes: which one is a free choice (log entry 15), the first at or after an index that wraps. -/
def freeEntry (s : State) : Option Nat × State :=
  let (r, s1) := freeValue s
  ((firstFrom (fun i => entryFree s ((r + i) % 65536)) 0 65536).map (fun i => (r + i) % 65536), s1)

/-- `tksplit` completes (R233): the lower half keeps the entry, the upper half takes one of the group's pool. -/
def landSplit (s : State) (b id ra rb : Nat) : State :=
  let i := tokKey s id
  let t := tokenOf s i
  let g := (strandOf s b).grp
  let z := bankStack b
  let st := stackOf s z
  let (e, s0) := freeEntry s
  match heldEntry (strandOf s b).held id, e with
  | some h, some u =>
    let half := 2 ^ (t.size - 1)
    let s1 := setStack s0 z { st with pool := st.pool.put g (st.pool.getD g 0 - 1) }
    let s2 := setToken s1 i { t with size := t.size - 1, gen := nextTokGen t.gen }
    let s3 := setToken s2 u { t with size := t.size - 1, base := t.base + half, gen := nextTokGen (tokenOf s2 u).gen }
    let lo := tokId s3 i
    let up := tokId s3 u
    let x := strandOf s3 b
    let x1 := { x with held := onEntry id (fun y => { y with id := lo, size := t.size - 1 }) x.held ++
      [{ h with id := up, base := t.base + half, size := t.size - 1 }] }
    putReg (putReg (setStrand s3 b x1) b ra (BitVec.ofNat 64 lo)) b rb (BitVec.ofNat 64 up)
  | _, _ => s

/-- `tkjoin` completes (R233): the upper entry goes free and back to the pool. -/
def landJoin (s : State) (b lo up ra rb : Nat) : State :=
  let i := tokKey s lo
  let u := tokKey s up
  let t := tokenOf s i
  let g := (strandOf s b).grp
  let z := bankStack b
  let st := stackOf s z
  let x := strandOf s b
  match heldEntry x.held lo, heldEntry x.held up with
  | some h, some k =>
    let s1 := setStack s z { st with pool := st.pool.put g (st.pool.getD g 0 + 1) }
    let s2 := setToken s1 i { t with size := t.size + 1, gen := nextTokGen t.gen }
    let s3 := setToken s2 u { Token.free with gen := nextTokGen (tokenOf s2 u).gen }
    let id := tokId s3 i
    let x1 := { x with held := onEntry lo (fun y => { y with id := id, size := t.size + 1, dirty := h.dirty || k.dirty }) (dropEntry up x.held) }
    putReg (putReg (setStrand s3 b x1) b ra (BitVec.ofNat 64 id)) b rb 0
  | _, _ => s

/-- A token lost or orphaned is minted again for a holder (R236, R226): generation advanced, no share, no lender. -/
def mintAgain (s : State) (i holder : Nat) : State :=
  let t := tokenOf s i
  setToken s i { t with st := .owned, gen := nextTokGen t.gen, holder := holder, lender := noAgent, target := noAgent, shares := 0,
                        grants := [], arrived := false, ret := false }

/-- A register that receives a value the spec does not state (log entry 3). -/
def freeReg (s : State) (b r : Nat) : State :=
  let (v, s1) := freeValue s
  putReg s1 b r (BitVec.ofNat 64 v)

/-- `tkmint` completes (R236). Where the token has been minted meanwhile, the result is a value the spec does not state. -/
def landMint (s : State) (b id rb : Nat) : State :=
  let i := tokKey s id
  let t := tokenOf s i
  if t.gen = tokGen id ∧ (t.st = .lost ∨ t.st = .orphaned) then
    let s1 := mintAgain s i (bankAgent s b)
    let n := tokId s1 i
    let x := strandOf s1 b
    putReg (setStrand s1 b { x with held := x.held ++ [freshEntry s1 n .own] }) b rb (BitVec.ofNat 64 n)
  else freeReg s b rb

/-- The scratchpad budget region of a group, in one of its cells, meets `n` bytes from `base` (R223). -/
def spadMeets (g : Group) (base n : Nat) : Bool :=
  decide (g.spadLen ≠ 0) && (groupRows g).any (fun r => (List.range 8).any (fun c =>
    let lo := baseSpad + (r * 8 + c) * 0x80000 + g.spadBase
    decide (lo < base + n) && decide (base < lo + g.spadLen)))

/-- The region of entry `i`'s token meets `2^z` bytes from `base` (R218); that of a placement token is its group's (R223). -/
def regionMeets (s : State) (i base z : Nat) : Bool :=
  let t := tokenOf s i
  t.st != .free && (if t.size = 0 then s.groups.any (fun e => decide (e.2.ptok ≠ 0) && decide (tokKey s e.2.ptok = i) && spadMeets e.2 base (2 ^ z))
    else runsShare t.base (2 ^ t.size) base (2 ^ z))

/-- The region that `tkmint.new` and a TOKEN packet name (R236): its package-local base and its size, where it is one that meets no other token's
region, in whichever DRAM window (R275). -/
def regionOf (s : State) (v : Dword) : Option (Nat × Nat) :=
  let base := bitsOf v.toNat 12 40 * 4096
  let z := bitsOf v.toNat 0 6
  if z < 12 ∨ 36 < z ∨ base % 2 ^ z ≠ 0 ∨ paPkg base ≠ s.dev.pkg then none
  else if s.tokens.any (fun e => decide (e.1 < 65536) && regionMeets s e.1 (paLocal base) z) then none
  else some (paLocal base, z)

/-- The context's `tok` budget has room for a token more, besides the placement tokens (R236, R302, R321). -/
def tokRoom (s : State) (c : Nat) : Bool :=
  decide ((s.tokens.filter (fun e => decide (e.1 < 65536) && e.2.st != .free && decide (e.2.ctx = c) && decide (e.2.size ≠ 0))).length < (contextOf s c).bud.tok)

/-- A new token of a context for a holder (R226, R236). -/
def mintNew (s : State) (i base z ctx holder : Nat) : State :=
  setToken s i { Token.free with st := .owned, size := z, base := base, gen := nextTokGen (tokenOf s i).gen, holder := holder, ctx := ctx }

/-- `tkmint.new` completes (R236). -/
def landMintNew (s : State) (b : Nat) (v : Dword) (rb : Nat) : State :=
  let (e, s0) := freeEntry s
  match regionOf s v, e with
  | some (base, z), some i =>
    let s1 := mintNew s0 i base z (bankGroup s b).ctx (bankAgent s b)
    let n := tokId s1 i
    let x := strandOf s1 b
    putReg (setStrand s1 b { x with held := x.held ++ [freshEntry s1 n .own] }) b rb (BitVec.ofNat 64 n)
  | _, _ => freeReg s b rb

/-- The strand's waits that `f` picks have ended: with the last of them, its held packet may issue (R82, R83). -/
def endWaits (s : State) (b : Nat) (f : WaitFor → Bool) : State :=
  let t := strandOf s b
  let rest := t.wait.filter (fun w => !f w)
  if rest.length = t.wait.length then s
  else
    let s1 := setStrand s b { t with wait := rest }
    if rest.isEmpty then
      post s1 (ctxClk { Ctx.none with bank := b, grp := t.grp, hand := t.trap }) (timeOf s1 (ctxClk { Ctx.none with bank := b, grp := t.grp, hand := t.trap }))
        0 (bankRow b) 0 { Ctx.none with bank := b, grp := t.grp, hand := t.trap } (.ev (.looseWaitEnd b))
    else s1

/-- What happens at a hand-off's H (R229, R230, R232): the giver's lines are written back, and the token is in flight, or the grant
recorded. A job holds what is handed to it at once (R268), and
what goes to another package passes into its link's custody (R241). -/
def releaseHandoff (s : State) (h : Handoff) : State :=
  let i := tokKey s h.tok
  let t := tokenOf s i
  if !tokCurrent s h.tok then s
  else
    let entry := freshEntry s h.tok .own
    let s1 := writeBack s h.giver entry
    let sent := { t with st := .inFlight, hscope := h.scope, target := h.target, arrived := false, ret := false }
    let s2 := match h.kind with
      | .lend => setToken (mapHeld s1 h.giver (onEntry h.tok (fun x => { x with mode := .lentOut, leaving := false }))) i { sent with lender := h.giver }
      | .pass => setToken (mapHeld s1 h.giver (dropEntry h.tok)) i { sent with lender := noAgent }
      | .ret => setToken (mapHeld s1 h.giver (dropEntry h.tok)) i { sent with ret := true }
      | .share => setToken s1 i { t with grants := h.target :: t.grants, hscope := h.scope }
    if agKind h.target = 1 ∧ agPkg h.target = s.dev.pkg then
      let x := tokenOf s2 i
      setToken s2 i { x with st := if x.lender = noAgent then .owned else .lent, holder := h.target, target := noAgent }
    else postArrival s2 h

/-- HANDOFF_RELEASE (R228, R229). -/
def execHandoffRelease (h : Handoff) (s : State) : Host.Outcome State Fault Refusal := .next (releaseHandoff s h)

/-- A returned token reaches its lender (R232): the lent-out entry is own and clean, and the lender reads the region anew (R225, R237). -/
def returnArrives (s : State) (h : Handoff) : State :=
  let i := tokKey s h.tok
  if agentGone s h.target then orphan s i
  else
    let t := tokenOf s i
    let s1 := setToken s i { t with st := .owned, holder := h.target, lender := noAgent, target := noAgent, arrived := false, ret := false }
    invalidateFor (mapHeld s1 h.target (onEntry h.tok (fun x => { x with mode := .own, dirty := false, leaving := false }))) h.target
      (freshEntry s1 h.tok .own)

/-- A token handed to an agent that takes no word is held at its arrival (R451). -/
def holdArrives (s : State) (h : Handoff) : State :=
  let i := tokKey s h.tok
  let t := tokenOf s i
  let s1 := setToken s i { t with st := if t.lender = noAgent then .owned else .lent, holder := h.target, target := noAgent, arrived := false, ret := false }
  mapHeld s1 h.target (fun l => l ++ [freshEntry s1 h.tok .own])

/-- A strand that waits for a hand-off in loose mode: the take completes 12 kc after the arrival (R231). -/
def wakeTake (s : State) (agent id : Nat) (share : Bool) : State :=
  match agentBank s agent with
  | none => s
  | some b =>
    let t := strandOf s b
    if t.wait.contains (.take id share) then
      let c : Ctx := { Ctx.none with bank := b, grp := t.grp, hand := t.trap }
      let s1 := post s (ctxClk c) (timeOf s (ctxClk c) + 12) 0 (bankRow b) 4 { c with arg := timeOf s (ctxClk c) }
        (.ev (.resultLand { kind := .tkTaken id share, flags := 0 }))
      endWaits s1 b (fun w => w == .take id share)
    else s

/-- A hand-off reaches its target (R451). -/
def arriveHandoff (s : State) (h : Handoff) : State :=
  let i := tokKey s h.tok
  let t := tokenOf s i
  if !tokCurrent s h.tok then s
  else match h.kind with
    | .share =>
      if t.grants.contains h.target ∧ (agKind h.target = 2 ∨ agKind h.target = 3) then
        mapHeld (setToken s i { t with grants := t.grants.erase h.target }) h.target (fun l => l ++ [freshEntry s h.tok .share])
      else if t.grants.contains h.target then
        wakeTake (setToken s i { t with grants := (h.target + 2 ^ 32) :: t.grants.erase h.target }) h.target h.tok true
      else s
    | k =>
      if t.st ≠ .inFlight ∨ t.target ≠ h.target then s
      else if agPkg h.target ≠ s.dev.pkg then s
      else if k = .ret then returnArrives s h
      else if agentGone s h.target then backToLender s i h.giver
      else if agKind h.target = 2 ∨ agKind h.target = 3 then holdArrives s h
      else wakeTake (setToken s i { t with arrived := true }) h.target h.tok false

/-- HANDOFF_ARRIVAL (R231, R232, R451). -/
def execHandoffArrival (h : Handoff) (s : State) : Host.Outcome State Fault Refusal := .next (arriveHandoff s h)

/-- The record of a take whose slack has run out (R231). -/
def takeRec (s : State) (c : Ctx) (id : Nat) : FaultRec := mkRec s c 0x13 11 id 0 true false

/-- TKTAKE_TIMEOUT (R231): the hand-off has reached the caller's zone, and the take completes 12 kc later; or the strand takes 0x13. -/
def execTktakeTimeout (id : Nat) (share : Bool) (s : State) : Host.Outcome State Fault Refusal :=
  .next (if handArrived s id (bankAgent s s.cur.bank) share then landLater s 12 (.tkTaken id share) 0
    else lateFault s 5 (.ev (.tktakeTimeout id share)) (takeRec s s.cur id) [])

end Sys2Proof.Machine
end

