-- ==== Sys2Proof/Machine/BarrierWords.lean ====
section
/-! DEFINITION. The words and events of barriers (R347 to R355), of fences (R250, R251), of `realign` (R344, R345), and of slots
(R156 to R159): the S words that are no token words. -/

namespace Sys2Proof.Machine

/-- The fields of a barrier's name (R347). -/
def barIndex (x : Dword) : Nat := bitsOf x.toNat 0 12
def barPkg (x : Dword) : Nat := bitsOf x.toNat 12 4

/-- The number under which a stack keeps what it knows of a barrier: its index, or a number apart for one of another package. -/
def barKey (s : State) (x : Dword) : Nat := if barPkg x = s.dev.pkg then barIndex x else (barPkg x + 1) * 4096 + barIndex x

/-- The barrier's name behind the number under which a stack keeps it (R347): another package's word waits under a number of its own. -/
def barName (key : Nat) : Nat := if key < 4096 then key else key % 131072 - 4096

/-- A stack's mirror of a barrier (R349). -/
def mirrorOf (s : State) (z i : Nat) : Mirror := (stackOf s z).mirror.getD i { state := 0, ctx := 0, phase := false, trips := 0 }

/-- A message of a strand's row to the hub, due after λ and there within the bounds of R342 (R341); R351 orders those of one kc by their
rows. -/
def toHub (s : State) (i : Instr) : State :=
  let z := bankStack s.cur.bank
  let (a, s1) := arrivalAt s (9 * z + 8) s.hkc (s.hkc + lam s z 8) s.hkc false
  post s1 .hub a 0 (2 + curRow s) 0 { s.cur with arg := 0, drain := false } (.ev i)

/-- `barm` (R353): the arming reaches the hub λ later, within the bounds of R342. -/
def execBarm (g : BitVec 4) (_a _b : BitVec 5) (s : State) : Host.Outcome State Fault Refusal :=
  runWord s g (fun s => toHub s (.barmArrival
    { free := false, idx := barIndex s.cur.ra, ctx := (bankGroup s s.cur.bank).ctx, kern := (bankGroup s s.cur.bank).kern, n := bitsOf s.cur.rb.toNat 0 16,
      bytes := bitsOf s.cur.rb.toNat 16 40, sig := s.cur.ra.getLsbD 12, ctr := bitsOf s.cur.ra.toNat 13 22 }))

/-- `barm.free` (R353). -/
def execBarmFree (g : BitVec 4) (_a : BitVec 5) (s : State) : Host.Outcome State Fault Refusal :=
  runWord s g (fun s => toHub s (.barmArrival
    { free := true, idx := barIndex s.cur.ra, ctx := (bankGroup s s.cur.bank).ctx, kern := (bankGroup s s.cur.bank).kern, n := 0, bytes := 0, sig := false, ctr := 0 }))

/-- The dirty lines that an agent's strand holds in the data caches, each with its row (R225). -/
def ownDirty (s : State) (agent : Nat) : List (Nat × (Nat × CacheLine)) :=
  s.rows.flatMap (fun r => (r.2.dcache.filter (fun e => decide (e.2.owner = agent) && decide (e.2.dirty ≠ 0))).map (fun e => (r.1, e)))

/-- `barr` (R354): its H is the kc after the last write in flight, and 12 kc after t at least; it leaves for the hub then, with the strand's
dirty cache lines written back. -/
def execBarr (g : BitVec 4) (_a : BitVec 5) (_c : BitVec 4) (s : State) : Host.Outcome State Fault Refusal :=
  runWord s g (fun s =>
    let p := latestAnyWrite s s.cur.bank s.cur.pkc
    let d := if p + 1 ≤ now s + 12 then 12 else p + 1 - now s
    let dirty := !(ownDirty s (bankAgent s s.cur.bank)).isEmpty
    let (r, s1) := if dirty then freeValue s else (0, s)
    landLater s1 (d + if dirty then 24 + r else 0) (.barArrive (barPkg s.cur.ra) (barIndex s.cur.ra)) 0)

/-- `barr.q` (R354): the mirror's phase lands in sb at t + 12. -/
def execBarrQ (g : BitVec 4) (_a b : BitVec 5) (_c : BitVec 4) (s : State) : Host.Outcome State Fault Refusal :=
  runWord s g (fun s => landLater s 12 (.barPhase (barKey s s.cur.ra) b.toNat) 0)

/-- A wait on a barrier is satisfied (R354): the mirror's phase differs from the one expected, or has since the wait began. -/
def waitMet (s : State) (z idx : Nat) (phase : Bool) (trips : Nat) : Bool :=
  let m := mirrorOf s z idx
  m.phase != phase || decide (m.trips ≠ trips)

/-- What another package's hub answers to a word that waits on its barrier comes as a notice to the waiting word's own number: the wait is
satisfied, or the barrier has gone free or faulted, at a kc that nothing fixes (R349, R354; log entry 150). -/
def farAnswer (s : State) (z key : Nat) : State :=
  let (r, s1) := freeValue s
  let m := mirrorOf s z key
  post s1 .hub (s.hkc + 1 + r / 2) 0 (z * 16) 0 Ctx.none
    (.ev (.barrierNotice { stack := z, idx := key, state := if r % 2 = 0 then 3 else 4, ctx := m.ctx, phase := m.phase, trips := m.trips + 1 }))

/-- The number under which a word waits on a barrier: that of the barrier's mirror, or one of the word's own for another package's. -/
def waitKey (s : State) (c : Ctx) : Nat :=
  let k := barKey s c.ra
  if k < 4096 then k else k + (2 * c.bank + (if c.hand then 1 else 0) + 1) * 131072

/-- `bwait` (R354): timed, its slack runs; loose, the strand waits, and the wait completes 1 kc after it is satisfied. -/
def execBwait (g : BitVec 4) (_a _b : BitVec 5) (_c : BitVec 4) (s : State) : Host.Outcome State Fault Refusal :=
  runWord s g (fun s =>
    let b := s.cur.bank
    let z := bankStack b
    let i := waitKey s s.cur
    let p := s.cur.rb.getLsbD 32
    let m := mirrorOf s z i
    if 4096 ≤ i then
      let t := strandOf s b
      farAnswer (setStrand s b { t with wait := .barrier i m.phase m.trips s.cur.pkc s.cur.waddr :: t.wait }) z i
    else if timedNow s b then later s (s.cur.rb.toNat % 2 ^ 32) 5 4 (.bwaitDeadline i m.trips)
    else
      let t := strandOf s b
      let s1 := setStrand s b { t with wait := .barrier i p m.trips s.cur.pkc s.cur.waddr :: t.wait }
      if waitMet s z i p m.trips then landLater s1 1 (.barPassed i) 0 else s1)

/-- The record of a `bwait` whose slack has run out, or whose barrier is gone (R354). -/
def waitRec (s : State) (c : Ctx) (idx cause : Nat) : FaultRec := mkRec s c cause 12 (barName idx) 0 true false

/-- A timed wait that its deadline finds satisfied (R354). -/
def deadlineMet (s : State) (c : Ctx) (idx trips : Nat) : Bool := waitMet s (bankStack c.bank) idx (c.rb.getLsbD 32) trips

/-- BWAIT_DEADLINE (R354): the wait completes, or the strand takes 0x13. -/
def execBwaitDeadline (idx trips : Nat) (s : State) : Host.Outcome State Fault Refusal :=
  .next (if deadlineMet s s.cur idx trips then s
    else lateFault s 5 (.ev (.bwaitDeadline idx trips)) (waitRec s s.cur idx 0x13) [])

/-- The hub tells every live stack of a barrier's change (R349): each notice arrives in its zone's time, none before one sent
earlier. -/
def notify (s : State) (i : Nat) : State :=
  let x := barrierOf s i
  ((List.range 8).filter (fun z => stackPresent s z && (stackOf s z).online)).foldl (fun st z =>
    let before := (st.agenda.filterMap (fun e => match e.pay with
      | .ev (.barrierNotice n) => if n.stack = z ∧ n.idx = i then some e.at_ else none
      | _ => none)).foldl max st.hkc
    let a := arrivalAt st (72 + z) st.hkc (st.hkc + lam st 8 z) (before - 1) false
    post a.2 .hub (max a.1 (max before (st.hkc + 1))) 0 (z * 16) 0 Ctx.none
      (.ev (.barrierNotice { stack := z, idx := i, state := x.state, ctx := x.ctx, phase := x.phase, trips := x.trips }))) s

/-- A barrier's record replaced, with its notices. -/
def changeBarrier (s : State) (i : Nat) (x : Barrier) : State := notify (setBarrier s i x) i

/-- The detail of a record about a barrier's event: the barrier, and its credit (R350). -/
def barDet (i credit : Nat) : Nat := i + credit % 2 ^ 40 * 2 ^ 16

/-- A late fault of a word whose message the hub has refused (R353): it reaches the strand on the strand's own clock. -/
def hubFault (s : State) (c : Ctx) (r : FaultRec) : State :=
  match (strandOf s c.bank).st with
  | .unloaded => s
  | .done => s
  | .yielded => s
  | .failed => s
  | _ => if (strandOf s c.bank).grp = c.grp then takeException s c.bank r (timeOf s (ctxClk c)) c [] none else s

/-- BARM_ARRIVAL (R353): the barrier is armed, or freed; a refused message is dropped and logged, and its strand takes 0x05. -/
def execBarmArrival (m : BarmMsg) (s : State) : Host.Outcome State Fault Refusal :=
  let x := barrierOf s m.idx
  let refused (st : State) : State :=
    let r := mkRec st s.cur 0x05 12 m.idx 0 true false
    if s.cur.pkc = 0 ∧ s.cur.word = 0 then logRec st 3 1 0 m.ctx m.idx none
    else hubFault (logRec st 3 1 0 m.ctx m.idx (some r)) s.cur r
  .next (if m.free then
      (if x.state = 0 then refused s else changeBarrier s m.idx Barrier.free)
    else if x.state = 0 then
      changeBarrier s m.idx { Barrier.free with state := 1, pending := m.bytes, ctx := m.ctx, n := m.n, bytes := m.bytes, sig := m.sig, c := m.ctr, kern := m.kern }
    else refused s)

/-- A trip adds 1 to its counter in the commons (R350). -/
def barrierCounter (s : State) (x : Barrier) : State :=
  if x.sig then
    let a := baseCommons + 8 * x.c
    storeBytes s a (leBytes 8 ((leNat (fetchBytes s a 8) + 1) % 2 ^ 64))
  else s

/-- A `barr` of another package finds the barrier free, faulted or of another context (R349): its package learns of it (log entry 150). -/
def sendRefusal (s : State) (e : BarEvent) : State :=
  if e.back = 0 then s
  else
    let home := agPkg (bitsOf e.back 64 32)
    sendFlit s (linkToward s home) 0 0 4 s.hkc (e.idx + home * 2 ^ 12 + e.ctx * 2 ^ 16 + e.back / 2 ^ 64 * 2 ^ 64 + 2 ^ 177)

/-- An event counted at a barrier (R350). -/
def countEvent (s : State) (e : BarEvent) : State :=
  let x := barrierOf s e.idx
  if e.idx = 0 then s
  else if x.state = 0 ∨ x.state = 4 ∨ x.ctx ≠ e.ctx then sendRefusal (logRec s 3 1 0 e.ctx (barDet e.idx e.credit) none) e
  else if x.pending < e.credit ∨ x.arr = x.n then changeBarrier (logRec s 3 1 0 x.ctx (barDet e.idx e.credit) none) e.idx { x with state := 4 }
  else
    let arr := x.arr + 1
    let left := x.pending - e.credit
    if arr = x.n ∧ left = 0 then
      barrierCounter (changeBarrier s e.idx { x with state := 3, phase := !x.phase, trips := x.trips + 1, arr := 0, pending := x.bytes }) x
    else if x.state = 2 then setBarrier s e.idx { x with arr := arr, pending := left }
    else changeBarrier s e.idx { x with state := 2, arr := arr, pending := left }

/-- BARRIER_EVENT (R350, R351, R355). -/
def execBarrierEvent (e : BarEvent) (s : State) : Host.Outcome State Fault Refusal := .next (countEvent s e)

/-- The words of a stack that wait on a barrier: timed ones by their entries on the agenda. -/
def timedWaits (s : State) (z idx : Nat) : List Timed :=
  s.agenda.filter (fun e => match e.pay with | .ev (.bwaitDeadline i _) => decide (i = idx) && decide (bankStack e.ctx.bank = z) | _ => false)

/-- The entry is a timed wait that is satisfied. -/
def metEntry (s : State) (e : Timed) : Bool :=
  match e.pay with
  | .ev (.bwaitDeadline i n) => deadlineMet s e.ctx i n
  | _ => false

/-- The wait of a list on a barrier. -/
def barrierWait (l : List WaitFor) (idx : Nat) : Option (Bool × Nat × Nat × Nat) :=
  l.findSome? (fun w => match w with | .barrier i p k q a => if i = idx then some (p, k, q, a) else none | _ => none)

/-- A wait of a strand on a barrier in loose mode. -/
structure LooseWait where
  /-- The bank, and whether it is the running handler's wait. -/
  bank : Nat
  hand : Bool
  /-- What is expected (R354), and the packet of the word that waits. -/
  phase : Bool
  trips : Nat
  pkc : Nat
  waddr : Nat
  deriving DecidableEq, Repr

/-- The waits of a stack's strands on a barrier in loose mode. The waits of a strand whose handler runs rest in its frame. -/
def looseWaits (s : State) (z idx : Nat) : List LooseWait :=
  (s.banks.filter (fun e => decide (bankStack e.1 = z))).flatMap (fun e =>
    (match barrierWait e.2.wait idx with | some (p, k, q, a) => [⟨e.1, e.2.trap, p, k, q, a⟩] | none => []) ++
    (match e.2.frame.bind (fun f => barrierWait f.wait idx) with | some (p, k, q, a) => [⟨e.1, false, p, k, q, a⟩] | none => []))

/-- The context of what a strand waits for: its handler's, or its own. -/
def waitCtx (s : State) (w : LooseWait) : Ctx :=
  { Ctx.none with bank := w.bank, grp := (strandOf s w.bank).grp, hand := w.hand, pkc := w.pkc, waddr := w.waddr }

/-- A barrier goes free or faulted under a loose wait (R354): the wait ends, and the strand takes 0x05, once its handler has returned where
one runs. -/
def waitBreaks (s : State) (w : LooseWait) (idx : Nat) : State :=
  let c := waitCtx s w
  let b := w.bank
  let t := strandOf s b
  let drop (l : List WaitFor) : List WaitFor := l.filter (fun w => match w with | .barrier i _ _ _ _ => i != idx | _ => true)
  let r := { waitRec s c idx 0x05 with eng := 4 }
  let rests := t.trap && !w.hand
  let s1 := setStrand s b (if rests then { t with frame := t.frame.map (fun f => { f with wait := drop f.wait }) } else { t with wait := drop t.wait })
  let s2 := post s1 (ctxClk c) (timeOf s (ctxClk c)) 0 (bankRow b) 0 c (.ev (.looseWaitEnd b))
  if rests then post s2 (ctxClk c) (timeOf s (ctxClk c)) 0 (bankRow b) 0 c (.enter b r)
  else takeException s2 b r (timeOf s (ctxClk c)) c [] none

/-- A barrier goes free or faulted under a timed wait (R354): the strand takes 0x05, once its handler has returned where one runs and the wait
is not the handler's own (R343). -/
def breakTimed (s : State) (e : Timed) (idx : Nat) : State :=
  let b := e.ctx.bank
  let r := waitRec s e.ctx idx 0x05
  if (strandOf s b).trap && !e.ctx.hand then post s e.clk (timeOf s e.clk) 0 (bankRow b) 0 e.ctx (.enter b r)
  else takeException s b r (timeOf s e.clk) e.ctx [] none

/-- A notice reaches a stack (R349, R354): waits that it satisfies end, and where the barrier has gone free or faulted, those that are not
satisfied take 0x05. -/
def applyNotice (s : State) (n : BarNotice) : State :=
  let z := n.stack
  let was := s
  let st := stackOf s z
  let s1 := setStack s z { st with mirror := st.mirror.put n.idx { state := n.state, ctx := n.ctx, phase := n.phase, trips := n.trips } }
  if n.state = 0 ∨ n.state = 4 then
    let timed := timedWaits was z n.idx
    let s2 := dropEntries s1 (fun e => timed.contains e)
    let s3 := (timed.filter (fun e => !metEntry was e)).foldl
      (fun a e => if (strandOf a e.ctx.bank).st = .unloaded then a else breakTimed a e n.idx) s2
    (looseWaits was z n.idx).foldl (fun a w => if waitMet was z n.idx w.phase w.trips then a else waitBreaks a w n.idx) s3
  else
    (looseWaits s1 z n.idx).foldl (fun a w =>
      let c := waitCtx a w
      if waitMet a z n.idx w.phase w.trips && !waitMet was z n.idx w.phase w.trips then
        post a (ctxClk c) (timeOf a (ctxClk c) + 1) 0 (bankRow w.bank) 4 { c with arg := timeOf a (ctxClk c) }
          (.ev (.resultLand { kind := .barPassed n.idx, flags := 0 }))
      else a) s1

/-- BARRIER_NOTICE (R349, R354). -/
def execBarrierNotice (n : BarNotice) (s : State) : Host.Outcome State Fault Refusal := .next (applyNotice s n)

/-- A `barr` leaves for the hub of its barrier's package (R354), its strand's dirty lines written back (R225); another package's goes out over
the edge link with the word it comes from (R387; log entry 16). -/
def barLeaves (s0 : State) (pkg idx : Nat) : State :=
  let me := bankAgent s0 s0.cur.bank
  let s := (ownDirty s0 me).foldl (fun st e => cleanLine st e.1 e.2.1 e.2.2) s0
  let c := (bankGroup s s.cur.bank).ctx
  if pkg = s.dev.pkg then toHub s (.barrierEvent { idx := idx, ctx := c, credit := 0, src := 2 + curRow s })
  else sendFlit s (linkToward s pkg) 0 (curRow s) 4 (now s)
    (idx + pkg * 2 ^ 12 + c * 2 ^ 16 + me * 2 ^ 64 + s.cur.pkc % 2 ^ 40 * 2 ^ 96 + s.cur.waddr % 2 ^ 32 * 2 ^ 136 + 2 ^ 176)

/-- The classes of a mask. -/
def maskClasses (m : Nat) : List Nat := (List.range 16).filter (fun i => bitOf m i)

/-- Fc of a fence at its engine (R251): the kc after the last covered event of the packets up to its own, and t at least. -/
def fenceKc (s : State) (mask : Nat) : Nat := max (now s) (latestAck s s.cur.bank s.cur.pkc mask + 1)

/-- `fence` (R250, R251): later accesses of the classes covered perform at Fc or later. -/
def execFence (g : BitVec 4) (_c : BitVec 4) (m : BitVec 16) (s : State) : Host.Outcome State Fault Refusal :=
  runWord s g (fun s =>
    let f := fenceKc s m.toNat
    let t := curStrand s
    setStrand s s.cur.bank { t with fences := (maskClasses m.toNat).foldl (fun x i => x.put i (max (x.getD i 0) f)) t.fences })

/-- A zone of a group stops at the end of kc `k`, or of the kc in which it is if that has passed (R345). -/
def stopAt (g k : Nat) (s : State) (y : GZone) : State :=
  let t := max k y.kc
  let there := s.agenda.any (fun e => decide (e.clk = .kern g y.z) && decide (e.at_ = t) &&
    (match e.pay with | .ev (.realignStop x z) => x == g && z == y.z | _ => false))
  if there then s else post s (.kern g y.z) t 9 0 0 { Ctx.none with grp := g } (.ev (.realignStop g y.z))

/-- `realign` (R344, R345): armed from t; every zone of the group stops kernel time at the end of kc K. -/
def execRealign (g : BitVec 4) (_a _b : BitVec 5) (_c : BitVec 4) (s : State) : Host.Outcome State Fault Refusal :=
  runWord s g (fun s =>
    let k := s.cur.ra.toNat
    let s1 := setStrand s s.cur.bank { curStrand s with realign := some (k, s.cur.rb.toNat % 2 ^ 32, s.cur) }
    (groupOf s s.cur.grp).zones.foldl (stopAt s.cur.grp k) s1)

/-- `srdef` (R157): the image is read at t + 3. -/
def execSrdef (g : BitVec 4) (_a b : BitVec 5) (s : State) : Host.Outcome State Fault Refusal :=
  runWord s g (fun s => later s 3 3 4 (.accessPerform
    { op := .srdef (s.cur.rb.toNat % 4096) b.toNat, va := s.cur.ra.toNat, pa := 0, len := 64, cls := 0, lag := 3, sel := 1 }))

/-- `srkill` (R158): the slot goes free at t + 1. -/
def execSrkill (g : BitVec 4) (_a : BitVec 5) (s : State) : Host.Outcome State Fault Refusal :=
  runWord s g (fun s => landLater s 1 (.srkill s.cur.ra) 0)

/-- A slot is defined (R157, R159): its generation advances, and the handle lands with the record. -/
def landSrdef (s : State) (b slot : Nat) (img : ShapeImg) (reg : Nat) : State :=
  let z := bankStack b
  let g := (strandOf s b).grp
  let x := slotOf s z g slot
  let n := nextGen x.gen
  let s1 := setSlot s z g slot { live := true, gen := n, img := img, defAt := some s.hkc }
  putReg s1 b reg (BitVec.ofNat 64 (n * 4096 + slot))

/-- An `srdef` has landed in the slot in this kc, before an `srkill` that now applies, and the handle of that no longer matches (R159). -/
def killStale (s : State) (b : Nat) (h : Dword) : Bool :=
  decide ((slotOf s (bankStack b) (strandOf s b).grp (bitsOf h.toNat 0 12)).defAt = some s.hkc) &&
    (handleRec s (bankStack b) (strandOf s b).grp h).isNone

/-- A slot is retired (R158): it goes free and its generation advances, whatever the generation has become since the handle was valid. -/
def landSrkill (s : State) (b : Nat) (h : Dword) : State :=
  let z := bankStack b
  let g := (strandOf s b).grp
  let j := bitsOf h.toNat 0 12
  let x := slotOf s z g j
  setSlot s z g j { x with live := false, gen := nextGen x.gen }

/-- The record of an `srkill` that finds its handle stale (R159). -/
def killRec (s : State) (c : Ctx) (h : Dword) : FaultRec := mkRec s c 0x0C 1 h.toNat 0 true false

end Sys2Proof.Machine
end

