-- ==== Sys2Proof/Machine/Checks.lean ====
section
/-! DEFINITION. Drains (R187) with the comparison of the tile checks (R199 to R203), and the check words `ckloc`, `ckfix`, `ckinj`,
`ckrd` and `mrty` (R210 to R217); then what every step of an M word does, and which of them fault. -/

namespace Sys2Proof.Machine

/-- What a comparison finds: the failing rows and columns, rising, and whether a line was skipped. -/
structure Compare where
  rows : List Nat
  cols : List Nat
  skipped : Bool
  deriving DecidableEq, Repr

/-- A value of a tile. -/
def tileVal (t : Tile) (m n : Nat) : Word := (t.vals.getD m []).getD n 0

/-- The groups of rows that a tile's checksum rows cover, each with the number of its checksum row (R198, R199). -/
def checkGroups (t : Tile) (trow rows : Nat) : List (Nat × List Nat) :=
  if t.counts.isEmpty then [(0, (List.range rows).map (trow + ·))]
  else ((List.range t.counts.length).map (fun g => (g, (List.range (t.counts.getD g 0)).map (g * t.cap + ·)))).filter (fun e => !e.2.isEmpty)

/-- A row's comparison. -/
def rowCheck (t : Tile) (tol : BitVec 16) (m : Nat) : Bool × Bool :=
  lineFails t.int tol ((List.range 64).map (tileVal t m)) (t.cs.getD m 0)

/-- A column's comparison against one checksum row. -/
def colCheck (t : Tile) (tol : BitVec 16) (n : Nat) (g : Nat × List Nat) : Bool × Bool :=
  lineFails t.int tol (g.2.map (fun m => tileVal t m n)) ((t.cr.getD g.1 []).getD n 0)

/-- The comparison of R199 over tile rows `trow` to `trow + rows − 1`. -/
def compareTile (t : Tile) (tol : BitVec 16) (trow rows : Nat) : Compare :=
  let gs := checkGroups t trow rows
  let ms := (gs.map (·.2)).flatten
  let rs := ms.map (fun m => (m, rowCheck t tol m))
  let cs := ((List.range 64).map (fun n => gs.map (fun g => (n, colCheck t tol n g)))).flatten
  { rows := (rs.filter (fun e => e.2.1)).map (·.1),
    cols := (List.range 64).filter (fun n => cs.any (fun e => decide (e.1 = n) && e.2.1)),
    skipped := rs.any (fun e => e.2.2) || cs.any (fun e => e.2.2) }

/-- The lowest active cell of a flag mask, 15 for none (R202). -/
def maskCell (k : BitVec 8) : Nat :=
  match (List.range 8).find? (fun j => k.getLsbD j) with
  | some j => j
  | none => 15

/-- `cksyn` of a comparison (R205), `fixed` apart: valid also where no line fails. DEDUCED: log entry 126. -/
def syndromeOf (t : Tile) (ti : Nat) (c : Compare) : Nat :=
  2 ^ 63 + (if c.rows.length = 1 ∧ c.cols.length = 1 then 2 ^ 62 else 0) + ti * 2 ^ 58 + c.rows.length * 2 ^ 50 + c.cols.length * 2 ^ 43 +
    c.rows.headD 0 * 2 ^ 35 + c.cols.headD 0 * 2 ^ 29 + maskCell t.mask * 2 ^ 25 + t.mask.toNat * 2 ^ 17

/-- The fields of `cksyn` that the check words read. -/
def synValid (x : Dword) : Bool := x.getLsbD 63
def synLoc (x : Dword) : Bool := x.getLsbD 62
def synTile (x : Dword) : Nat := bitsOf x.toNat 58 2
def synM (x : Dword) : Nat := bitsOf x.toNat 35 8
def synN (x : Dword) : Nat := bitsOf x.toNat 29 6

/-- The fault record of a failing drain (R202). -/
def compareRec (s : State) (c : Ctx) (t : Tile) (ti : Nat) (k : Compare) : FaultRec :=
  let one := decide (k.rows.length = 1) && decide (k.cols.length = 1)
  let sel := if one then 10 else if k.cols.isEmpty then 8 else if k.rows.isEmpty then 9 else 10
  let j := maskCell t.mask
  let r := macroRec s c (if one then 0x18 else 0x19) sel c.ra.toNat
    (k.rows.headD 0 + k.cols.headD 0 * 2 ^ 8 + j * 2 ^ 14 + ti * 2 ^ 18) true
  { r with col := if j = 15 then 7 else (t.col0 + j) % 8 }

/-- The tolerance that a drain sampled at its dispatch (R203), of the format of the tile's last product. DESIGN CHOICE: log entry 116. -/
def drainTol (c : Ctx) (t : Tile) : BitVec 16 := c.tol.getD t.fmt 0

/-- The comparison that a drain's word runs. -/
def drainCompare (s : State) (c : Ctx) (w : Word) : Compare :=
  let t := tileOf (rowOf s (bankRow c.bank)) (mTile w)
  compareTile t (drainTol c t) (ctlTrow c.rb) (ctlM c.rb)

/-- A drain's rows leave the selvedge and are written (R187), the first 8 kc after its issue. -/
def drainRows (s : State) (id d : Nat) : State :=
  let m := ctlM s.cur.rb
  let img := rec0 s.cur
  let s1 := forEach s (List.range m) (fun st i => mLater st id kLeave i (d + i) 3 [] 0 false 4)
  let s2 := forEach s1 (List.range m) (fun st i => mLater st id kOut i (d + 4 + i) 4 [recBase img + i * recStride img 1] (recDim img 0) true 4)
  mLater (mLater s2 id kPort (mTile s.cur.word) (d + m) 0 [] 0 false 4) id kEnd 0 (d + 3 + m) 5 [] 0 false 4

/-- The key under which a drain keeps the drain-mode entry that it issued under (R46). -/
def modeAt : Nat := 65536

/-- A drain issues (R187, R189): it takes the drain-mode entry in force; one that narrows in SRH advances the entry's base by 64.
`mdrain.f32`, which draws no serials, leaves it. DEDUCED: log entry 108. -/
def drainIssue (s : State) (bf : Bool) : State :=
  let s1 := mHold s
  let r := rowOf s1 (curRow s)
  let s2 := if bf && decide (r.mmMode = 4) then setRow s1 (curRow s) { r with mmBase := r.mmBase + 64 } else s1
  let m := newMacro s2 none none false
  let words : Sparse Word := [(modeAt, r.mmMode.setWidth 32), (modeAt + 1, r.mmSeed), (modeAt + 2, r.mmBase)]
  let s3 := match macroAt m.2 (curRow s) m.1 with
    | some x => putMacro m.2 (curRow s) m.1 { x with words := words }
    | none => m.2
  if mCk s.cur.word then mLater s3 m.1 kCompare 0 7 0 [] 0 false 10 else drainRows s3 m.1 8

/-- `mdrain.f32` (R187). -/
def execMdrainF32 (g : BitVec 4) (t : BitVec 2) (a b : BitVec 5) (k z : BitVec 1) (s : State) : Host.Outcome State Fault Refusal :=
  runMacro s g (.mdrainF32 g t a b k z) (fun s => drainIssue s false)

/-- `mdrain.bf16` (R187, R46). -/
def execMdrainBf16 (g : BitVec 4) (t : BitVec 2) (a b : BitVec 5) (k z : BitVec 1) (s : State) : Host.Outcome State Fault Refusal :=
  runMacro s g (.mdrainBf16 g t a b k z) (fun s => drainIssue s true)

/-- The cell that a tile fault names enters the group's failure history; one named under an earlier placement is logged (R208). -/
def noteCell (s : State) (b : Nat) (r : FaultRec) : State :=
  let g := (strandOf s b).grp
  let x := groupOf s g
  let cell := r.stack * 128 + r.row * 8 + r.col
  let s1 := if x.hist.any (fun e => decide (e.1 = cell) && decide (e.2 < x.placed)) then
      logRec s 5 2 (kernelOf s x.kern).tag x.ctx cell (some r)
    else s
  let rest := x.hist.filter (fun e => e.1 != cell)
  setGroup s1 g { x with hist := (rest ++ [(cell, x.placed)]).drop (rest.length + 1 - 4) }

/-- A drain whose comparison skips a line raises N (R201), whether or not another line fails. -/
def raiseSkip (s : State) : State := setStrand s s.cur.bank (raiseFlags s.hkc (strandOf s s.cur.bank) flagN)

/-- A drain's comparison (R199 to R202): where it passes, the rows follow; where a line fails, the tile is held, `cksyn` takes the
syndrome, and the drain takes its fault. -/
def compareStep (s : State) (id : Nat) (a : Access) : State :=
  let r := curRow s
  match macroAt s r id with
  | none => s
  | some m =>
    let ti := mTile m.word
    let t := tileOf (rowOf s r) ti
    let k := drainCompare s s.cur m.word
    if k.rows.isEmpty && k.cols.isEmpty then
      let s1 := setTile s r ti { t with st := if t.st = .held then .complete else t.st }
      drainRows (if k.skipped then raiseSkip s1 else s1) id 1
    else
      let s1 := setTile s r ti { t with st := .held, tol := drainTol s.cur t }
      let x := rowOf s1 r
      let s2 := setRow s1 r { x with res := { x.res with portNow := now s + pace s s.cur } }
      let rec_ := compareRec s s.cur t ti k
      let b := s.cur.bank
      let s3 := setStrand s2 b { strandOf s2 b with cksyn := BitVec.ofNat 64 (syndromeOf t ti k) }
      lateFault (noteCell (if k.skipped then raiseSkip s3 else s3) b rec_) 0 (.ev (.accessPerform a)) rec_ []

/-- A row leaves the selvedge (R187): its bytes are kept for the write 4 kc later, when its flags are set (R46, R53). -/
def leaveStep (s : State) (id i : Nat) : State :=
  let r := curRow s
  match macroAt s r id with
  | none => s
  | some m =>
    let t := tileOf (rowOf s r) (mTile m.word)
    let vals := (List.range 64).map (tileVal t (ctlTrow m.ctx.rb + i))
    let bf := decide (mOp m.word = 14)
    let mode := (m.words.getD modeAt 0).toNat
    let out := (List.range 64).map (fun n =>
      let v := vals.getD n 0
      if bf then
        let pos := (n + 64 * (i % 2) + 128 * ((m.words.getD (modeAt + 2) 0).toNat + i / 2)) % 2 ^ 32
        let x := vNarrow bf16 mode (srhMix (((m.words.getD (modeAt + 1) 0) ^^^ BitVec.ofNat 32 pos).toNat)) false v.toNat
        (BitVec.ofNat 32 x.1, x.2 ||| (if x.1 / 128 % 256 = 255 then flagN else 0))
      else (v, if !t.int && !finite32 v then flagN else 0))
    let fl := out.foldl (fun f x => f ||| x.2) (0 : BitVec 8)
    let s1 := putMacro s r id { m with words := ((List.range 64).zip out).foldl (fun w e => w.put (outAt i e.1) e.2.1) m.words }
    if fl = 0 then s1 else landLater s1 (4 * pace s s.cur) (.regs []) fl

/-- A row of a drain or of `ckrd` performs (R187, R215). -/
def outStep (s : State) (id i : Nat) (a : Access) : State :=
  match macroAt s (curRow s) id with
  | none => s
  | some m =>
    let w := if mOp m.word = 14 then 2 else 4
    writeVa s s.cur a.va (((List.range 64).map (fun n => leBytes w (m.words.getD (outAt i n) 0).toNat)).flatten)

/-- The drain port is released (R187, R188): with z, and for `mzero`, the tile goes to clear. -/
def portStep (s : State) (id ti : Nat) : State :=
  let r := curRow s
  match macroAt s r id with
  | none => s
  | some m =>
    if mOp m.word = 15 then dropMacro (clearTile s r ti) r id
    else if mZ m.word then clearTile s r ti
    else s

/-- An attempt to correct a tile is counted (R207), in the frame too while a handler runs. -/
def countAttempt (s : State) : State :=
  let b := s.cur.bank
  let t := strandOf s b
  let c := t.ckret.toNat
  setStrand s b { t with
    ckret := BitVec.ofNat 16 (c / 256 * 256 + min 255 (c % 256 + 1)),
    frame := t.frame.map (fun f => { f with retries := f.retries + 1 }) }

/-- `ckloc` (R212): the comparison again; the syndrome at t + 8, the record at t + 9. -/
def execCkloc (g : BitVec 4) (t : BitVec 2) (a : BitVec 5) (s : State) : Host.Outcome State Fault Refusal :=
  runMacro s g (.ckloc g t a) (fun s =>
    let m := newMacro (mHold s) none none false
    let s1 := mLater m.2 m.1 kNote 0 8 0 [] 0 false 4
    mLater s1 m.1 kNote 1 9 4 [recBase (rec0 s.cur)] 64 true 4)

/-- The bits of a set of numbers. -/
def setBits (l : List Nat) : Nat := l.foldl (fun a i => a + 2 ^ i) 0

/-- `ckloc` updates `cksyn` and writes its record (R212). -/
def locStep (s : State) (id i : Nat) (a : Access) : State :=
  let r := curRow s
  match macroAt s r id with
  | none => s
  | some m =>
    let ti := mTile m.word
    let t := tileOf (rowOf s r) ti
    let k := compareTile t t.tol t.owTrow t.owM
    let b := s.cur.bank
    let st := strandOf s b
    if i = 0 then
      setStrand s b { st with cksyn := (BitVec.ofNat 64 (syndromeOf t ti k)) ||| (st.cksyn &&& 0x2000000000000000) }
    else
      let s1 := writeVa s s.cur a.va (leBytes 16 (setBits k.rows) ++ leBytes 8 (setBits k.cols) ++ leBytes 8 st.cksyn.toNat ++ leBytes 32 0)
      dropMacro s1 r id

/-- The group of rows, and its buffer, in which a tile row of a product lies. -/
def groupAt (p : Prod) (m : Nat) : Nat := if p.kind = 3 then (m - p.trow) / max 1 p.cap else 0

/-- `ckfix` (R213): the activation row is read again at t + 1, the element written at t + 4 + 2C, `fixed` set at t + 8 + 2C. -/
def execCkfix (g : BitVec 4) (t : BitVec 2) (s : State) : Host.Outcome State Fault Refusal :=
  runMacro s g (.ckfix g t) (fun s =>
    let r := curRow s
    match (tileOf (rowOf s r) t.toNat).prod with
    | none => countAttempt (mHold s)
    | some pr =>
      let p := prodOf pr.word pr.ctx
      let syn := (strandOf s s.cur.bank).cksyn
      let row := synM syn - p.trow
      let s1 := countAttempt (mHold s)
      let n := bufOf p (groupAt p (synM syn))
      let s2 := setCreel s1 r n { creelOf (rowOf s1 r) n with st := .reading }
      let m := newMacro s2 (some pr) none false
      let s3 := if p.kind = 1 then mLater m.2 m.1 kGather row 1 3 [recIdx p.img + 4 * row] 4 false 4
        else readRow m.2 m.1 p pr.ctx row 0 1
      let s4 := mLater s3 m.1 kWrite row (4 + 2 * p.chain) 0 [] 0 false 4
      let s5 := mLater s4 m.1 kNote 0 (8 + 2 * p.chain) 0 [] 0 false 4
      mLater s5 m.1 kRelease n (8 + 2 * p.chain) 0 [] 0 false 4)

/-- `ckfix` writes the element that it computed afresh (R213). -/
def fixWrite (s : State) (id row : Nat) (p : Prod) : State :=
  let r := curRow s
  match macroAt s r id with
  | none => s
  | some m =>
    if m.dead then s
    else
      let syn := (strandOf s s.cur.bank).cksyn
      let n := synN syn
      let int := decide (p.fmt = 3)
      let b := creelOf (rowOf s r) (bufOf p (groupAt p (p.trow + row)))
      let parts := (List.range p.ncol).map (fun j => partialOf int (cellW b p j n) (cellX m p row j))
      let t := tileOf (rowOf s r) p.tile
      let old := t.vals.getD (p.trow + row) (List.replicate 64 0)
      setTile (arrWritten s r [tileKey p.tile (p.trow + row)]) r p.tile { t with vals := t.vals.put (p.trow + row) (listSet old n (chainOf int none parts)) }

/-- `ckfix` rechecks the element's row and column and sets `fixed` (R213). -/
def fixNote (s : State) (id : Nat) (p : Prod) : State :=
  let r := curRow s
  match macroAt s r id with
  | none => s
  | some m =>
    let b := s.cur.bank
    let st := strandOf s b
    let t := tileOf (rowOf s r) p.tile
    let rowOk := !(rowCheck t t.tol (synM st.cksyn)).1
    let colOk := (checkGroups t t.owTrow t.owM).all (fun g => !(colCheck t t.tol (synN st.cksyn) g).1)
    let syn := st.cksyn &&& ~~~(0x2000000000000000)
    let s1 := if m.dead then s
      else setStrand s b { st with cksyn := if rowOk && colOk then syn ||| 0x2000000000000000 else syn }
    dropMacro s1 r id

/-- `ckinj` (R214): the injection is armed from t; a second one replaces it. -/
def execCkinj (g : BitVec 4) (t : BitVec 2) (b : BitVec 5) (s : State) : Host.Outcome State Fault Refusal :=
  runMacro s g (.ckinj g t b) (fun s =>
    let r := curRow s
    let s1 := mHold s
    setTile s1 r t.toNat { tileOf (rowOf s1 r) t.toNat with inj := some (s.cur.rb.setWidth 24) })

/-- `ckrd` (R215): row i of what it reads performs at t + 4 + i, as it stood when the word issued. -/
def execCkrd (g : BitVec 4) (t : BitVec 2) (a b : BitVec 5) (s : State) : Host.Outcome State Fault Refusal :=
  runMacro s g (.ckrd g t a b) (fun s =>
    let r := curRow s
    let x := tileOf (rowOf s r) t.toNat
    let trow := ctlTrow s.cur.rb
    let val (i n : Nat) : Word :=
      match ctlSrc s.cur.rb with
      | 0 => tileVal x (trow + i) n
      | 1 => x.cs.getD (64 * i + n) 0
      | _ => (x.cr.getD (trow + i) []).getD n 0
    let m := newMacro (mHold s) none none false
    let rows := List.range (ctlM s.cur.rb)
    let words : Sparse Word := rows.foldl (fun w i => (List.range 64).foldl (fun v n => v.put (outAt i n) (val i n)) w) []
    let s1 := match macroAt m.2 r m.1 with
      | some y => putMacro m.2 r m.1 { y with words := words }
      | none => m.2
    let img := rec0 s.cur
    let s2 := forEach s1 rows (fun st i => mLater st m.1 kOut i (4 + i) 4 [recBase img + i * recStride img 1] 256 true 4)
    mLater s2 m.1 kEnd 0 (3 + ctlM s.cur.rb) 5 [] 0 false 4)

/-- `mrty` (R216): the held tile's single product runs again, in the overwrite form and with checks; `cksyn` loses valid, loc and
fixed. -/
def execMrty (g : BitVec 4) (t : BitVec 2) (s : State) : Host.Outcome State Fault Refusal :=
  runMacro s g (.mrty g t) (fun s =>
    match (tileOf (rowOf s (curRow s)) t.toNat).prod with
    | none => countAttempt (mHold s)
    | some pr =>
      let p := { prodOf pr.word pr.ctx with acc := false, ck := true }
      let s1 := countAttempt s
      let b := s.cur.bank
      let st := strandOf s1 b
      productIssue (setStrand s1 b { st with cksyn := st.cksyn &&& 0x1FFFFFFFFFFFFFFF }) p pr true)

/-- What a step of an M word does at its kc (R193). -/
def mStep (s : State) (id k : Nat) (a : Access) : State :=
  let r := curRow s
  match macroAt s r id with
  | none => s
  | some m =>
    let cls := stepCls k
    let i := stepIdx k
    let op := mOp m.word
    match m.prod with
    | some pr =>
      let p0 := prodOf pr.word pr.ctx
      let p := if op = 21 then { p0 with acc := false, ck := true } else p0
      if 16 ≤ cls then loadStep s id (cls - 16) i a
      else if cls = kRow then rowStep s id i p pr.ctx a
      else if cls = kHeader then headerStep s id i p pr.ctx a
      else if cls = kGather then gatherStep s id i p pr.ctx a
      else if cls = kEdge then edgeStep s id i
      else if cls = kCheck then checkStep s id i p pr
      else if cls = kCount then countStep s id p a
      else if cls = kDone then doneStep s id p.tile
      else if cls = kRelease then releaseStep s i
      else if cls = kEnd then dropMacro s r id
      else if cls = kWrite then (if op = 18 then fixWrite s id i p else writeStep s id i p pr)
      else if cls = kNote then fixNote s id p
      else s
    | none =>
      if 16 ≤ cls then loadStep s id (cls - 16) i a
      else if cls = kScale then scaleStep s id a
      else if cls = kLeave then (if op = 12 then sclRead s id i else leaveStep s id i)
      else if cls = kOut then (if op = 12 then sclWrite s id i else outStep s id i a)
      else if cls = kDone then doneStep s id (mTile m.word)
      else if cls = kEnd then dropMacro s r id
      else if cls = kCompare then compareStep s id a
      else if cls = kPort then portStep s id i
      else if cls = kNote then locStep s id i a
      else s

/-- The cells of a creel buffer that a product reads. -/
def creelReads (p : Prod) (g : Nat) : List Nat := (List.range p.ncol).map (fun j => creelKey (bufOf p g) (p.col0 + j))

/-- The tile rows and creel cells that a step of an M word reads (R379, R380). -/
def stepReads (s : State) (c : Ctx) (m : Macro) (k : Nat) : List Nat :=
  let cls := stepCls k
  let i := stepIdx k
  let op := mOp m.word
  match m.prod with
  | some pr =>
    let p0 := prodOf pr.word pr.ctx
    let p := if op = 21 then { p0 with acc := false, ck := true } else p0
    if cls = kWrite then
      creelReads p (if op = 18 then groupAt p (p.trow + i) else i / max 1 p.cap) ++
        (if (p.acc && !p.cout) || op = 18 then [tileKey p.tile (p.trow + i)] else [])
    else if cls = kCheck then creelReads p i
    else if cls = kEdge then [edgeKey i]
    else []
  | none =>
    if cls = kLeave then [tileKey (if op = 12 then ctlSrc m.ctx.rb else mTile m.word) (ctlTrow m.ctx.rb + i)]
    else if cls = kOut ∧ op = 12 ∧ mAcc m.word then [tileKey (mTile m.word) (ctlTrow m.ctx.rb + i)]
    else if cls = kOut ∧ op = 20 ∧ ctlSrc m.ctx.rb = 0 then [tileKey (mTile m.word) (ctlTrow m.ctx.rb + i)]
    else if cls = kCompare then (List.range (ctlM m.ctx.rb)).map (fun j => tileKey (mTile m.word) (ctlTrow m.ctx.rb + j))
    else if cls = kNote ∧ i = 0 then
      let t := tileOf (rowOf s (bankRow c.bank)) (mTile m.word)
      (List.range t.owM).map (fun j => tileKey (mTile m.word) (t.owTrow + j))
    else []

/-- A tile row or creel cell that the step reads cannot be rebuilt (R380): the creels carry word parity only. -/
def arrayDead (s : State) (c : Ctx) (m : Macro) (k : Nat) : Bool :=
  let bad := (rowOf s (bankRow c.bank)).arrBad
  (failsIn bad (stepReads s c m k)).any (wordDead bad 1024)

/-- The tile rows that a step of an M word writes (R450). -/
def stepWrites (m : Macro) (k : Nat) : List Nat :=
  let cls := stepCls k
  let i := stepIdx k
  match m.prod with
  | some pr => let p := prodOf pr.word pr.ctx; if cls = kWrite ∧ !p.cout then [tileKey p.tile (p.trow + i)] else []
  | none => if cls = kOut ∧ mOp m.word = 12 then [tileKey (mTile m.word) (ctlTrow m.ctx.rb + i)] else []

/-- The failing words of the tile rows that a step of an M word reads or writes and that are rebuilt (R380, R450). -/
def stepRebuilds (s : State) (c : Ctx) (m : Macro) (k : Nat) : List (Nat × Bool) :=
  let bad := (rowOf s (bankRow c.bank)).arrBad
  (failsIn bad (stepReads s c m k ++ stepWrites m k)).filter (fun e => !wordDead bad 1024 e)

/-- A tile row that a step of a macro word reads or writes fails its parity and is rebuilt (R380, R450). -/
def arrayRebuilds (s : State) (c : Ctx) (a : Access) : Bool :=
  match a.op with
  | .step id k =>
    (match macroAt s (bankRow c.bank) id with
     | some m =>
       decide (wordEng m.word = 2) && !m.dead && !arrayDead s c m k && !(stepRebuilds s c m k).isEmpty
     | none => false)
  | _ => false

/-- The tile rows that a step reads or writes, rebuilt (R380) and counted (R385). -/
def healArray (s : State) (c : Ctx) (a : Access) : State :=
  match a.op with
  | .step id k =>
    (match macroAt s (bankRow c.bank) id with
     | some m =>
       if wordEng m.word = 2 then
         let r := bankRow c.bank
         let ws := stepRebuilds s c m k
         countInner (setRow s r { rowOf s r with arrBad := (rowOf s r).arrBad.filter (fun e => !(ws.any (fun x => x.1 == e.1))) }) (2 ^ 32 + 2 * r + 1) ws.length
       else s
     | none => s)
  | _ => s

/-- A step of an M word that faults of itself (R180, R182, R202, R380), as its fault record. -/
def mStepFault (s : State) (c : Ctx) (id k : Nat) (a : Access) : Option FaultRec :=
  let r := bankRow c.bank
  match macroAt s r id with
  | none => none
  | some m =>
    let cls := stepCls k
    if m.dead then none
    else if arrayDead s c m k then some (macroRec s c 0x32 4 0 0 false)
    else if cls = kEdge then
      match Sparse.find (rowOf s r).edge (stepIdx k) with
      | some _ => none
      | none => some (macroRec s c 0x13 14 0 0 false)
    else if cls = kCount ∧ mOp m.word = 10 then
      let p := prodOf m.word m.ctx
      let ns := (List.range p.groups).map (fun g => readVaNat s c (a.va + 4 * g) 4)
      ((List.range p.groups).find? (fun g => decide (p.cap < ns.getD g 0))).map
        (fun g => macroRec s c 0x1A 4 0 (g + ns.getD g 0 * 2 ^ 32) false)
    else if cls = kCompare then
      let t := tileOf (rowOf s r) (mTile m.word)
      let k := drainCompare s c m.word
      if k.rows.isEmpty && k.cols.isEmpty then none else some (compareRec s c t (mTile m.word) k)
    else none

/-- What a late fault leaves of an M word (R172, R176, R377, R380): the word comes to nothing; a load's buffer goes to empty, and the tile of
an uncorrectable operand to poisoned. A page that is away comes back, and the word goes on. -/
def mFails (s : State) (id k cause : Nat) : State :=
  let r := curRow s
  match macroAt s r id with
  | none => s
  | some m =>
    if cause = 0x04 ∨ cause = 0x18 ∨ cause = 0x19 then s
    else
      let cls := stepCls k
      let op := mOp m.word
      let s1 := putMacro s r id { m with dead := true }
      if 16 ≤ cls then
        let n := if op = 10 then (mBuf m.word + (cls - 16)) % 2 else mBuf m.word
        let s2 := setCreel s1 r n { creelOf (rowOf s1 r) n with st := .empty }
        if op = 10 ∧ cause = 0x32 then setTile s2 r (mTile m.word) { tileOf (rowOf s2 r) (mTile m.word) with st := .poisoned } else s2
      else
        let s2 := if cls = kCount then groupsEnd s1 id (prodOf m.word m.ctx) else s1
        let ti := match m.prod with | some pr => mTile pr.word | none => mTile m.word
        let out := match m.prod with | some pr => (prodOf pr.word pr.ctx).cout | none => false
        if cause = 0x32 ∧ !out ∧ (cls = kRow ∨ cls = kHeader ∨ cls = kGather ∨ cls = kCount ∨ cls = kEdge ∨ cls = kScale ∨ cls = kWrite ∨ cls = kCheck ∨ cls = kLeave ∨ cls = kCompare) then
          setTile s2 r ti { tileOf (rowOf s2 r) ti with st := .poisoned }
        else s2

end Sys2Proof.Machine
end

