-- ==== Sys2Proof/Machine/Control.lean ====
section
/-! DEFINITION. The control words of the C engine: branches, calls and `jr` (R98, R99), hardware loops (R100 to R102), CSR access
(R87 to R90, R108), `trap`, `rett` and `tfence` (R109 to R111), `node` and `yield` (R112 to R114). -/

namespace Sys2Proof.Machine

/-- The idle count in the header at an image offset (R59); 0 where no header lies there. -/
def idleAt (s : State) (b cp : Nat) : Nat :=
  let w := imageWord s (bankStack b) (bankGroup s b).kern cp
  if bitsOf w 29 3 = 6 ∧ bitsOf w 24 1 = 0 then bitsOf w 16 8 + bitsOf w 0 13 * 256 else 0

/-- Control goes to the packet at `cp`, which issues at `t` plus its idle (R62). -/
def goTo (s : State) (c : Ctx) (t cp : Nat) : State :=
  let s1 := setStrand s c.bank { strandOf s c.bank with cp := cp }
  post s1 (ctxClk c) (t + idleAt s c.bank cp) 1 (bankRow c.bank) 0
    { Ctx.none with bank := c.bank, grp := c.grp, hand := c.hand, preds := 0xFFFF } (.fetch c.bank)

/-- The entries of the loop stack that a taken branch leaves (R102): each innermost entry whose body does not hold the target
goes. The innermost entry stands first. -/
def popLoops (l : List LoopEntry) (target : Nat) : List LoopEntry :=
  match l with
  | [] => []
  | e :: t => if e.start ≤ target ∧ target < e.stop then e :: t else popLoops t target

/-- The bookkeeping after a packet that falls through and ends at `e` (R101): the next packet and the loop stack. -/
def loopBack (l : List LoopEntry) (e : Nat) : Nat × List LoopEntry :=
  match l with
  | [] => (e, [])
  | x :: t =>
    if e = x.stop then
      if 1 < x.left then (x.start, { x with left := x.left - 1 } :: t) else loopBack t e
    else (e, x :: t)

/-- The target of `br` and `call` (R69): the packet's header address plus four times the signed offset. -/
def branchTarget (hdr : Nat) (o : BitVec 19) : Int := (hdr : Int) + 4 * o.toInt

/-- A taken branch (R62, R102). -/
def takeBranch (s : State) (target : Nat) (pops : Bool) : State :=
  let t := curStrand s
  let s1 := if pops then setStrand s s.cur.bank { t with loops := popLoops t.loops target } else s
  goTo s1 s.cur (now s + 3) target

/-- `br` (R98). -/
def execBr (g : BitVec 4) (o : BitVec 19) (s : State) : Host.Outcome State Fault Refusal :=
  runWord s g (fun s => takeBranch s (branchTarget s.cur.hdr o).toNat true)

/-- `call` (R98): the link to the packet that follows is visible 1 kc later; a call pops nothing (R102). -/
def execCall (g : BitVec 4) (o : BitVec 19) (s : State) : Host.Outcome State Fault Refusal :=
  runWord s g (fun s => takeBranch (scalarLater s 1 1 (BitVec.ofNat 64 s.cur.nxt)) (branchTarget s.cur.hdr o).toNat false)

/-- `jr` (R99): the target and the link are taken from the registers as read at issue. -/
def execJr (g : BitVec 4) (d a : BitVec 5) (s : State) : Host.Outcome State Fault Refusal :=
  runWord s g (fun s => takeBranch (scalarLater s 1 d.toNat (BitVec.ofNat 64 s.cur.nxt)) (srcS s a).toNat true)

/-- A hardware loop begins (R100, R101): a zero count skips the body, whose end's packet issues at T + 2 plus its idle; otherwise
an entry is pushed. -/
def startLoop (s : State) (count len : Nat) : State :=
  let start := s.cur.nxt
  let stop := start + 4 * len
  if count = 0 then goTo s s.cur (now s + 2) stop
  else
    let t := curStrand s
    goTo (setStrand s s.cur.bank { t with loops := { start := start, stop := stop, left := count } :: t.loops }) s.cur (now s + 1) start

/-- `loop` (R100): the trip count is the low 32 bits of sa, read at issue. -/
def execLoop (a : BitVec 5) (l : BitVec 14) (s : State) : Host.Outcome State Fault Refusal :=
  .next (startLoop s ((srcS s a).toNat % 2 ^ 32) l.toNat)

/-- `loopi` (R100). -/
def execLoopi (c : BitVec 10) (l : BitVec 9) (s : State) : Host.Outcome State Fault Refusal :=
  .next (startLoop s (loopCount s.cur.pre c) l.toNat)

/-- A word of a trapped strand, but for its handler's, rests in the trap frame and not on the path (R362, R367). -/
def restsInFrame (s : State) (c : Ctx) : Bool := (strandOf s c.bank).trap && !c.hand

/-- The slots of the vertical word path of a bank's row that are held at its current kc (R122): words in transit, and M and B words until they
issue, of either bank. -/
def pathHeld (s : State) (b : Nat) : Nat :=
  (s.agenda.filter (fun e => (match e.pay with | .word w => decide (wordEng w ≠ 0) | _ => false) &&
      decide (bankRow e.ctx.bank = bankRow b) && !restsInFrame s e.ctx && decide (timeOf s e.clk < e.at_))).length +
    ((rowOf s (bankRow b)).mq.filter (fun q => !restsInFrame s q.ctx && q.job.isNone && decide (timeOf s q.clk < q.issueAt))).length +
    ((rowOf s (bankRow b)).bq.filter (fun q => !restsInFrame s q.ctx && decide (timeOf s q.clk < q.issueAt))).length

/-- Six `cktol` registers, by number (R204). -/
def ckTol (t : Strand) (i : Nat) : BitVec 16 := t.cktol.getD i 0

/-- The fault record that `cause` and `tval` read (R89). -/
def trapRecord (t : Strand) : FaultRec := match t.frame with | some f => f.frec | none => FaultRec.blank

/-- A CSR as it reads (R87 to R90, R204 to R206). `vseed` reads without the serials that the words of the reading packet take
(R45, R47): the C word's context counts them in `rb`. -/
def readCsr (s : State) (i : Nat) : Dword :=
  let b := s.cur.bank
  let t := curStrand s
  let g := bankGroup s b
  match i with
  | 0x000 => BitVec.ofNat 64 s.cur.hdr
  | 0x001 => BitVec.ofNat 64 (match t.frame with | some f => f.f | none => s.cur.pkc)
  | 0x002 => statusOf s b
  | 0x003 => BitVec.ofNat 64 (match t.frame with | some f => frecWord0 f.frec | none => 0)
  | 0x004 => BitVec.ofNat 64 (trapRecord t).addr
  | 0x005 => BitVec.ofNat 64 (frameBase s b)
  | 0x010 => t.aflags.setWidth 64
  | 0x011 => t.aen.setWidth 64
  | 0x012 => t.vrm.setWidth 64
  | 0x013 => ((t.serial - s.cur.rb.setWidth 32) ++ t.seed).setWidth 64
  | 0x020 => t.yreq.setWidth 64
  | 0x021 => BitVec.ofNat 64 t.ydl
  | 0x030 => BitVec.ofNat 64 g.gidx
  | 0x031 => BitVec.ofNat 64 g.gidy
  | 0x032 => BitVec.ofNat 64 g.gidz
  | 0x033 => BitVec.ofNat 64 (t.gstack * 4096 + t.grow * 256 + bankStack b * 16 + bankRow b % 16)
  | 0x034 => BitVec.ofNat 64 (bankStack b)
  | 0x035 => BitVec.ofNat 64 s.dev.pkg
  | 0x040 => BitVec.ofNat 64 (16 - s.cur.serial.toNat)
  | 0x050 => t.cksyn
  | 0x051 => t.ckret.setWidth 64
  | 0x058 => (ckTol t 0).setWidth 64
  | 0x059 => (ckTol t 1).setWidth 64
  | 0x05A => (ckTol t 2).setWidth 64
  | 0x05B => (ckTol t 3).setWidth 64
  | 0x05C => (ckTol t 4).setWidth 64
  | 0x05D => (ckTol t 5).setWidth 64
  | _ => 0

/-- A CSR written: only its RW fields change (R108, R48); a flag raised in this kc beats a clear (R53). -/
def writeCsr (s : State) (i : Nat) (x : Dword) : State :=
  let b := s.cur.bank
  let t := curStrand s
  match i with
  | 0x002 => setStrand s b { t with vftz := x.getLsbD 3, ie := x.getLsbD 2 }
  | 0x010 => setStrand s b { t with aflags := x.setWidth 8 ||| (if t.freshAt = s.hkc then t.fresh else 0) }
  | 0x011 => setStrand s b { t with aen := x.setWidth 8 }
  | 0x012 => setStrand s b { t with vrm := vrmWrite s t.vrm x.toNat }
  | 0x013 => setStrand s b { t with seed := x.setWidth 32, serial := (x >>> 32).setWidth 32 }
  | 0x051 => setStrand s b { t with ckret := x.setWidth 16 }
  | 0x058 => setStrand s b { t with cktol := listSet t.cktol 0 (x.setWidth 16) }
  | 0x059 => setStrand s b { t with cktol := listSet t.cktol 1 (x.setWidth 16) }
  | 0x05A => setStrand s b { t with cktol := listSet t.cktol 2 (x.setWidth 16) }
  | 0x05B => setStrand s b { t with cktol := listSet t.cktol 3 (x.setWidth 16) }
  | 0x05C => setStrand s b { t with cktol := listSet t.cktol 4 (x.setWidth 16) }
  | 0x05D => setStrand s b { t with cktol := listSet t.cktol 5 (x.setWidth 16) }
  | _ => s

/-- `csrr` (R108): the CSR as it reads in the issue kc, 1 kc later in sd. -/
def execCsrr (g : BitVec 4) (d : BitVec 5) (c : BitVec 12) (s : State) : Host.Outcome State Fault Refusal :=
  runWord s g (fun s => scalarLater s 1 d.toNat (readCsr s c.toNat))

/-- `csrw` (R108): the source register stands in field d. -/
def execCsrw (g : BitVec 4) (d : BitVec 5) (c : BitVec 12) (s : State) : Host.Outcome State Fault Refusal :=
  runWord s g (fun s => writeCsr s c.toNat (srcS s d))

/-- `csrs` (R108): sets bits. -/
def execCsrs (g : BitVec 4) (d : BitVec 5) (c : BitVec 12) (s : State) : Host.Outcome State Fault Refusal :=
  runWord s g (fun s => writeCsr s c.toNat (readCsr s c.toNat ||| srcS s d))

/-- `csrc` (R108): clears bits. -/
def execCsrc (g : BitVec 4) (d : BitVec 5) (c : BitVec 12) (s : State) : Host.Outcome State Fault Refusal :=
  runWord s g (fun s => writeCsr s c.toNat (readCsr s c.toNat &&& ~~~(srcS s d)))

/-- `trap 0` ends the strand: no handler runs (R109). In a handler it is a double fault. -/
def execTrapEnd (g : BitVec 4) (s : State) : Host.Outcome State Fault Refusal :=
  runWord s g (fun s =>
    let b := s.cur.bank
    if (strandOf s b).trap then fatal s (strandOf s b).grp (mkRec s s.cur 0x38 0 0 0 false true) else endStrand s b)

/-- `trap n` (R109): the handler is entered with cause 0x38 and `tval` = n at F = T + 1, with cp at the packet that follows. In a
handler it is a double fault. -/
def execTrapService (g : BitVec 4) (n : BitVec 9) (s : State) : Host.Outcome State Fault Refusal :=
  runWord s g (fun s =>
    let b := s.cur.bank
    let r := mkRec s s.cur 0x38 0 n.toNat 0 false true
    if (strandOf s b).trap then fatal s (strandOf s b).grp r
    else post s (ctxClk s.cur) (now s + 1) 0 (bankRow b) 0 s.cur (.enter b r))

/-- `rett` (R110, R368). -/
def execRett (s : State) : Host.Outcome State Fault Refusal :=
  .next (returnFrom s s.cur.bank (idleAt s s.cur.bank))

/-- `tfence` (R111): its sample of `aflags` and `aen` is a dispatch check of its packet; issued, it does nothing more. -/
def execTfence (g : BitVec 4) (s : State) : Host.Outcome State Fault Refusal := runWord s g (fun s => s)

/-- The packet after a node packet issues at T + 1 plus its idle (R62). -/
def afterNode (s : State) : State := goTo s s.cur (now s + 1) s.cur.nxt

/-- `node 0` (R112): the snapshot. A strand whose table has a shoot-down pending stops after it (R114); a banked-out strand may
take the core back (R92). -/
def execNode0 (s : State) : Host.Outcome State Fault Refusal :=
  .next (stopForShootdown (offerCore (afterNode (writeSnapshot s s.cur.bank)) s.cur.bank) s.cur.bank)

/-- The buffer phase closes and the next opens (R307): the last four cards of the closed phase are kept, and the count of
cancels in a row ends (R383). -/
def nextPhase (s : State) (b : Nat) : State :=
  let t := strandOf s b
  let s1 := setStrand s b { t with cards := t.cardsNow.drop (t.cardsNow.length - 4), cardsNow := [] }
  setGroup s1 t.grp { groupOf s1 t.grp with cancels := 0 }

/-- `node 1` (R112, R307). -/
def execNode1 (s : State) : Host.Outcome State Fault Refusal :=
  .next (stopForShootdown (offerCore (afterNode (nextPhase (writeSnapshot s s.cur.bank) s.cur.bank)) s.cur.bank) s.cur.bank)

/-- `node 2` (R112): with a yield request pending the strand goes to yielded. -/
def execNode2 (s : State) : Host.Outcome State Fault Refusal :=
  let b := s.cur.bank
  let s1 := afterNode (writeSnapshot s b)
  .next (if (strandOf s b).yreq.getLsbD 0 then yieldStrand s1 b
    else stopForShootdown (offerCore s1 b) b)

/-- `yield` (R112): the strand goes to yielded. -/
def execYield (s : State) : Host.Outcome State Fault Refusal :=
  let b := s.cur.bank
  .next (yieldStrand (afterNode (writeSnapshot s b)) b)

end Sys2Proof.Machine
end

