-- ==== Sys2Proof/Machine/Land.lean ====
section
/-! DEFINITION. RESULT_LAND: a result of a word reaches its registers, or takes its effect, at its landing kc (R53, R63, R116), with the
flags it raises. -/

namespace Sys2Proof.Machine

/-- What a landing does (R53, R157, R158, R228 to R236, R354). The registers of a bank whose group has left it go on receiving results until
another group's strand takes the bank. -/
def landKind (s : State) (k : LandKind) : State :=
  let b := s.cur.bank
  match k with
  | .regs ws => if ws.isEmpty ∨ (strandOf s b).grp ≠ s.cur.grp then s else logWrites (setStrand s b (writeRegs (strandOf s b) ws)) b (scalarWrites ws)
  | .srdef slot img reg => landSrdef s b slot img reg
  | .srkill h => if killStale s b h then lateFault s 0 (.ev (.resultLand { kind := k, flags := 0 })) (killRec s s.cur h) [] else landSrkill s b h
  | .tkSplit id x y => landSplit s b id x y
  | .tkJoin lo up x y => landJoin s b lo up x y
  | .tkQry f id reg scope => landLater s 1 (.regs [.s reg (BitVec.ofNat 64 (queryValue s b f id scope))]) 0
  | .tkShareRv id tgt => landShareRv s id tgt
  | .tkRetSh id => landRetSh s b id
  | .tkTaken id share => landTaken s b id share
  | .tkMint id reg => landMint s b id reg
  | .tkMintNew v reg => landMintNew s b v reg
  | .barPhase idx reg =>
    if 4096 ≤ idx then putReg (freeValue s).2 b reg (if (freeValue s).1 % 2 = 1 then 1 else 0)
    else putReg s b reg (if (mirrorOf s (bankStack b) idx).phase then 1 else 0)
  | .barArrive pkg idx => barLeaves s pkg idx
  | .barPassed idx => endWaits s b (fun w => match w with | .barrier i _ _ _ _ => i == idx | _ => false)

/-- A result lands, and its flags are set with it (R53). -/
def land (s : State) (l : Landing) : State :=
  let s1 := landKind s l.kind
  if l.flags = 0 ∨ (strandOf s1 s.cur.bank).grp ≠ s.cur.grp then s1 else setStrand s1 s.cur.bank (raiseFlags s.hkc (strandOf s1 s.cur.bank) l.flags)

/-- The vector registers that a landing writes, of a strand that is still there. -/
def landVecs (s : State) (c : Ctx) (l : Landing) : List Nat :=
  match l.kind with
  | .regs ws => if (strandOf s c.bank).grp = c.grp then vecWritesOf ws else []
  | _ => []

/-- A vector register that a landing writes has a failing word that is rebuilt first (R450). -/
def landRebuilds (s : State) (c : Ctx) (l : Landing) : Bool :=
  let t := strandOf s c.bank
  (failsIn t.vbad (landVecs s c l)).any (fun e => !wordDead t.vbad 48 e)

/-- What a write finds dead in the registers that a landing writes is logged (R450). -/
def landLogs (s : State) (l : Landing) : State :=
  let t := strandOf s s.cur.bank
  if (failsIn t.vbad (landVecs s s.cur l)).any (fun e => decide (e.1 / 128 < 48)) then logInner s else s

/-- RESULT_LAND (R53, R63). A failing word of a register that it writes is rebuilt first, under a freeze with no trap; a handler's result lands at
once (R450). -/
def execResultLand (l : Landing) (s : State) : Host.Outcome State Fault Refusal :=
  let c := s.cur
  .next (if landRebuilds s c l then
      (let s1 := rebuildVec s c.bank (landVecs s c l)
       if c.hand ∨ c.drain then land s1 l
       else endStop (freezeGroup (post s1 (ctxClk c) (now s) 0 (bankRow c.bank) (engineRank (wordEng c.word)) c (.ev (.resultLand l))) c.grp
         (bankStack c.bank) .rebuild) c.grp (bankStack c.bank) .rebuild)
    else land (landLogs s l) l)

end Sys2Proof.Machine
end

