-- ==== Sys2Proof/Machine/LoadStore.lean ====
section
/-! DEFINITION. The memory words of the C and V engines (R103 to R106, R141, R142) and the conditional streams (R144 to R147): what a
word does at its engine. Its access performs later, as ACCESS_PERFORM. -/

namespace Sys2Proof.Machine

/-- The physical address that a virtual address has under the window table captured at dispatch (R280). -/
def translate (c : Ctx) (va : Nat) : Option Nat := (lookup c.tbl va).map (fun e => physOf e va)

/-- The latency of a C access by what it reaches (R105); none outside the strand's zone. -/
def cLatency (s : State) (b pa : Nat) : Option Nat :=
  if paPkg pa ≠ s.dev.pkg then none
  else match placeOf (paLocal pa) with
    | .sram z _ => if z = bankStack b then some 4 else none
    | .spad c _ => if c / 8 = bankRow b then some 6 else if c / 128 = bankStack b then some 10 else none
    | .dram c _ => if c / 128 = bankStack b then some 40 else none
    | _ => none

/-- An access of the executing word: it performs `d` kc from now, in phase `ph` (3 for reads, 4 for writes and atomics). -/
def accessLater (s : State) (d ph : Nat) (a : Access) : State :=
  later s d ph (engineRank (wordEng s.cur.word)) (.accessPerform a)

/-- The address lies in the running handler's frame (R363). -/
def inFrame (s : State) (b va : Nat) : Bool :=
  (strandOf s b).trap && decide (frameBase s b ≤ va) && decide (va < frameBase s b + 16384)

/-- A C access (R105): to the handler's own frame with latency 4 (R363); in its zone with the latency of the table; outside it
with a variable one of at least 24 kc (log entry 3). `lag` is what lies between the perform kc and the landing. -/
def cAccess (s : State) (va size ph lag cls : Nat) (op : AccOp) (frameOp : Option AccOp) : State :=
  let a : Access := { op := op, va := va, pa := 0, len := size, cls := cls, lag := lag }
  match (if inFrame s s.cur.bank va then frameOp else none) with
  | some f => accessLater s 3 ph { a with op := f, va := va - frameBase s s.cur.bank }
  | none =>
    match translate s.cur va with
    | none => accessLater s 3 ph a
    | some pa =>
      match cLatency s s.cur.bank pa with
      | some l => accessLater s (l - 1) ph { a with pa := pa }
      | none => let (r, s1) := freeValue s; accessLater s1 (23 + r) ph { a with pa := pa }

/-- A load (R103): it reads memory at its perform kc, and the value lands 1 kc later. -/
def loadWord (s : State) (g : BitVec 4) (t a : BitVec 5) (c : BitVec 4) (o : BitVec 5) (size : Nat) (sx : Bool) :
    Host.Outcome State Fault Refusal :=
  runWord s g (fun s => cAccess s (effAddr (srcS s a) o size).toNat size 3 1 c.toNat (.load t.toNat sx) (some (.frameLoad t.toNat sx)))

/-- A store (R103): the low bytes of st, as read at issue, are written at the perform kc. -/
def storeWord (s : State) (g : BitVec 4) (t a : BitVec 5) (c : BitVec 4) (o : BitVec 5) (size : Nat) : Host.Outcome State Fault Refusal :=
  runWord s g (fun s => cAccess s (effAddr (srcS s a) o size).toNat size 4 0 c.toNat (.store (srcS s t)) (some (.frameStore (srcS s t))))

/-- An atomic on the aligned 8 bytes at sa (R106): read, modified and written at its perform kc; sd receives the old value 3 kc
later. -/
def atomicWord (s : State) (g : BitVec 4) (d a b : BitVec 5) (c : BitVec 4) (op : Nat) : Host.Outcome State Fault Refusal :=
  runWord s g (fun s => cAccess s (srcS s a).toNat 8 4 3 c.toNat (.amo op d.toNat (srcS s b) (srcS s d)) none)

/-- `ld.b` (R103). -/
def execLdB (g : BitVec 4) (t a : BitVec 5) (c : BitVec 4) (o : BitVec 5) (s : State) : Host.Outcome State Fault Refusal :=
  loadWord s g t a c o 1 true

/-- `ld.bu` (R103). -/
def execLdBu (g : BitVec 4) (t a : BitVec 5) (c : BitVec 4) (o : BitVec 5) (s : State) : Host.Outcome State Fault Refusal :=
  loadWord s g t a c o 1 false

/-- `ld.h` (R103). -/
def execLdH (g : BitVec 4) (t a : BitVec 5) (c : BitVec 4) (o : BitVec 5) (s : State) : Host.Outcome State Fault Refusal :=
  loadWord s g t a c o 2 true

/-- `ld.hu` (R103). -/
def execLdHu (g : BitVec 4) (t a : BitVec 5) (c : BitVec 4) (o : BitVec 5) (s : State) : Host.Outcome State Fault Refusal :=
  loadWord s g t a c o 2 false

/-- `ld.w` (R103). -/
def execLdW (g : BitVec 4) (t a : BitVec 5) (c : BitVec 4) (o : BitVec 5) (s : State) : Host.Outcome State Fault Refusal :=
  loadWord s g t a c o 4 true

/-- `ld.wu` (R103). -/
def execLdWu (g : BitVec 4) (t a : BitVec 5) (c : BitVec 4) (o : BitVec 5) (s : State) : Host.Outcome State Fault Refusal :=
  loadWord s g t a c o 4 false

/-- `ld.d` (R103). -/
def execLdD (g : BitVec 4) (t a : BitVec 5) (c : BitVec 4) (o : BitVec 5) (s : State) : Host.Outcome State Fault Refusal :=
  loadWord s g t a c o 8 false

/-- `st.b` (R103). -/
def execStB (g : BitVec 4) (t a : BitVec 5) (c : BitVec 4) (o : BitVec 5) (s : State) : Host.Outcome State Fault Refusal :=
  storeWord s g t a c o 1

/-- `st.h` (R103). -/
def execStH (g : BitVec 4) (t a : BitVec 5) (c : BitVec 4) (o : BitVec 5) (s : State) : Host.Outcome State Fault Refusal :=
  storeWord s g t a c o 2

/-- `st.w` (R103). -/
def execStW (g : BitVec 4) (t a : BitVec 5) (c : BitVec 4) (o : BitVec 5) (s : State) : Host.Outcome State Fault Refusal :=
  storeWord s g t a c o 4

/-- `st.d` (R103). -/
def execStD (g : BitVec 4) (t a : BitVec 5) (c : BitVec 4) (o : BitVec 5) (s : State) : Host.Outcome State Fault Refusal :=
  storeWord s g t a c o 8

/-- The new value of an atomic (R106), by its place in the opcode map: add, and, or, max, swap, cas. -/
def amoNew (op : Nat) (old b d : Dword) : Dword :=
  match op with
  | 0 => old + b
  | 1 => old &&& b
  | 2 => old ||| b
  | 3 => if old.toInt ≤ b.toInt then b else old
  | 4 => b
  | _ => if old = d then b else old

/-- `amo.add` (R106). -/
def execAmoAdd (g : BitVec 4) (d a b : BitVec 5) (c : BitVec 4) (s : State) : Host.Outcome State Fault Refusal :=
  atomicWord s g d a b c 0

/-- `amo.and` (R106). -/
def execAmoAnd (g : BitVec 4) (d a b : BitVec 5) (c : BitVec 4) (s : State) : Host.Outcome State Fault Refusal :=
  atomicWord s g d a b c 1

/-- `amo.or` (R106). -/
def execAmoOr (g : BitVec 4) (d a b : BitVec 5) (c : BitVec 4) (s : State) : Host.Outcome State Fault Refusal :=
  atomicWord s g d a b c 2

/-- `amo.max` (R106). -/
def execAmoMax (g : BitVec 4) (d a b : BitVec 5) (c : BitVec 4) (s : State) : Host.Outcome State Fault Refusal :=
  atomicWord s g d a b c 3

/-- `amo.swap` (R106). -/
def execAmoSwap (g : BitVec 4) (d a b : BitVec 5) (c : BitVec 4) (s : State) : Host.Outcome State Fault Refusal :=
  atomicWord s g d a b c 4

/-- `amo.cas` (R106). -/
def execAmoCas (g : BitVec 4) (d a b : BitVec 5) (c : BitVec 4) (s : State) : Host.Outcome State Fault Refusal :=
  atomicWord s g d a b c 5

/-- `vld` (R141): it reads at t + L − 1, and the value lands at t + L in its latch and in vd. -/
def execVld (g : BitVec 4) (d : BitVec 6) (_ss : BitVec 5) (o c : BitVec 4) (s : State) : Host.Outcome State Fault Refusal :=
  runWord s g (fun s =>
    let va := (vecAddr s.cur.ra o).toNat
    let l := vLatency s.cur.bank ((translate s.cur va).getD 0)
    accessLater s (l - 1) 3 { op := .vload d.toNat false (latchOf s), va := va, pa := (translate s.cur va).getD 0, len := 512, cls := c.toNat, lag := 1 })

/-- `vst` (R141): it writes at t + L − 1 the source as it stands at t; a latch may be stored (R71). -/
def execVst (g : BitVec 4) (d : BitVec 6) (_ss : BitVec 5) (o c : BitVec 4) (s : State) : Host.Outcome State Fault Refusal :=
  runWord s g (fun s =>
    let va := (vecAddr s.cur.ra o).toNat
    let l := vLatency s.cur.bank ((translate s.cur va).getD 0)
    accessLater s (l - 1) 4 { op := .vstore (srcV s d), va := va, pa := (translate s.cur va).getD 0, len := 512, cls := c.toNat, lag := 0 })

/-- The gather region (R142): the group's scratchpad budget region in the cells of the strand's own row. -/
def inGather (s : State) (b pa : Nat) : Bool :=
  let g := bankGroup s b
  decide (paPkg pa = s.dev.pkg) &&
  match placeOf (paLocal pa) with
  | .spad c o => decide (c / 8 = bankRow b) && decide (g.spadBase ≤ o) && decide (o < g.spadBase + g.spadLen)
  | _ => false

/-- The address lies in the bank's trap frame, which no word but a handler's load or store reaches (R363). -/
def frameHole (s : State) (b va : Nat) : Bool := decide (frameBase s b ≤ va) && decide (va < frameBase s b + 16384)

/-- A lane of `vldg` in range (R142): its virtual address, if it translates to a readable page and into the gather region, the trap frame being
unmapped (R363). -/
def gatherLane (s : State) (base : Dword) (x : Word) : Option Nat :=
  let va := (base + BitVec.ofNat 64 (4 * x.toNat)).toNat
  match lookup s.cur.tbl va with
  | some e => if weR e ∧ inGather s s.cur.bank (physOf e va) ∧ !frameHole s s.cur.bank va then some va else none
  | none => none

/-- `vldg` (R142): every lane reads at t + 7, and the result lands at t + 8; a lane out of range returns 0 and raises G. -/
def execVldg (g : BitVec 4) (d a : BitVec 6) (_ss : BitVec 5) (c : BitVec 2) (s : State) : Host.Outcome State Fault Refusal :=
  runWord s g (fun s =>
    let x := srcV s a
    let lanes := (List.range 128).map (fun l => gatherLane s s.cur.ra (lane x l))
    accessLater s 7 3 { op := .vgather d.toNat false (latchOf s) lanes, va := s.cur.ra.toNat, pa := 0, len := 4, cls := c.toNat, lag := 1 })

/-- The lanes of a vector whose bit of a mask is 1, in ascending lane order (R144). -/
def pickLanes (k : Mask) (x : Vec) : List Word := (List.range 128).filterMap (fun l => if k.getLsbD l then some (lane x l) else none)

/-- The running bank of the other row of the row pair (R145). -/
def pairedBank (s : State) (b : Nat) : Nat :=
  let r := bankRow b
  let o := if r % 2 = 0 then r + 1 else r - 1
  2 * o + (rowOf s o).run

/-- The running bank of the other row of the pair, if it holds a strand of the same group (R145). -/
def pairBank (s : State) (b : Nat) : Option Nat :=
  let r := bankRow b
  let ob := pairedBank s b
  let t := strandOf s ob
  if t.st ≠ .unloaded ∧ t.grp = (strandOf s b).grp ∧ b % 2 = (rowOf s r).run then some ob else none

/-- A stream with entries appended. -/
def pushStream (s : State) (b q : Nat) (ws : List Word) : State :=
  let t := strandOf s b
  setStrand s b { t with q := t.q.put q (streamOf t q ++ ws) }

/-- Balanced placement of entries (R145): each goes to the stream with fewer entries, on a tie to the even row's. -/
def balance (ws : List Word) (even odd : List Word) : List Word × List Word :=
  match ws with
  | [] => (even, odd)
  | w :: t => if even.length ≤ odd.length then balance t (even ++ [w]) odd else balance t even (odd ++ [w])

/-- The entries that a push does not fit (R144): 0 where it fits. -/
def pushExcess (s : State) (b q : Nat) (bal : Bool) (c : Nat) : Nat :=
  let occ := (streamOf (strandOf s b) q).length
  match (if bal then pairBank s b else none) with
  | some o => c - ((512 - occ) + (512 - (streamOf (strandOf s o) q).length))
  | none => c - (512 - occ)

/-- A push that does not fit appends nothing and takes cause 0x1A at its engine's kc (R144). -/
def pushFault (s : State) (excess : Nat) : State :=
  lateFault s 5 (.word s.cur.word) (mkRec s s.cur 0x1A 7 0 excess true false) []

/-- `vpush` (R144): the lanes that `k0` picks go to the tail of stream d. -/
def execVpush (g : BitVec 4) (d a : BitVec 6) (s : State) : Host.Outcome State Fault Refusal :=
  runWord s g (fun s =>
    let ws := pickLanes (maskOf (curStrand s) 0) (srcV s a)
    let x := pushExcess s s.cur.bank d.toNat false ws.length
    if x = 0 then pushStream s s.cur.bank d.toNat ws else pushFault s x)

/-- `vpush.bal` (R145): the entries are spread over the same-numbered streams of the row pair. -/
def execVpushBal (g : BitVec 4) (d a : BitVec 6) (s : State) : Host.Outcome State Fault Refusal :=
  runWord s g (fun s =>
    let b := s.cur.bank
    let q := d.toNat
    let ws := pickLanes (maskOf (curStrand s) 0) (srcV s a)
    let x := pushExcess s b q true ws.length
    if x ≠ 0 then pushFault s x
    else match pairBank s b with
      | none => pushStream s b q ws
      | some o =>
        let e := if bankRow b % 2 = 0 then b else o
        let f := if bankRow b % 2 = 0 then o else b
        let r := balance ws (streamOf (strandOf s e) q) (streamOf (strandOf s f) q)
        let s1 := setStrand s e { strandOf s e with q := (strandOf s e).q.put q r.1 }
        setStrand s1 f { strandOf s1 f with q := (strandOf s1 f).q.put q r.2 })

/-- `vpop` (R146): up to 128 entries from the head of stream a; the vector and mask b land 2 kc later, and nw suppresses only
the vector register's write. -/
def execVpop (g : BitVec 4) (d a b : BitVec 6) (n : BitVec 1) (s : State) : Host.Outcome State Fault Refusal :=
  runWord s g (fun s =>
    let t := curStrand s
    let ws := streamOf t a.toNat
    let c := min 128 ws.length
    let x := ofLanes (fun l => if l < c then ws.getD l 0 else 0)
    let s1 := setStrand s s.cur.bank { t with q := t.q.put a.toNat (ws.drop c) }
    landLater s1 2 (.regs (vecWrites (latchOf s) d n x ++ [.k b.toNat (ofMaskBits (fun l => decide (l < c)))])) 0)

end Sys2Proof.Machine
end

