-- ==== Sys2Proof/Machine/Xfer.lean ====
section
/-! DEFINITION. The words of the transfer engine (R259 to R265) and the submissions of jobs (R266 to R268): `xcopy`, `xsend`, `xrecv`,
`xjob` and `xjobf` at their engine and at each of their steps, with MESSAGE_ARRIVAL, XRECV_TIMEOUT and ORPHAN_MESSAGE_TIMEOUT. -/

namespace Sys2Proof.Machine

/-- The kinds of an X word's steps: a source line, a destination line, the message's departure, the end. -/
def xRead : Nat := 0
def xWrite : Nat := 1
def xLeave : Nat := 2
def xEnd : Nat := 3

/-- The steps that read the source lines of the executing word, from `d` kc on (R261, R263). -/
def readLines (s : State) (id d : Nat) (ls : List Nat) : State :=
  (ls.zip (List.range ls.length)).foldl (fun st e => stepLater st id xRead e.2 (d + e.2) 3 [64 * e.1] 64 false 1) s

/-- The steps that write the destination lines, each under its byte mask, from `d` kc on (R261, R264). -/
def writeLines (s : State) (id d sel : Nat) (ls : List Nat) (mask : Nat → Nat) : State :=
  (ls.zip (List.range ls.length)).foldl (fun st e => stepUnder st id xWrite e.2 (d + e.2) 4 [64 * e.1] 64 true sel [mask e.1]) s

/-- `w` bits at bit `o` of a line in the making take a value, whatever stood there: the bits, and a one for each bit written. -/
def layBits (acc : Nat × Nat) (o w x : Nat) : Nat × Nat :=
  let keep := (2 ^ w - 1) * 2 ^ o
  (acc.1 - (acc.1 &&& keep) + x % 2 ^ w * 2 ^ o, acc.2 ||| keep)

/-- The copy's destination bytes of one line (R260): every element of the destination in it takes its source element, the last one where several share
a byte. The second number has a one for each bit written. -/
def copyBits (src dst : ShapeImg) (swap : Bool) (buf : Sparse (BitVec 512)) (line : Nat) : List Byte × Nat :=
  let w := max 1 (fmtBytes (recFmt dst))
  let byteOf (a : Nat) : Nat := bitsOf (buf.getD (a / 64) 0).toNat (8 * (a % 64)) 8
  let start : Nat × Nat := (0, 0)
  let r := (List.range (recCount dst)).foldl (fun (acc : Nat × Nat) n =>
    let t := recIndex dst n
    let d := elemAddr dst t.1 t.2.1 t.2.2.1 t.2.2.2
    let a := if swap then elemAddr src t.2.1 t.1 t.2.2.1 t.2.2.2 else elemAddr src t.1 t.2.1 t.2.2.1 t.2.2.2
    if recFmt dst = 0 then
      (if d / 64 ≠ line then acc else layBits acc (8 * (d % 64) + 4 * (t.1 % 2)) 4 (bitsOf (byteOf a) (4 * ((if swap then t.2.1 else t.1) % 2)) 4))
    else (List.range w).foldl (fun x k => if (d + k) / 64 ≠ line then x else layBits x (8 * ((d + k) % 64)) 8 (byteOf (a + k))) acc) start
  (leBytes 64 r.1, r.2)

/-- `xcopy` (R260, R261). -/
def execXcopy (g : BitVec 4) (a b c : BitVec 5) (l : BitVec 4) (s : State) : Host.Outcome State Fault Refusal :=
  runMacro s g (.xcopy g a b c l) (fun s =>
    let src := recLines (rec0 s.cur)
    let dst := recLines (rec1 s.cur)
    let m := newMacro s none none false
    let s1 := readLines m.2 m.1 2 src
    let s2 := writeLines s1 m.1 (3 + src.length) 2 dst (fun l => byteMask (copyBits (rec0 s.cur) (rec1 s.cur) (bitOf s.cur.rc.toNat 0) [] l).2)
    stepLater s2 m.1 xEnd 0 (2 + src.length + dst.length) 5 [] 0 false 0)

/-- `xsend` (R263): the lines, then the message leaves. -/
def execXsend (g : BitVec 4) (a b : BitVec 5) (l : BitVec 4) (s : State) : Host.Outcome State Fault Refusal :=
  runMacro s g (.xsend g a b l) (fun s =>
    let src := recLines (rec0 s.cur)
    let m := newMacro s none none false
    stepLater (readLines m.2 m.1 2 src) m.1 xLeave 0 (2 + src.length) 5 [] 0 false 0)

/-- The 64 data bits of a line and one bit for each of its bytes that a record's elements occupy, as a mask of 64 bits (R260, R264). -/
def lineMask (r : ShapeImg) (line : Nat) : Nat :=
  ((recBytes r).filter (fun a => decide (a / 64 = line))).foldl (fun m a => if bitOf m (a % 64) then m else m + 2 ^ (a % 64)) 0

/-- The message of a channel is consumed by the receive of the executing word (R264): the lines follow; one whose line count differs is
discarded and faults. -/
def consume (s : State) (id chan : Nat) (m : ChanMsg) : State :=
  let b := s.cur.bank
  let dst := recLines (rec0 s.cur)
  let t := strandOf s b
  let s1 := setStrand s b { t with chans := t.chans.drop chan }
  match macroAt s1 (curRow s1) id with
  | none => s1
  | some x =>
    let buf : Sparse (BitVec 512) := (dst.zip m.msg.lines).foldl (fun w e => w.put e.1 e.2) []
    let s2 := putMacro s1 (curRow s1) id { x with buf := buf }
    let s3 := writeLines s2 id 2 1 dst (lineMask (rec0 s.cur))
    endWaits (stepLater s3 id xEnd 0 (2 + dst.length) 5 [] 0 false 0) b (fun w => w == .receive chan)

/-- The detail of a message fault (R265). -/
def orphanDetail (chan : Nat) (m : Message) : Nat := chan + m.sgrow * 2 ^ 8 + m.sgstack * 2 ^ 16

/-- A held message fits the receive of a word: its line count is the destination's (R264). -/
def fits (c : Ctx) (m : Message) : Bool := decide (m.lines.length = (recLines (rec0 c)).length)

/-- The record of a receive whose message does not fit (R264, R265). -/
def misfitRec (s : State) (c : Ctx) (chan : Nat) (m : Message) : FaultRec := mkRec s c 0x12 3 0 (orphanDetail chan m) true false

/-- The channel of an `xrecv` (R264). -/
def recvChan (c : Ctx) : Nat := c.rc.toNat % 8

/-- A receive meets a message that does not fit: the message is discarded, nothing is written, and the strand takes 0x12 (R264). -/
def misfit (s : State) (ph : Nat) (pay : Pay) (chan : Nat) (m : ChanMsg) : State :=
  let b := s.cur.bank
  let t := strandOf s b
  lateFault (endWaits (setStrand s b { t with chans := t.chans.drop chan }) b (fun w => w == .receive chan)) ph pay
    (misfitRec s s.cur chan m.msg) []

/-- The receive buffer of a channel fails its parity: the word parity that it carries rebuilds nothing (R379, R380). -/
def chanBad (s : State) (b chan : Nat) : Bool := !(failsIn (strandOf s b).vbad [64 + chan]).isEmpty

/-- A receive reads a buffer that fails its parity (R380): the message is lost, and the strand takes 0x32. -/
def chanFault (s : State) (b chan : Nat) : State :=
  let t := strandOf s b
  lateFault (endWaits (setStrand s b { t with chans := t.chans.drop chan, vbad := wordsWritten t.vbad 48 [64 + chan] }) b (fun w => w == .receive chan)) 2
    (.word s.cur.word) (mkRec s s.cur 0x32 3 0 0 true false) []

/-- `xrecv` (R264): a message held already is consumed at t; else in timed mode its slack runs, and in loose mode the strand waits. -/
def execXrecv (g : BitVec 4) (a b c : BitVec 5) (l : BitVec 4) (s : State) : Host.Outcome State Fault Refusal :=
  runMacro s g (.xrecv g a b c l) (fun s =>
    let bk := s.cur.bank
    let chan := recvChan s.cur
    match Sparse.find (strandOf s bk).chans chan with
    | some x =>
      if chanBad s bk chan then chanFault s bk chan
      else if fits s.cur x.msg then
        let m := newMacro s none none false
        consume m.2 m.1 chan x
      else misfit s 2 (.word s.cur.word) chan x
    | none =>
      let m := newMacro s none none false
      if timedNow s bk then later m.2 (s.cur.rb.toNat % 2 ^ 32) 5 3 (.xrecvTimeout m.1)
      else
        let t := strandOf m.2 bk
        setStrand m.2 bk { t with wait := if t.wait.contains (.receive chan) then t.wait else .receive chan :: t.wait })

/-- The copy of an `xcopy` (R260), line by line. -/
def copyLine (m : Macro) (line : Nat) : List Byte × Nat := copyBits (rec0 m.ctx) (rec1 m.ctx) (bitOf m.ctx.rc.toNat 0) m.buf line

/-- A line of an `xcopy` written: elements of half a byte leave the other half as it is (R27, R260). -/
def putLine (s : State) (c : Ctx) (line : Nat) (bs : List Byte) (bits : Nat) : State :=
  let old := readVa s c (64 * line) 64
  let mixed := (List.range 64).map (fun i =>
    let k := bitsOf bits (8 * i) 8
    BitVec.ofNat 8 (((bs.getD i 0).toNat &&& k) + ((old.getD i 0).toNat &&& (255 - k))))
  writeVaMasked s c (64 * line) mixed ((List.range 64).foldl (fun m i => if bitsOf bits (8 * i) 8 = 0 then m else m + 2 ^ i) 0)

/-- The bank in which the receiver of an `xsend` lives (R263). -/
def sendTarget (s : State) (c : Ctx) : Option Nat :=
  bankAt s c.grp (bitsOf c.rb.toNat 12 3) (bitsOf c.rb.toNat 8 4)

/-- How long a message can wait behind the chain partials that its row still has to send over a stack edge (R388). -/
def chainWait (s : State) (r : Nat) : Nat :=
  (s.agenda.filter (fun e => decide (bankRow e.ctx.bank = r) && (match e.pay with
    | .ev (.accessPerform a) => (match a.op with
      | .step id k => decide (stepCls k = kWrite) &&
          (match macroAt s r id with | some m => isProduct m.word && ctlCout m.ctx.rb | none => false)
      | _ => false)
    | _ => false))).length

/-- A message leaves (R263): it reaches the receiver 6 kc later in the same stack, else at its arrival kc. A retired stack edge loses it
(R393); a replay delays it (R389), and so does its row's chain traffic, for a time that nothing fixes (R388; log entry 3). -/
def sendMessage (s : State) (m : Macro) : State :=
  let c := m.ctx
  let z := bankStack c.bank
  let t := strandOf s c.bank
  let msg : Message :=
    { grp := c.grp, gstack := bitsOf c.rb.toNat 12 3, grow := bitsOf c.rb.toNat 8 4, chan := c.rb.toNat % 8, sgstack := t.gstack,
      sgrow := t.grow, lines := (recLines (rec0 c)).map (fun l => m.buf.getD l 0) }
  match sendTarget s c with
  | none => s
  | some b =>
    let z2 := bankStack b
    let kc2 := (gzone (groupOf s c.grp) z2).kc
    let st := if c.hand then kc2 else now s
    let cx : Ctx := { Ctx.none with grp := c.grp, bank := b, pkc := c.bank }
    if z2 = z then let q := landingAt s c.grp z2 (st + 6); post s q.1 q.2 0 (bankRow b) 0 cx (.ev (.messageArrival msg))
    else
      match edgeLink z z2 with
      | some l =>
        if (linkOf s l).st = .retired then s
        else
          let u := useSlot s l (edgeSlot (bankRow c.bank) (decide (z2 < z))) msg.lines.length
          let n := chainWait s (bankRow c.bank)
          let (w, s1) := if n = 0 then (0, u.2) else freeValue u.2
          let a := arrivalAt s1 (9 * z + z2) st (st + lam s z z2) kc2 false
          let q := landingAt a.2 c.grp z2 (a.1 + u.1 + w % (n + 1))
          post a.2 q.1 q.2 0 (bankRow b) 0 cx (.ev (.messageArrival msg))
      | none =>
        let a := arrivalAt s (9 * z + z2) st (st + lam s z z2) kc2 false
        let q := landingAt a.2 c.grp z2 a.1
        post a.2 q.1 q.2 0 (bankRow b) 0 cx (.ev (.messageArrival msg))

/-- What a step of an X word does (R193). -/
def xStep (s : State) (id k : Nat) (a : Access) : State :=
  let r := curRow s
  match macroAt s r id with
  | none => s
  | some m =>
    let cls := stepCls k
    let op := bitsOf m.word.toNat 19 6
    let line := a.va / 64
    if m.dead then (if cls = xEnd ∨ cls = xLeave then dropMacro s r id else s)
    else if cls = xRead then
      putMacro (afterReads s s.cur a) r id { m with buf := m.buf.put line (BitVec.ofNat 512 (readVaNat s s.cur a.va 64)) }
    else if cls = xWrite then
      (if op = 1 then let x := copyLine m line; putLine s s.cur line x.1 x.2
       else writeVaMasked s s.cur (64 * line) (leBytes 64 (m.buf.getD line 0).toNat) (lineMask (rec0 m.ctx) line))
    else if cls = xLeave then dropMacro (sendMessage s m) r id
    else dropMacro s r id

/-- What a late fault leaves of an X word (R261, R263): it comes to nothing, but for a page that is away. -/
def xFails (s : State) (id cause : Nat) : State :=
  match macroAt s (curRow s) id with
  | some m => if cause = 0x04 then s else putMacro s (curRow s) id { m with dead := true }
  | none => s

/-- The receive in progress of a bank on a channel, with its number among the row's macro words. -/
def openReceive (s : State) (b chan : Nat) : Option (Nat × Macro) :=
  (rowOf s (bankRow b)).macros.find? (fun e => decide (e.2.ctx.bank = b) && decide (wordEng e.2.word = 3) &&
    decide (bitsOf e.2.word.toNat 19 6 = 3) && decide (recvChan e.2.ctx = chan) &&
    (s.agenda.any (fun t => match t.pay with | .ev (.xrecvTimeout i) => decide (i = e.1) && decide (t.ctx.bank = b) | _ => false) ||
      (strandOf s b).wait.contains (.receive chan)))

/-- The record of a message that meets no receive (R265; log entry 14): it names no word of the receiving strand. -/
def orphanRec (s : State) (b kc chan : Nat) (m : Message) : FaultRec :=
  { mkRec s { Ctx.none with bank := b, grp := (strandOf s b).grp, pkc := kc } 0x12 3 0 (orphanDetail chan m) true false with eng := 3 }

/-- What a message does at its arrival (R264, R265). -/
inductive Meets where
  /-- No strand is there any more. -/
  | gone
  /-- The channel takes it. -/
  | held (b : Nat)
  /-- A receive takes it. -/
  | taken (b id : Nat) (m : Macro)
  /-- The channel is full, in timed mode: orphan data. -/
  | orphan (b : Nat)
  /-- The channel is full, in loose mode: the sender's engine waits. -/
  | blocked (b : Nat)
  deriving DecidableEq, Repr

/-- What a message meets (R264, R265). -/
def meets (s : State) (m : Message) : Meets :=
  match bankAt s m.grp m.gstack m.grow with
  | none => .gone
  | some b =>
    match Sparse.find (strandOf s b).chans m.chan with
    | some _ => if timedMode (groupOf s m.grp) then .orphan b else .blocked b
    | none =>
      match openReceive s b m.chan with
      | some (id, x) => .taken b id x
      | none => .held b

/-- A message is held in its channel; in timed mode its time as an orphan runs (R265). -/
def holdMessage (s : State) (b : Nat) (m : Message) : State :=
  let t := strandOf s b
  let kc := bankKc s b
  let n := s.seq
  let s1 := setStrand s b { t with chans := t.chans.put m.chan { serial := n, at_ := kc, msg := m }, vbad := wordsWritten t.vbad 48 [64 + m.chan] }
  let c : Ctx := { Ctx.none with bank := b, grp := t.grp }
  if timedMode (groupOf s m.grp) then post s1 (.kern t.grp (bankStack b)) (kc + 256) 5 (bankRow b) 3 c (.ev (.orphanMessageTimeout m.chan n))
  else { s1 with seq := n + 1 }

/-- A strand fault that no word of the strand causes (R265), at the strand's kc. -/
def strandFault (s : State) (b : Nat) (r : FaultRec) : State :=
  takeException s b r (bankKc s b) { Ctx.none with bank := b, grp := (strandOf s b).grp, tbl := bankTable s b } [] none

/-- MESSAGE_ARRIVAL (R263 to R265). A fault that an arrival finds during a freeze is raised when kernel time runs on. -/
def execMessageArrival (m : Message) (s : State) : Host.Outcome State Fault Refusal :=
  .next (match meets s m with
    | .gone => s
    | .held b => holdMessage s b m
    | .orphan b =>
      if bankRuns s b then strandFault s b (orphanRec s b (bankKc s b) m.chan m)
      else post s (.kern m.grp (bankStack b)) (bankKc s b) 0 (bankRow b) 0 s.cur (.ev (.messageArrival m))
    | .blocked b =>
      let r := bankRow s.cur.pkc
      let s1 := setRow s r { rowOf s r with xBusy := max (rowOf s r).xBusy (bankKc s s.cur.pkc + 3) }
      post s1 (.kern m.grp (bankStack b)) (bankKc s b + 1) 0 (bankRow b) 0 s.cur (.ev (.messageArrival m))
    | .taken b id x =>
      let s0 := { s with cur := x.ctx }
      let s1 := dropEntries s0 (fun e => (match e.pay with | .ev (.xrecvTimeout i) => i == id | _ => false) && decide (e.ctx.bank = b))
      if fits x.ctx m then
        { consume s1 id m.chan { serial := 0, at_ := 0, msg := m } with cur := s.cur }
      else
        { misfit (dropMacro s1 (bankRow b) id) 0 (.ev (.messageArrival m)) m.chan { serial := 0, at_ := 0, msg := m } with cur := s.cur })

/-- The record of a receive whose slack has run out (R264). -/
def recvRec (s : State) (c : Ctx) : FaultRec := mkRec s c 0x13 3 0 0 true false

/-- XRECV_TIMEOUT (R264): no message has come. -/
def execXrecvTimeout (id : Nat) (s : State) : Host.Outcome State Fault Refusal :=
  .next (lateFault (dropMacro s (curRow s) id) 5 (.ev (.xrecvTimeout id)) (recvRec s s.cur) [])

/-- The message whose time as an orphan has run out, if it is still unconsumed (R265). -/
def orphanAt (s : State) (b chan serial : Nat) : Option ChanMsg :=
  match Sparse.find (strandOf s b).chans chan with
  | some x => if x.serial = serial then some x else none
  | none => none

/-- ORPHAN_MESSAGE_TIMEOUT (R265): the message is discarded, and its strand takes 0x12. -/
def execOrphanMessageTimeout (chan serial : Nat) (s : State) : Host.Outcome State Fault Refusal :=
  let b := s.cur.bank
  .next (match orphanAt s b chan serial with
    | none => s
    | some x =>
      let t := strandOf s b
      strandFault (setStrand s b { t with chans := t.chans.drop chan }) b (orphanRec s b (bankKc s b) chan x.msg))

/-- The card of a job as its submission captured it (R266). -/
def cardOf (c : Ctx) : BitVec 1024 := BitVec.ofNat 1024 ((c.recs.getD 2 0).toNat + (c.recs.getD 3 0).toNat * 2 ^ 512)

/-- The fields of a card (R266). -/
def cardNat (k : BitVec 1024) (lo n : Nat) : Nat := bitsOf k.toNat (8 * lo) (8 * n)
def cardKind (k : BitVec 1024) : Nat := bitsOf k.toNat 0 8
def cardCls (k : BitVec 1024) : Nat := bitsOf k.toNat 8 4
def cardScope (k : BitVec 1024) : Nat := bitsOf k.toNat 12 4
def cardPrio (k : BitVec 1024) : Nat := bitsOf k.toNat 16 4
def cardNtok (k : BitVec 1024) : Nat := bitsOf k.toNat 20 4
def cardNrd (k : BitVec 1024) : Nat := bitsOf k.toNat 24 3
def cardNwr (k : BitVec 1024) : Nat := bitsOf k.toNat 27 3
def cardFo (k : BitVec 1024) : Bool := bitOf k.toNat 30
def cardBar (k : BitVec 1024) : Nat := bitsOf k.toNat 32 12
def cardDisp (k : BitVec 1024) (i : Nat) : Nat := bitsOf k.toNat (44 + 2 * i) 2
def cardCredit (k : BitVec 1024) : Nat := bitsOf k.toNat 64 40
def cardSrc (k : BitVec 1024) : Nat := cardNat k 16 4
def cardDst (k : BitVec 1024) : Nat := cardNat k 20 4
def cardTarget (k : BitVec 1024) : Nat := cardNat k 24 4
def cardParam (k : BitVec 1024) : Nat := cardNat k 28 4
def cardTok (k : BitVec 1024) (i : Nat) : Nat := cardNat k (32 + 4 * i) 4
def cardFoword (k : BitVec 1024) : Nat := cardNat k 112 4
def cardFoa (k : BitVec 1024) : Nat := cardNat k 116 4
def cardFob (k : BitVec 1024) : Nat := cardNat k 120 8

/-- A region of a card (R266): its base and the logarithm of its size, and the reserved bits. -/
def cardRegion (k : BitVec 1024) (o i : Nat) : Nat × Nat :=
  let x := cardNat k (o + 6 * i) 6
  (x % 2 ^ 40 * 4096, x / 2 ^ 40 % 64)

/-- The read and write regions in use. -/
def cardReads (k : BitVec 1024) : List (Nat × Nat) := (List.range (cardNrd k)).map (cardRegion k 64)
def cardWrites (k : BitVec 1024) : List (Nat × Nat) := (List.range (cardNwr k)).map (cardRegion k 88)

/-- Two regions share a byte, whichever DRAM window names it (R253, R275). -/
def regionsMeet (a b : Nat × Nat) : Bool :=
  decide (paPkg a.1 = paPkg b.1) && runsShare (paLocal a.1) (2 ^ a.2) (paLocal b.1) (2 ^ b.2)

/-- The scheduler that a job goes to: its stack's, or the hub's, 8 (R268). -/
def cardSched (k : BitVec 1024) (z : Nat) : Nat := if cardKind k = 4 ∨ cardKind k = 5 then 8 else z

/-- The first free slot of a scheduler, 64 where it is full. -/
def freeSlot (s : State) (sched : Nat) : Nat :=
  ((List.range 64).find? (fun i => (Sparse.find s.jobs (sched * 64 + i)).isNone)).getD 64

/-- The jobs of a scheduler that a new one has an edge from (R253): by their serial numbers. -/
def edgesOf (s : State) (sched : Nat) (k : BitVec 1024) : List Nat :=
  (s.jobs.filter (fun e => e.1 / 64 == sched && e.2.st != .complete && e.2.st != .faulted &&
    ((cardWrites e.2.card).any (fun a => (cardReads k ++ cardWrites k).any (regionsMeet a)) ||
      (cardReads e.2.card).any (fun a => (cardWrites k).any (regionsMeet a))))).map (fun e => e.2.serial)

/-- The agent id of a job (R268). -/
def jobAgent (s : State) (key : Nat) : Nat := s.dev.pkg * 2 ^ 28 + 2 ^ 25 + key

/-- A job's accesses, `d` hub kc from now: in a kc in which X words reach the same bytes, they come behind those (R107, R273). -/
def postJob (s : State) (d : Nat) (i : Instr) : State := post s .hub (s.hkc + d) 8 256 3 Ctx.none (.ev i)

/-- A job enters a scheduler (R268, R270): queued, or ready where it has no edge. -/
def enterJob (s : State) (key : Nat) (j : Job) : State :=
  let e := edgesOf s (key / 64) j.card
  let s1 := { s with jobs := s.jobs.put key { j with st := if e.isEmpty then .ready else .queued, serial := s.nextJob, edges := e,
                                                      agent := jobAgent s key },
                     nextJob := s.nextJob + 1 }
  if e.isEmpty then postJob s1 0 (.jobStart key) else s1

/-- A token's entry in a job's set (R268): its strand marks it leaving, and the job has written nothing yet. -/
def jobEntry (h : HeldTok) : HeldTok := { h with leaving := false, dirty := false }

/-- A region lies wholly in the placement token's region of the group of bank `b` (R223, R307). -/
def inPlacement (s : State) (b : Nat) (r : Nat × Nat) : Bool :=
  let g := bankGroup s b
  let cell (k : Nat) : Bool :=
    decide (g.stack0 ≤ k / 128) && decide (k / 128 < g.stack0 + g.rS) && (List.range g.rR).any (fun i => decide (placeRow g 0 i % 16 = k / 8 % 16))
  decide (paPkg r.1 = s.dev.pkg) &&
    (match placeOf (paLocal r.1) with
     | .spad k o =>
       if r.2 ≤ 19 then cell k && decide (g.spadBase ≤ o) && decide (o + 2 ^ r.2 ≤ g.spadBase + g.spadLen)
       else decide (r.2 ≤ 29) && decide (g.spadLen = 0x80000) && (List.range (2 ^ r.2 / 0x80000)).all (fun i => cell (k + i))
     | _ => false)

/-- The phase cards of a strand (R307): those submitted in the phase in progress whose write regions lie wholly in the placement
token's region. -/
def noteCard (s : State) (b : Nat) (k : BitVec 1024) : State :=
  let t := strandOf s b
  if (cardWrites k).all (inPlacement s b) then setStrand s b { t with cardsNow := t.cardsNow ++ [leBytes 128 k.toNat] } else s

/-- A submission at its engine (R268): the job enters its scheduler, its agent id lands in sb at t + 2, and each owned token's
hand-off stands for its H. -/
def submit (s : State) (rb : Nat) : State :=
  let b := s.cur.bank
  let z := bankStack b
  let k := cardOf s.cur
  let sched := cardSched k z
  let key := sched * 64 + freeSlot s sched
  let t := strandOf s b
  let ids := (List.range (cardNtok k)).map (cardTok k)
  let toks := ids.filterMap (fun i => heldEntry t.held i)
  let j : Job :=
    { st := .queued, serial := 0, card := k, src := rec0 s.cur, dst := rec1 s.cur, agent := 0, submitter := bankAgent s b,
      ctx := (bankGroup s b).ctx, grp := t.grp, kern := (bankGroup s b).kern, stack := z, row := bankRow b, waddr := s.cur.waddr,
      pkc := s.cur.pkc, sched := sched, tbl := s.cur.tbl, toks := toks.map jobEntry, edges := [], phase := false, foImg := s.cur.recs.drop 4, todo := [],
      hand := s.cur.hand, tag := (kernelOf s (bankGroup s b).kern).tag, qlife := (kernelOf s (bankGroup s b).kern).qlife, held := false }
  let s1 := scalarLater (noteCard (enterJob s key j) b k) 2 rb (BitVec.ofNat 64 (jobAgent s key))
  (toks.zip (List.range toks.length)).foldl (fun st e =>
    let h := e.1
    if h.spad || h.mode == .share then st
    else
      let (d, st1) := handDelay st h
      later st1 d 0 3 (.handoffRelease
        { kind := if cardDisp k e.2 = 1 then .pass else .lend, tok := h.id, giver := j.submitter, target := jobAgent s key, scope := cardScope k,
          zone := z, stamp := now s + d })) s1

/-- `xjob` (R268). -/
def execXjob (g : BitVec 4) (_a b : BitVec 5) (s : State) : Host.Outcome State Fault Refusal :=
  runWord s g (fun s => submit s b.toNat)

/-- `xjobf` (R268). -/
def execXjobf (g : BitVec 4) (_a b : BitVec 5) (s : State) : Host.Outcome State Fault Refusal :=
  runWord s g (fun s => submit s b.toNat)

end Sys2Proof.Machine
end

