-- ==== Sys2Proof/Machine/Perform.lean ====
section
/-! DEFINITION. ACCESS_PERFORM: a memory access, or a step of a macro word, takes place at its perform kc (R105, R107, R141, R193),
with what the memory finds then (R281, R377, R380). -/

namespace Sys2Proof.Machine

/-- An address that an access reaches and that the map of R274 does not have. -/
def accessHole (s : State) (c : Ctx) (a : Access) : Option Nat :=
  (accessSegs c a).findSome? (fun g => if paPkg g.pa = s.dev.pkg ∧ !placeExists s (paLocal g.pa) then some g.pa else none)

/-- A cached access reads no memory when its line is held (R225). -/
def cacheHit (s : State) (c : Ctx) (a : Access) : Bool :=
  match a.op, segsOf c.tbl 2 a.va a.len with
  | .load _ _, g :: _ => cachedAccess s c g && (Sparse.find (rowOf s (bankRow c.bank)).dcache (homeAddr (paLocal g.pa) / 64)).isSome
  | .store _, g :: _ => cachedAccess s c g && (Sparse.find (rowOf s (bankRow c.bank)).dcache (homeAddr (paLocal g.pa) / 64)).isSome
  | _, _ => false

/-- The line that a cached access brings in where the cache does not hold it (R225). -/
def fillLine (s : State) (c : Ctx) (a : Access) : List Seg :=
  let line (g : Seg) : List Seg :=
    if cachedAccess s c g && !cacheHit s c a then [{ va := g.va - g.pa % 64, pa := g.pa - g.pa % 64, len := 64 }] else []
  match a.op, segsOf c.tbl 2 a.va a.len with
  | .load _ _, g :: _ => line g
  | .store _, g :: _ => line g
  | _, _ => []

/-- The runs of memory that an access reads or writes: a cached one reaches its line, or none. -/
def reachSegs (s : State) (c : Ctx) (a : Access) : List Seg :=
  if cacheHit s c a then []
  else match fillLine s c a with
    | [] => accessSegs c a
    | l => l

/-- An SRAM word that the access reaches, or a tile row that its step reads, fails its parity and is rebuilt (R380, R450). -/
def accessRebuilds (s : State) (c : Ctx) (a : Access) : Bool :=
  (reachSegs s c a).any (fun g => decide (paPkg g.pa = s.dev.pkg) && runRebuilds s (paLocal g.pa) g.len) || arrayRebuilds s c a

/-- The bytes of runs: another package's memory is outside the machine, and its bytes are free (log entry 3). -/
def readSegs (s : State) (l : List Seg) : List Byte × State :=
  match l with
  | [] => ([], s)
  | g :: t =>
    let r := if paPkg g.pa = s.dev.pkg then (fetchBytes s (paLocal g.pa) g.len, afterRead s (paLocal g.pa) g.len)
      else ((List.range g.len).map (fun i => Config.freeByte (s.freeCtr + i)), { s with freeCtr := s.freeCtr + g.len })
    let q := readSegs r.2 t
    (r.1 ++ q.1, q.2)

/-- The line of a package-local address in a data cache. -/
def cacheLine (a : Nat) : Nat := homeAddr a / 64

/-- The cache takes a line in for an agent: a full cache of 256 lines evicts one, a free choice, and writes it back (R225; log entry 3). -/
def cacheFill (s : State) (r agent l : Nat) : State :=
  let x := rowOf s r
  match Sparse.find x.dcache l with
  | some _ => s
  | none =>
    let (n, s1) := if 256 ≤ x.dcache.length then freeValue s else (0, s)
    let s2 := if 256 ≤ x.dcache.length then
        match x.dcache.keys[n % x.dcache.length]? with
        | some k => evictLine s1 r k
        | none => s1
      else s1
    let data := BitVec.ofNat 512 (leNat (fetchBytes s2 (64 * l) 64))
    let s3 := afterRead s2 (64 * l) 64
    setRow s3 r { rowOf s3 r with dcache := (rowOf s3 r).dcache.put l { data := data, dirty := 0, owner := agent } }

/-- A load through the cache. -/
def cacheRead (s : State) (r agent a n : Nat) : Nat × State :=
  let s1 := cacheFill s r agent (cacheLine a)
  match Sparse.find (rowOf s1 r).dcache (cacheLine a) with
  | some x => (bitsOf x.data.toNat (8 * (a % 64)) (8 * n), s1)
  | none => (0, s1)

/-- A store of an agent into the cache: the bytes are dirty. -/
def cacheWrite (s : State) (r agent a n x : Nat) : State :=
  let s1 := cacheFill s r agent (cacheLine a)
  let row := rowOf s1 r
  match Sparse.find row.dcache (cacheLine a) with
  | some y =>
    let o := a % 64
    let d := (y.data &&& ~~~(BitVec.ofNat 512 ((2 ^ (8 * n) - 1) * 2 ^ (8 * o)))) ||| BitVec.ofNat 512 (x % 2 ^ (8 * n) * 2 ^ (8 * o))
    setRow s1 r { row with dcache := row.dcache.put (cacheLine a) { data := d, dirty := y.dirty ||| BitVec.ofNat 64 ((2 ^ n - 1) * 2 ^ o), owner := agent } }
  | none => s1

/-- An atomic performs at its home: its core's own line is evicted first, so that the word's earlier stores come before it (R247, R256). DEDUCED:
log entry 121. -/
def evictFor (s : State) (c : Ctx) (l : List Seg) : State :=
  match l with
  | g :: _ => if paPkg g.pa = s.dev.pkg then evictLine s (bankRow c.bank) (cacheLine (paLocal g.pa)) else s
  | [] => s

/-- The value of a load: sign- or zero-extended (R103). -/
def loadValue (signed : Bool) (n x : Nat) : Dword := if signed then signExt64 (8 * n) x else BitVec.ofNat 64 x

/-- The number that a C access reads. -/
def readC (s : State) (c : Ctx) (a : Access) : Nat × State :=
  match segsOf c.tbl 2 a.va a.len with
  | g :: _ =>
    if cachedAccess s c g then cacheRead s (bankRow c.bank) (bankAgent s c.bank) (paLocal g.pa) a.len
    else let r := readSegs s [g]; (leNat r.1, r.2)
  | [] => (0, s)

/-- A C store's bytes are written. -/
def writeC (s : State) (c : Ctx) (a : Access) (x : Nat) (cached : Bool) : State :=
  match segsOf c.tbl 2 a.va a.len with
  | g :: _ =>
    if cached && cachedAccess s c g then markDirty (cacheWrite s (bankRow c.bank) (bankAgent s c.bank) (paLocal g.pa) a.len x) c.bank g.pa g.len
    else if paPkg g.pa = s.dev.pkg then writeSegs s c [g] (leBytes a.len x) (2 ^ a.len - 1)
    else markDirty s c.bank g.pa g.len
  | [] => s

/-- The bytes that lane `v` of a gather reads. -/
def gatherLaneRead (acc : List Word × State) (c : Ctx) (v : Option Nat) : List Word × State :=
  match v with
  | some va => let r := readSegs acc.2 (segsOf c.tbl 2 va 4); (acc.1 ++ [BitVec.ofNat 32 (leNat r.1)], r.2)
  | none => (acc.1 ++ [0], acc.2)

/-- What a step of a macro word does, by its engine. -/
def macroStep (s : State) (id k : Nat) (a : Access) : State :=
  match macroAt s (curRow s) id with
  | none => s
  | some m =>
    match wordEng m.word with
    | 2 => mStep s id k a
    | 3 => xStep s id k a
    | _ => bStep s id k a

/-- What a late fault leaves of a macro word, by its engine. -/
def macroFails (s : State) (id k cause : Nat) : State :=
  match macroAt s (curRow s) id with
  | none => s
  | some m =>
    match wordEng m.word with
    | 2 => mFails s id k cause
    | 3 => xFails s id cause
    | _ => bFails s id cause

/-- The macro word of a step has come to nothing. -/
def stepDead (s : State) (c : Ctx) (a : Access) : Bool :=
  match a.op with
  | .step id _ => (match macroAt s (bankRow c.bank) id with | some m => m.dead | none => true)
  | _ => false

/-- What bringing a cached access's line in finds (R225, R377, R380). -/
def fillFault (s : State) (c : Ctx) (a : Access) : Option FaultRec :=
  match segsFind s (groupOf s c.grp).ctx false true (lateRestartable c) ((fillLine s c a).map wholeRun) with
  | some (cause, re, g) => some (mkRec s c cause (if cause = 0x32 ∧ pageState s (groupOf s c.grp).ctx g.va (paLocal g.pa) = .resident then a.sel else 13) g.va 0 true re)
  | none => none

/-- The fault of an access at its perform kc: what the memory finds (R281), what a step of an M word finds itself, and an image that
`srdef` may not take (R157). -/
def performFault (s : State) (c : Ctx) (a : Access) : Option FaultRec :=
  if stepDead s c a then none
  else match accessFault s c a with
    | some r => some (if isFollowOn c then
        { r with restartable := false, detail := c.seed.toNat + c.serial.toNat * 2 ^ 32 } else r)
    | none =>
      match a.op with
      | .step id k =>
        (match macroAt s (bankRow c.bank) id with
         | some m => if wordEng m.word = 2 then mStepFault s c id k a else none
         | none => none)
      | .srdef _ _ => if recWf (BitVec.ofNat 512 (readVaNat s c a.va 64)) then none else some (mkRec s c 0x0D 1 0 0 true false)
      | _ => fillFault s c a

/-- What an access does when it performs, with its acknowledgement where it has one (R251). -/
def doAccess (s0 : State) (a : Access) : State :=
  let s := noteAck s0 s0.cur a
  let c := s.cur
  let b := c.bank
  match a.op with
  | .load d sg =>
    let r := readC s c a
    landLater r.2 a.lag (.regs [.s d (loadValue sg a.len r.1)]) 0
  | .store data => writeC s c a data.toNat true
  | .amo op d x y =>
    let r := readSegs (evictFor s c (segsOf c.tbl 2 a.va 8)) (segsOf c.tbl 2 a.va 8)
    let old : Dword := BitVec.ofNat 64 (leNat r.1)
    landLater (writeC r.2 c a (amoNew op old x y).toNat false) a.lag (.regs [.s d old]) 0
  | .vload d nw latch =>
    let r := readSegs s (segsOf c.tbl 2 a.va 512)
    landLater r.2 a.lag (.regs (vecWrites latch (BitVec.ofNat 6 d) (if nw then 1 else 0) (BitVec.ofNat 4096 (leNat r.1)))) 0
  | .vstore data => writeSegs s c (segsOf c.tbl 2 a.va 512) (leBytes 512 data.toNat) (2 ^ 512 - 1)
  | .vgather d nw latch lanes =>
    let r := lanes.foldl (fun acc v => gatherLaneRead acc c v) (([] : List Word), s)
    landLater r.2 a.lag (.regs (vecWrites latch (BitVec.ofNat 6 d) (if nw then 1 else 0) (BitVec.ofNat 4096 (lanesNat r.1))))
      (if lanes.any (fun v => v.isNone) then flagG else 0)
  | .srdef slot reg =>
    let r := readSegs s (segsOf c.tbl 2 a.va 64)
    landLater r.2 a.lag (.srdef slot (BitVec.ofNat 512 (leNat r.1)) reg) 0
  | .frameLoad d sg =>
    (match (strandOf s b).frame with
     | some f => landLater s a.lag (.regs [.s d (loadValue sg a.len (imageNat f.bytes a.va a.len))]) 0
     | none => s)
  | .frameStore data =>
    let t := strandOf s b
    setStrand s b { t with frame := t.frame.map (fun f => framePuts f a.va (leBytes a.len data.toNat)) }
  | .step id k => macroStep s id k a

/-- A recovery engine rebuilds a word: the access waits at its kc under a freeze with no trap (R380, R450). A handler's access goes
on at once. -/
def rebuild (s : State) (c : Ctx) (a : Access) : State :=
  let s1 := (reachSegs s c a).foldl (fun st g => if paPkg g.pa = st.dev.pkg ∧ !isDram (paLocal g.pa) then afterRead st (paLocal g.pa) g.len else st) (healArray s c a)
  if c.hand ∨ c.drain then s1
  else endStop (freezeGroup s1 c.grp (bankStack c.bank) .rebuild) c.grp (bankStack c.bank) .rebuild

/-- The phase of an access: reads, then writes and atomics (R107); the phases of a macro word's steps stand in their entries. -/
def accessPhase (a : Access) : Nat :=
  match a.op with
  | .step _ _ => if a.wr then 4 else 3
  | _ => if accessWrites a then 4 else 3

/-- A late fault of an access: what it leaves of a macro word, and the fault. One found while the strand drains (R369) waits until the
strand runs again. -/
def accessFaults (s : State) (a : Access) (r : FaultRec) : State :=
  if s.cur.drain then
    let c := { s.cur with drain := false }
    post s (ctxClk c) (timeOf s (ctxClk c)) (accessPhase a) (bankRow c.bank) (engineRank (wordEng c.word)) c (.ev (.accessPerform a))
  else
  let s1 := match a.op with | .step id k => if r.restartable ∧ r.cause = 0x32 then s else macroFails s id k r.cause | _ => s
  match a.op with
  | .step id k => if r.cause = 0x18 ∨ r.cause = 0x19 then macroStep s1 id k a
      else lateFault s1 (accessPhase a) (.ev (.accessPerform a)) r (accessSegs s.cur a)
  | _ => lateFault s1 (accessPhase a) (.ev (.accessPerform a)) r (accessSegs s.cur a)

/-- ACCESS_PERFORM (R105, R107, R281, R377, R380). -/
def execAccessPerform (a : Access) (s : State) : Host.Outcome State Fault Refusal :=
  let c := s.cur
  if stepDead s c a then .next (doAccess s a)
  else match accessHole s c a with
    | some pa => .fault (.noSuchAddress pa)
    | none =>
      if accessRebuilds s c a then
        .next (let s1 := rebuild s c a
               if c.hand ∨ c.drain then doAccess s1 a
               else post s1 (ctxClk c) (now s) (accessPhase a) (bankRow c.bank) (engineRank (wordEng c.word)) c (.ev (.accessPerform a)))
      else if cacheHit s c a then .next (doAccess s a)
      else match performFault s c a with
        | some r => .next (accessFaults s a r)
        | none => .next (doAccess s a)

end Sys2Proof.Machine
end

