-- ==== Sys2Proof/Machine/Packet.lean ====
section
/-! DEFINITION. The legality of a packet as a whole (R59 to R62, R65 stage 1, R66, R68, R121): its words with their prefixes and
vector units, and the first word that fails. -/

namespace Sys2Proof.Machine

/-- An engine word of a packet: its place behind the header, its address, what it decodes to, its prefixes and its vector unit. -/
structure PWord where
  idx : Nat
  addr : Nat
  word : Word
  ins : Instr
  pre : List (BitVec 24)
  unit : Nat
  deriving DecidableEq, Repr

/-- The op value of a word: op5 in the S engine (R69 to R72). -/
def wordOp (w : Word) : Nat := if wordEng w = 4 then bitsOf w.toNat 20 5 else bitsOf w.toNat 19 6

/-- The guard field of a word (R55). -/
def wordGuard (w : Word) : Nat := bitsOf w.toNat 25 4

/-- The word is a prefix by its engine and bit 24 (R60). -/
def isPre (w : Word) : Bool := decide (wordEng w = 6) && bitOf w.toNat 24

/-- The word accepts these prefixes (R60, R94, R134, R135, R137). -/
def preFits (w : Word) (pre : List (BitVec 24)) : Bool :=
  let op := wordOp w
  match wordEng w, pre with
  | 0, [] => true
  | 0, [p] =>
    if 0x08 ≤ op ∧ op ≤ 0x11 then !(decide (0x0C ≤ op) && decide (op ≤ 0x0E)) || decide (p = 0)
    else decide (op = 0x17) && !p.getLsbD 23
  | 0, [p, q] =>
    decide (0x08 ≤ op) && decide (op ≤ 0x11) && (!(decide (0x0C ≤ op) && decide (op ≤ 0x0E)) || (decide (p = 0) && decide (q = 0)))
  | 1, [] => decide (op ≠ 0x1D) && decide (op ≠ 0x1E)
  | 1, [p] =>
    if op = 0x1D ∨ op = 0x1E then decide (bitsOf p.toNat 8 16 = 0)
    else decide (op = 0x2C) && decide (bitsOf w.toNat 1 6 = 0) && decide (bitsOf p.toNat 10 14 = 0) &&
      decide (bitsOf p.toNat 0 7 < 2 ^ bitsOf p.toNat 7 3)
  | _, [] => true
  | _, _ => false

/-- The words of a packet as they are read in order: prefixes waiting for their word, the number of words that carry some, the
engine words so far, and the places that fail (R60, R61, R66). -/
structure Scan where
  pend : List (Nat × BitVec 24)
  carriers : Nat
  words : List PWord
  fails : List Nat
  deriving DecidableEq, Repr

/-- One word of a packet read, at place `i`. DEDUCED: of a word whose prefixes do not fit it, the word is named and not its prefix (log entry 137). -/
def scanWord (hdr : Nat) (a : Scan) (i : Nat) (w : Word) : Scan :=
  if isPre w then
    { a with pend := a.pend ++ [(i, w.setWidth 24)], fails := if wordGuard w = 0 then a.fails else i :: a.fails }
  else
    let n := if a.pend = [] then a.carriers else a.carriers + 1
    let f1 := if 1 < n then (match a.pend with | x :: _ => x.1 :: a.fails | [] => a.fails) else a.fails
    let f2 := match a.pend with | _ :: _ :: x :: _ => x.1 :: f1 | _ => f1
    let pre := a.pend.map (·.2)
    match decode w with
    | .error _ => { a with pend := [], carriers := n, fails := i :: f2 }
    | .ok (.packetHeader _ _ _) => { a with pend := [], carriers := n, fails := i :: f2 }
    | .ok ins =>
      { pend := [], carriers := n,
        words := a.words ++ [{ idx := i, addr := hdr + 4 * (i + 1), word := w, ins := ins, pre := pre, unit := 0 }],
        fails := if preFits w pre then f2 else i :: f2 }

/-- The words behind a header, read in order. -/
def scanWords (hdr : Nat) (ws : List Word) : Scan :=
  let a := ((List.range ws.length).zip ws).foldl (fun a x => scanWord hdr a x.1 x.2) { pend := [], carriers := 0, words := [], fails := [] }
  match a.pend with
  | [] => a
  | x :: _ => { a with fails := x.1 :: a.fails }

/-- The most words of an engine in one packet (R61). -/
def engineLimit (e : Nat) : Nat := if e = 1 then 2 else 1

/-- The places of the words that exceed their engine's limit (R61). -/
def overLimit (seen : List Nat) (ws : List PWord) : List Nat :=
  match ws with
  | [] => []
  | x :: t =>
    let e := wordEng x.word
    let rest := overLimit (e :: seen) t
    if engineLimit e ≤ (seen.filter (fun y => y == e)).length then x.idx :: rest else rest

/-- The class of a V word by the units it can take (R121): 0 FMA-B only, 1 either FMA, 2 ALU, 3 LDST. -/
def unitClass (op : Nat) : Nat :=
  if 0x0B ≤ op ∧ op ≤ 0x0D then 0
  else if op ≤ 0x0A ∨ (0x22 ≤ op ∧ op ≤ 0x29) then 1
  else if op = 0x2B ∨ op = 0x2F ∨ op = 0x30 ∨ op = 0x31 ∨ op = 0x35 ∨ op = 0x36 then 3
  else 2

/-- The units a class can take, in order. -/
def classUnits (c : Nat) : List Nat :=
  match c with
  | 0 => [1]
  | 1 => [0, 1]
  | 2 => [2]
  | _ => [3]

/-- Units given to V words in order: by place, the unit, or none where it is taken (R61, R121). -/
def giveUnits (used : List Nat) (ws : List PWord) : List (Nat × Option Nat) :=
  match ws with
  | [] => []
  | x :: t =>
    match (classUnits (unitClass (wordOp x.word))).find? (fun u => !used.contains u) with
    | some u => (x.idx, some u) :: giveUnits (u :: used) t
    | none => (x.idx, none) :: giveUnits used t

/-- The units of the V words of a packet: transcendentals first (R121). A third V word exceeds the engine's limit and takes none. -/
def packetUnits (ws : List PWord) : List (Nat × Option Nat) :=
  let vs := (ws.filter (fun x => decide (wordEng x.word = 1))).take 2
  giveUnits [] (vs.filter (fun x => decide (unitClass (wordOp x.word) = 0)) ++ vs.filter (fun x => decide (unitClass (wordOp x.word) ≠ 0)))

/-- Numbers for the destinations of R61: scalar registers from 0, predicates from 100, masks from 200, vector registers from
300. -/
def destSr (r : Nat) : List Nat := if r = 0 then [] else [r]
def destPr (r : Nat) : List Nat := [100 + r]
def destKr (r : Nat) : List Nat := [200 + r]
def destVr (r : Nat) : List Nat := [300 + r]

/-- The registers that a word names as destinations (R61, R69 to R72). -/
def wordDests (w : Word) : List Nat :=
  let x := w.toNat
  let op := wordOp w
  match wordEng w with
  | 0 =>
    let d := bitsOf x 14 5
    if op = 0x03 ∨ (0x0F ≤ op ∧ op ≤ 0x11) then destPr d ++ destPr (d + 1)
    else if op = 0x04 then destPr d
    else if op = 0x15 then destSr 1
    else if op ≤ 0x0E ∨ (0x18 ≤ op ∧ op ≤ 0x1E) ∨ (0x24 ≤ op ∧ op ≤ 0x30) then destSr d
    else []
  | 1 =>
    let d := bitsOf x 13 6
    if op = 0x2F ∨ op = 0x31 ∨ op = 0x2B then destVr d
    else if op = 0x30 ∨ op = 0x35 then []
    else if op = 0x34 then destPr d
    else if (0x0E ≤ op ∧ op ≤ 0x10) ∨ (0x1F ≤ op ∧ op ≤ 0x21) ∨ (0x37 ≤ op ∧ op ≤ 0x39) then destKr d
    else (if bitOf x 0 then [] else destVr d) ++ (if op = 0x36 then destKr (bitsOf x 1 6) else [])
  | 3 => if op = 4 ∨ op = 5 then destSr (bitsOf x 9 5) else []
  | 4 =>
    let b := bitsOf x 10 5
    if op = 5 ∨ op = 6 then destSr (bitsOf x 15 5) ++ destSr b
    else if op = 7 ∨ op = 8 ∨ op = 0xD ∨ (op = 0xA ∧ bitsOf x 0 6 = 1) then destSr b
    else []
  | _ => []

/-- The places of the words whose destination an earlier word of the packet names too (R61). -/
def sameDests (seen : List Nat) (ws : List PWord) : List Nat :=
  match ws with
  | [] => []
  | x :: t =>
    let d := wordDests x.word
    let rest := sameDests (d ++ seen) t
    if d.any (fun y => seen.contains y) then x.idx :: rest else rest

/-- `rett`, `node` and `yield` stand alone in their packets (R110, R112). -/
def standsAlone (i : Instr) : Bool :=
  match i with
  | .rett => true
  | .node0 => true
  | .node1 => true
  | .node2 => true
  | .yield => true
  | _ => false

/-- The least of a list of places. -/
def leastOf (l : List Nat) : Option Nat :=
  l.foldl (fun m x => match m with | none => some x | some y => some (min x y)) none

/-- A packet's words with their units, and the place of the first word that fails, if any (R65 stage 1). -/
def parseWords (hdr : Nat) (ws : List Word) : List PWord × Option Nat :=
  let a := scanWords hdr ws
  let us := packetUnits a.words
  let fails := a.fails ++ overLimit [] a.words ++ (us.filter (fun u => u.2.isNone)).map (·.1) ++ sameDests [] a.words
  let words := a.words.map (fun x => match us.find? (fun u => u.1 == x.idx) with | some (_, some u) => { x with unit := u } | _ => x)
  match (if 1 < ws.length then a.words.find? (fun x => standsAlone x.ins) else none) with
  | some x => (words, some x.idx)
  | none => (words, leastOf fails)

/-- The words behind the header of the packet at `hdr` with `n` words. -/
def packetWords (s : State) (b hdr n : Nat) : List Word :=
  (List.range n).map (fun i => BitVec.ofNat 32 (imageWord s (bankStack b) (bankGroup s b).kern (hdr + 4 * (i + 1))))

/-- A dispatch check that fails: cause, operand selector and bytes 16 to 31 of the record; or a wait at issue, in loose and
safelight modes, which no fault follows. -/
structure Fail where
  cause : Nat
  sel : Nat
  addr : Nat
  detail : Nat
  wait : Bool
  deriving DecidableEq, Repr

/-- A check that fails with a fault. -/
def Fail.of (cause sel addr : Nat) : Fail := { cause := cause, sel := sel, addr := addr, detail := 0, wait := false }

/-- The packet waits at issue in loose and safelight modes, and raises the cause in timed mode. -/
def Fail.hold (cause sel : Nat) (timed : Bool) : Fail := { Fail.of cause sel 0 with wait := !timed }

/-- A check: nothing where the condition holds. -/
def need (ok : Bool) (f : Fail) : Option Fail := if ok then none else some f

/-- The first failing check of a list; each check stands for itself. -/
def firstFail (l : List (Option Fail)) : Option Fail :=
  match l with
  | [] => none
  | some f :: _ => some f
  | none :: t => firstFail t

end Sys2Proof.Machine
end

