-- ==== Sys2Proof/Machine/Validate.lean ====
section
/-! DEFINITION. The checks of R65 stage 2 that engines share: guards and registers pending (R58, R63), register parity (R371), engine
acceptance (R64), the address checks page by page (R224, R279, R280), fences (R251) and refresh slots (R170); then the checks of the C
and V words (R68, R95, R98 to R106, R110 to R112, R141, R142). -/

namespace Sys2Proof.Machine

/-- The strand's words are checked by timed mode: a handler runs by the rules of loose mode (R362). -/
def runsTimed (s : State) (b : Nat) : Bool := timedMode (bankGroup s b) && !(strandOf s b).trap

/-- The scalar registers that a word reads at issue (R63), with the selector of the field that names each. -/
def wordReads (w : Word) : List (Nat × Nat) :=
  let x := w.toNat
  let op := wordOp w
  match wordEng w with
  | 0 =>
    let d := bitsOf x 14 5
    let a := bitsOf x 9 5
    let b := bitsOf x 4 5
    if op ≤ 0x03 then [(1, a), (2, b)]
    else if op = 0x05 ∨ (0x08 ≤ op ∧ op ≤ 0x11) ∨ (0x18 ≤ op ∧ op ≤ 0x1E) then [(1, a)]
    else if op = 0x16 then [(1, d)]
    else if 0x20 ≤ op ∧ op ≤ 0x23 then [(1, a), (3, d)]
    else if op = 0x29 then [(1, a), (2, b), (3, d)]
    else if 0x24 ≤ op ∧ op ≤ 0x28 then [(1, a), (2, b)]
    else if 0x31 ≤ op ∧ op ≤ 0x33 then [(3, d)]
    else []
  | 1 => if op = 0x2B ∨ op = 0x2F ∨ op = 0x30 then [(1, bitsOf x 8 5)] else if op = 0x31 then [(1, bitsOf x 2 5)] else []
  | 2 => [(1, bitsOf x 12 5), (2, bitsOf x 7 5)]
  | 3 => if op = 4 ∨ op = 5 then [(1, bitsOf x 14 5)] else [(1, bitsOf x 14 5), (2, bitsOf x 9 5), (3, bitsOf x 4 5)]
  | 4 =>
    let a := bitsOf x 15 5
    let b := bitsOf x 10 5
    if op = 0 then []
    else if op = 7 ∨ op = 8 ∨ op = 5 ∨ op = 4 ∨ op = 0xE ∨ op = 0xA then [(1, a)]
    else [(1, a), (2, b)]
  | 5 => [(1, bitsOf x 14 5), (2, bitsOf x 9 5), (3, bitsOf x 4 5)]
  | _ => []

/-- The agenda entries of a bank's words, the handler's or the strand's own. -/
def wordEntries (s : State) (c : Ctx) : List Timed :=
  s.agenda.filter (fun e => decide (e.ctx.bank = c.bank) && e.ctx.hand == c.hand &&
    (match e.pay with | .fetch _ => false | .enter _ _ => false | _ => true))

/-- The predicate slot that a word in flight will write is pending (R58). -/
def predPending (s : State) (c : Ctx) (p : Nat) : Bool :=
  (wordEntries s c).any (fun e =>
    match e.pay with
    | .word w => (wordDests w).contains (100 + p)
    | .ev (.resultLand l) => (match l.kind with | .regs ws => ws.any (fun r => match r with | .p q _ => q == p | _ => false) | _ => false)
    | _ => false)

/-- The scalar registers that words reaching outside the zone will write (R63, R228). -/
def farPending (s : State) (c : Ctx) : List Nat :=
  ((wordEntries s c).filter (fun e => decide (e.ctx.unit = 1) && (decide (wordEng e.ctx.word = 0) || decide (wordEng e.ctx.word = 4)))).flatMap
    (fun e => (wordDests e.ctx.word).filter (fun r => decide (r < 100)))

/-- A register read at issue whose parity is bad can still be had: from the log of recent writes or the checker core (R371). -/
def parityHeals (s : State) (b r : Nat) : Bool := (rowOf s (bankRow b)).wlog.contains (logKey b r) || !(strandOf s b).badChk.getLsbD r

/-- The first register of a word whose parity is bad and whose value is nowhere (R371): its selector. -/
def parityFail (s : State) (b : Nat) (w : Word) : Option Fail :=
  ((wordReads w).find? (fun x => decide (x.2 ≠ 0) && (strandOf s b).badPar.getLsbD x.2 && !parityHeals s b x.2)).map (fun x => Fail.of 0x31 x.1 0)

/-- The registers that issuing a word repairs (R371). -/
def parityRepairs (s : State) (b : Nat) (w : Word) : List Nat :=
  ((wordReads w).filter (fun x => decide (x.2 ≠ 0) && (strandOf s b).badPar.getLsbD x.2 && parityHeals s b x.2)).map (·.2)

/-- The queued words of an engine that are still there when a word reaches it at `arr` (R64). -/
def queuedAt (l : List QWord) (arr : Nat) : Nat := (l.filter (fun q => q.job.isNone && decide (arr < q.issueAt))).length

/-- The engine does not accept the word (R64): a full queue, or a busy engine without one. -/
def acceptFail (s : State) (c : Ctx) (w : Word) (timed : Bool) : Option Fail :=
  let r := rowOf s (bankRow c.bank)
  let op := wordOp w
  let f := some (Fail.hold 0x10 0 timed)
  match wordEng w with
  | 0 => if op = 0x02 ∧ 3 ≤ bitsOf w.toNat 0 4 ∧ c.pkc < r.divBusy then f else none
  | 2 => if 4 ≤ queuedAt r.mq (c.pkc + 4) then f else none
  | 3 => if c.pkc + 2 < r.xBusy then f else none
  | 5 => if 4 ≤ queuedAt r.bq (c.pkc + 4) then f else none
  | _ => none

/-- A V, M or B word for a gated row, or from a kernel that does not declare its engine (R124, R328). -/
def powerFail (s : State) (c : Ctx) (w : Word) : Option Fail :=
  let k := bankKernel s c.bank
  let on := match (rowOf s (bankRow c.bank)).pwr with | .on => true | .draining => true | _ => false
  let f (u : Bool) : Option Fail := need (u && on) (Fail.of 0x17 0 0)
  match wordEng w with
  | 1 => f k.usev
  | 2 => f k.usem
  | 5 => f k.useb
  | _ => none

/-- What an operand's addresses have to meet: the selector of its faults, the accesses it
makes, and whether the target must lie in the strand's zone (R105). -/
structure Want where
  sel : Nat
  rd : Bool := false
  wr : Bool := false
  amo : Bool := false
  near : Bool := false
  deriving DecidableEq, Repr

/-- The permission that an access needs (R104, R279). -/
def permitted (q : Want) (e : WEntry) : Bool :=
  (!q.rd || weR e) && (!q.wr || (weW e && !weC e)) && (!q.amo || weW e || weC e)

/-- The scratchpad byte lies in the group's budget region (R223). -/
def inBudget (g : Group) (l : Nat) : Bool :=
  match placeOf l with
  | .spad c o =>
    decide (g.stack0 ≤ c / 128) && decide (c / 128 < g.stack0 + g.rS) &&
      (List.range g.rR).any (fun r => decide (placeRow g 0 r % 16 = c / 8 % 16)) && decide (g.spadBase ≤ o) && decide (o < g.spadBase + g.spadLen)
  | _ => true

/-- The checks of one page of an access, behind its translation (R65): another zone, alignment, permission, the target that the word's
rule asks for, token, budget. -/
def pageFail (s : State) (c : Ctx) (q : Want) (bad : Bool) (target : Nat → Option Fail) (e : WEntry) (va n : Nat) : Option Fail :=
  let pa := physOf e va
  let l := paLocal pa
  let g := bankGroup s c.bank
  firstFail [
    need (!q.near || decide (paZone s pa = bankStack c.bank)) (Fail.of 0x16 q.sel va),
    need (!bad) (Fail.of 0x09 q.sel va),
    need (permitted q e) (Fail.of 0x05 q.sel va),
    target pa,
    (if weW e then (tokenCheck s g (strandOf s c.bank).held (q.wr || q.amo) pa n).map (fun x => Fail.of x.1 11 x.2) else none),
    need (decide (paPkg pa ≠ s.dev.pkg) || (inBudget g l && inBudget g (l + n - 1))) (Fail.of 0x08 q.sel va)]

/-- The address checks of `n` bytes from `va`, page by page (R280), the trap frame counting as a page of its own that no mapping has (R363); `fuel`
bounds the pages. -/
def spanFail (s : State) (c : Ctx) (q : Want) (bad : Bool) (target : Nat → Option Fail) (fuel va n : Nat) : Option Fail :=
  match fuel with
  | 0 => none
  | k + 1 =>
    if n = 0 then none
    else if frameHole s c.bank va then some (Fail.of 0x03 q.sel va)
    else match lookup c.tbl va with
      | none => some (Fail.of 0x03 q.sel va)
      | some e =>
        let m0 := min n (weVa e + pageBytes (weSize e) - va)
        let m := if va < frameBase s c.bank then min m0 (frameBase s c.bank - va) else m0
        match pageFail s c q bad target e va m with
        | some f => some f
        | none => spanFail s c q false target k (va + m) (n - m)

/-- The pages that `n` bytes can touch, and one more; the trap frame may part one of them. -/
def pagesIn (n : Nat) : Nat := n / 4096 + 3

/-- The address checks of a list of runs, in order. -/
def runsFail (s : State) (c : Ctx) (q : Want) (target : Nat → Option Fail) (l : List (Nat × Nat)) : Option Fail :=
  l.findSome? (fun r => spanFail s c q false target (pagesIn r.2) r.1 r.2)

/-- Any target will do. -/
def anyTarget : Nat → Option Fail := fun _ => none

/-- The frame kc of a kc of a word's clock (R170, R338): a handler counts on its zone's clock. -/
def framePos (s : State) (c : Ctx) (kc : Nat) : Nat :=
  if c.hand then (stackOf s (bankStack c.bank)).f + kc - (stackOf s (bankStack c.bank)).zkc else kc

/-- The cell's bank group is closed for refresh at a frame kc (R170). -/
def refreshAt (col kc : Nat) : Bool := decide (1952 * col ≤ frameKcOf kc) && decide (frameKcOf kc < 1952 * col + 256)

/-- A window of `n` kc from `t` meets the slot of a column (R170). -/
def refreshMeets (col t n : Nat) : Bool :=
  refreshAt col t || (decide (0 < n) && (refreshAt col (t + n - 1) || (let f := frameKcOf t; decide (f < 1952 * col) && decide (1952 * col < f + n)) ||
    (let f := frameKcOf t; decide (f < 1952 * col + 15616) && decide (1952 * col + 15616 < f + n))))

/-- A DRAM access that performs in its cell's slot (R105, R261). -/
def slotFail (s : State) (c : Ctx) (pa kc sel addr : Nat) : Option Fail :=
  match placeOf (paLocal pa) with
  | .dram k _ => need (decide (paPkg pa ≠ s.dev.pkg) || !refreshAt (k % 8) (framePos s c kc)) (Fail.of 0x14 sel addr)
  | _ => none

/-- The words of a bank reach outside the zone in a class, and have not yet performed there (R245). -/
def farClass (s : State) (c : Ctx) (cls : Nat) : Bool :=
  (wordEntries s c).any (fun e => decide (e.ctx.unit = 1) &&
    (match e.pay with
     | .ev (.accessPerform a) => decide (a.cls = cls)
     | .word w => decide (wordEng w = 0) && decide ((if wordOp w ≤ 0x23 then bitsOf w.toNat 5 4 else bitsOf w.toNat 0 4) = cls)
     | _ => false))

/-- The order that fences and accesses outside the zone impose on an access of a class whose first perform kc is `kc` (R245, R251). -/
def orderFail (s : State) (c : Ctx) (timed : Bool) (kc cls : Nat) : Option Fail :=
  if kc < (strandOf s c.bank).fences.getD cls 0 then some (Fail.hold 0x10 0 timed)
  else if !timed && farClass s c cls then some (Fail.hold 0x10 0 timed)
  else none

/-- The address checks of a C load, store or atomic (R103 to R106, R363). -/
def cMemFail (s : State) (c : Ctx) (timed : Bool) (ea size cls : Nat) (q : Want) : Option Fail :=
  if !q.amo && inFrame s c.bank ea then
    firstFail [need (decide (ea % size = 0)) (Fail.of 0x09 1 ea), orderFail s c timed (c.pkc + 3) cls]
  else
    match spanFail s c { q with near := timed } (decide (ea % size ≠ 0)) anyTarget 3 ea size with
    | some f => some f
    | none =>
      let pa := (translate c ea).getD 0
      let l := (cLatency s c.bank pa).getD 24
      firstFail [
        (if paZone s pa = bankStack c.bank then slotFail s c pa (c.pkc + l - 1) 1 ea else none),
        orderFail s c timed (c.pkc + l - 1) cls]

/-- A hardware loop that begins (R101): a free entry, and an end within the innermost active loop. -/
def loopFail (t : Strand) (nxt len : Nat) : Option Fail :=
  firstFail [
    need (decide (t.loops.length < 4)) (Fail.of 0x01 0 0),
    (match t.loops with | [] => none | x :: _ => need (decide (nxt + 4 * len ≤ x.stop)) (Fail.of 0x01 0 0))]

/-- The target of a branch lies in the code image (R98). -/
def branchFail (s : State) (c : Ctx) (o : BitVec 19) : Option Fail :=
  let x := branchTarget c.hdr o
  need (decide (0 ≤ x) && decide (x < (bankKernel s c.bank).csize)) (Fail.of 0x03 13 (wrapTo 64 x))

/-- `node` and `yield` need an empty loop stack (R102), and no handler runs them (R309). -/
def nodeFail (t : Strand) : Option Fail := need (t.loops.isEmpty && !t.trap) (Fail.of 0x01 0 0)

/-- The checks of a C word behind its engine's acceptance. DEDUCED: a `jr` target that is misaligned and outside the image too raises 0x09, which the
rule names first (log entry 138). -/
def cFail (s : State) (c : Ctx) (timed : Bool) (i : Instr) : Option Fail :=
  let t := strandOf s c.bank
  let ea (a o : BitVec 5) (size : Nat) : Nat := (effAddr (sreg t a.toNat) o size).toNat
  let ld (a : BitVec 5) (k : BitVec 4) (o : BitVec 5) (size : Nat) := cMemFail s c timed (ea a o size) size k.toNat { sel := 1, rd := true }
  let st (a : BitVec 5) (k : BitVec 4) (o : BitVec 5) (size : Nat) := cMemFail s c timed (ea a o size) size k.toNat { sel := 1, wr := true }
  let amo (a : BitVec 5) (k : BitVec 4) := cMemFail s c timed (sreg t a.toNat).toNat 8 k.toNat { sel := 1, amo := true }
  match i with
  | .jr _ _ a =>
    let x := (sreg t a.toNat).toNat
    firstFail [need (decide (x % 4 = 0)) (Fail.of 0x09 1 x), need (decide (x < (bankKernel s c.bank).csize)) (Fail.of 0x03 1 x)]
  | .br _ o => branchFail s c o
  | .call _ o => branchFail s c o
  | .loop _ l => loopFail t c.nxt l.toNat
  | .loopi _ l => loopFail t c.nxt l.toNat
  | .ldB _ _ a k o => ld a k o 1
  | .ldBu _ _ a k o => ld a k o 1
  | .ldH _ _ a k o => ld a k o 2
  | .ldHu _ _ a k o => ld a k o 2
  | .ldW _ _ a k o => ld a k o 4
  | .ldWu _ _ a k o => ld a k o 4
  | .ldD _ _ a k o => ld a k o 8
  | .stB _ _ a k o => st a k o 1
  | .stH _ _ a k o => st a k o 2
  | .stW _ _ a k o => st a k o 4
  | .stD _ _ a k o => st a k o 8
  | .amoAdd _ _ a _ k => amo a k
  | .amoAnd _ _ a _ k => amo a k
  | .amoOr _ _ a _ k => amo a k
  | .amoMax _ _ a _ k => amo a k
  | .amoSwap _ _ a _ k => amo a k
  | .amoCas _ _ a _ k => amo a k
  | .rett => need t.trap (Fail.of 0x01 0 0)
  | .tfence _ => need (decide (t.aflags &&& t.aen = 0)) (Fail.of 0x20 0 (t.aflags &&& t.aen).toNat)
  | .node0 => nodeFail t
  | .node1 => nodeFail t
  | .node2 => nodeFail t
  | .yield => nodeFail t
  | _ => none

/-- A C access of the word goes outside the strand's zone (R105). -/
def cIsFar (s : State) (c : Ctx) (i : Instr) : Bool :=
  let t := strandOf s c.bank
  let far (va : Nat) : Bool := !inFrame s c.bank va && (match translate c va with | some pa => decide (paZone s pa ≠ bankStack c.bank) | none => false)
  let off (a o : BitVec 5) (size : Nat) : Bool := far (effAddr (sreg t a.toNat) o size).toNat
  match i with
  | .ldB _ _ a _ o => off a o 1
  | .ldBu _ _ a _ o => off a o 1
  | .ldH _ _ a _ o => off a o 2
  | .ldHu _ _ a _ o => off a o 2
  | .ldW _ _ a _ o => off a o 4
  | .ldWu _ _ a _ o => off a o 4
  | .ldD _ _ a _ o => off a o 8
  | .stB _ _ a _ o => off a o 1
  | .stH _ _ a _ o => off a o 2
  | .stW _ _ a _ o => off a o 4
  | .stD _ _ a _ o => off a o 8
  | .amoAdd _ _ a _ _ => far (sreg t a.toNat).toNat
  | .amoAnd _ _ a _ _ => far (sreg t a.toNat).toNat
  | .amoOr _ _ a _ _ => far (sreg t a.toNat).toNat
  | .amoMax _ _ a _ _ => far (sreg t a.toNat).toNat
  | .amoSwap _ _ a _ _ => far (sreg t a.toNat).toNat
  | .amoCas _ _ a _ _ => far (sreg t a.toNat).toNat
  | _ => false

/-- The memory that a V word may reach (R141): scratchpad and SRAM of its own stack. -/
def vTarget (s : State) (b va pa : Nat) : Option Fail :=
  let ok := decide (paPkg pa = s.dev.pkg) &&
    (match placeOf (paLocal pa) with
     | .spad c _ => decide (c / 128 = bankStack b)
     | .sram z _ => decide (z = bankStack b)
     | _ => false)
  need ok (Fail.of 0x05 1 va)

/-- The address checks of `vld` and `vst` (R141): the image lies in one page. -/
def vMemFail (s : State) (c : Ctx) (timed : Bool) (va cls : Nat) (wr : Bool) : Option Fail :=
  let cross := match lookup c.tbl va with | some e => decide (weVa e + pageBytes (weSize e) < va + 512) | none => false
  match spanFail s c { sel := 1, rd := !wr, wr := wr } (decide (va % 64 ≠ 0) || cross) (vTarget s c.bank va) 2 va 512 with
  | some f => some f
  | none => orderFail s c timed (c.pkc + 3 + vLatency c.bank ((translate c va).getD 0) - 1) cls

/-- The checks of `vldg` (R142). -/
def gatherFail (s : State) (c : Ctx) (timed : Bool) (va cls : Nat) : Option Fail :=
  match spanFail s c { sel := 1, rd := true } (decide (va % 4 ≠ 0)) anyTarget 1 va 4 with
  | some f => some f
  | none => firstFail [need (inGather s c.bank ((translate c va).getD 0)) (Fail.of 0x08 1 va), orderFail s c timed (c.pkc + 10) cls]

/-- The checks of a V word behind its engine's acceptance. -/
def vFail (s : State) (c : Ctx) (timed : Bool) (i : Instr) : Option Fail :=
  let t := strandOf s c.bank
  match i with
  | .vld _ _ a o k => vMemFail s c timed (vecAddr (sreg t a.toNat) o).toNat k.toNat false
  | .vst _ _ a o k => vMemFail s c timed (vecAddr (sreg t a.toNat) o).toNat k.toNat true
  | .vldg _ _ _ a k => gatherFail s c timed (sreg t a.toNat).toNat k.toNat
  | _ => none

end Sys2Proof.Machine
end

