-- ==== Sys2Proof/Machine/ValidateM.lean ====
section
/-! DEFINITION. The checks of M words (R161, R165 to R192, R202 to R216), at dispatch and, for a follow-on word, when it enters the
follow-on queue (R192). A word's handles are captured first; record and control word are read from its context. -/

namespace Sys2Proof.Machine

/-- The handles of an M word, with their selectors (R164, R166, R210). -/
def mHandles (w : Word) (a b : Dword) : List (Nat × Dword) :=
  let op := mOp w
  if op = 1 ∨ op = 2 then [(5, a)]
  else if op = 10 then [(4, a), (5, b)]
  else if op = 15 ∨ op = 16 ∨ op = 18 ∨ op = 19 ∨ op = 21 then []
  else [(4, a)]

/-- The records that handles name, or the first that is stale (R153). -/
def handlesFail (s : State) (b : Nat) (hs : List (Nat × Dword)) : Option Fail :=
  hs.findSome? (fun h => match handleRec s (bankStack b) (strandOf s b).grp h.2 with
    | some _ => none
    | none => some (Fail.of 0x0C h.1 h.2.toNat))

/-- The records that handles name. -/
def handleImgs (s : State) (b : Nat) (hs : List (Nat × Dword)) : List ShapeImg :=
  hs.map (fun h => (handleRec s (bankStack b) (strandOf s b).grp h.2).getD 0)

/-- A record's cell range suits a tile word of the strand (R161). -/
def rangeOk (s : State) (b : Nat) (r : ShapeImg) : Bool :=
  let t := strandOf s b
  decide (recNst r = 1) && decide (recSt0 r = t.gstack) && decide (recRow0 r ≤ t.grow) && decide (t.grow < recRow0 r + recNrow r) &&
    decide (recRow0 r + recNrow r ≤ (bankGroup s b).rR) && decide (recCol0 r + recNcol r ≤ 8)

/-- A record's cell range lies inside the group (R149). -/
def inGroup (s : State) (b : Nat) (r : ShapeImg) : Bool :=
  let g := bankGroup s b
  decide (recSt0 r + recNst r ≤ g.rS) && decide (recRow0 r + recNrow r ≤ g.rR) && decide (recCol0 r + recNcol r ≤ 8)

/-- A creel-order record (R167). -/
def creelOk (s : State) (b : Nat) (r : ShapeImg) : Bool :=
  decide (recLayout r = 1) && decide (recRank r = 2) && decide (recDim r 0 % fmtElems (recFmt r) = 0) && decide (recDim r 1 = 64) && rangeOk s b r

/-- The passes of a creel-order record (R167). -/
def recPasses (r : ShapeImg) : Nat := recDim r 0 / fmtElems (recFmt r)

/-- An activation record of a product (R173, R179, R180). -/
def actOk (s : State) (b : Nat) (p : Prod) (r w : ShapeImg) : Bool :=
  let e := fmtElems p.fmt
  decide (recLayout r = 0) && decide (recFmt r = p.fmt) && rangeOk s b r &&
  (match p.kind with
   | 2 => decide (recRank r = 3) && decide (recDim r 0 % e = 0) && decide (recConv r ≠ 0)
   | 3 => decide (recRank r = 4) && decide (recDim r 0 = e) && decide (recDim r 1 = recNcol r) && decide (recStride r 1 = 0x80000) &&
       decide (recStride r 2 % 64 = 0) && decide (recDim r 3 * recDim r 2 ≤ 128) && decide (recDim r 3 ≤ recPasses w)
   | _ => decide (recRank r = 3) && decide (recDim r 0 = e) && decide (recDim r 1 = recNcol r) && decide (recStride r 1 = 0x80000) &&
       decide (recStride r 2 % 64 = 0))

/-- A byte record of a drain or of `ckrd` (R161, R187, R215). -/
def drainRecOk (s : State) (b : Nat) (r : ShapeImg) (width rows : Nat) : Bool :=
  rangeOk s b r && decide (recLayout r = 0) && decide (recFmt r = 3) && decide (recRank r = 2) && decide (recDim r 0 = width) && decide (rows ≤ recDim r 1)

/-- A byte record of rank 1 (R161, R186, R212). -/
def flatRecOk (s : State) (b : Nat) (r : ShapeImg) : Bool := rangeOk s b r && decide (recLayout r = 0) && decide (recFmt r = 3) && decide (recRank r = 1)

/-- The rows that a control word names lie in a tile (R165). -/
def rowsOk (x : Dword) : Bool := decide (1 ≤ ctlM x) && decide (ctlTrow x + ctlM x ≤ 128)

/-- A part with cout has a stack of its group east of it, over a stack edge or over the package edge link toward a next package (R181): that
link serves the chains of the one group that spans it (R20, R336). -/
def eastJoined (s : State) (b : Nat) : Bool :=
  decide ((strandOf s b).gstack + 1 < (bankGroup s b).rS) && (decide (bankStack b % 4 ≠ 3) || decide (s.dev.pkg < s.dev.east))

/-- The control word of a product (R165, R181). -/
def prodCtlOk (s : State) (c : Ctx) (p : Prod) : Bool :=
  if p.kind = 3 then true
  else
    let x := c.rb.toNat
    rowsOk c.rb && (!ctlCout c.rb || eastJoined s c.bank) &&
      (if p.kind = 2 then decide (bitsOf x 17 7 = 0) && decide (bitsOf x 56 8 = 0) else decide (bitsOf x 17 47 = 0))

/-- A record or control word that does not suit the word (R166, R198): the record first, as R172 lists them. -/
def mFormFail (s : State) (w : Word) (c : Ctx) : Option Fail :=
  let r := rec0 c
  let x := c.rb.toNat
  let p := prodOf w c
  let a := c.ra.toNat
  let record (ok : Bool) (sel : Nat) : Option Fail := need ok (Fail.of 0x0D sel a)
  let control (ok : Bool) : Option Fail := need ok (Fail.of 0x0D 2 0)
  match mOp w with
  | 1 => firstFail [record (creelOk s c.bank r) 5, control (decide (bitsOf x 16 48 = 0) && decide (x % 65536 < recPasses r))]
  | 2 => firstFail [record (creelOk s c.bank r && decide (recFmt r ≠ 0)) 5, control (decide (bitsOf x 16 48 = 0) && decide (x % 65536 < recPasses r))]
  | 12 => firstFail [record (flatRecOk s c.bank r && decide (recDim r 0 = 768)) 4,
      control (rowsOk c.rb && decide (bitsOf x 15 1 = 0) && decide (bitsOf x 18 46 = 0))]
  | 13 => firstFail [record (drainRecOk s c.bank r 256 (max 1 (ctlM c.rb))) 4, control (rowsOk c.rb && decide (bitsOf x 15 49 = 0))]
  | 14 => firstFail [record (drainRecOk s c.bank r 128 (max 1 (ctlM c.rb))) 4, control (rowsOk c.rb && decide (bitsOf x 15 49 = 0))]
  | 15 => none
  | 16 => none
  | 17 => record (flatRecOk s c.bank r && decide (64 ≤ recDim r 0)) 4
  | 18 => none
  | 19 => control (decide (bitsOf x 24 40 = 0) && decide (bitsOf x 0 8 ≤ 127) && decide (bitsOf x 8 7 ≤ 64) && decide (bitsOf x 15 1 = 0))
  | 20 =>
    let trow := ctlTrow c.rb
    let m := ctlM c.rb
    firstFail [record (drainRecOk s c.bank r 256 (max 1 m)) 4,
      control (decide (bitsOf x 15 1 = 0) && decide (bitsOf x 18 46 = 0) && decide (1 ≤ m) &&
        (match ctlSrc c.rb with
         | 0 => decide (trow + m ≤ 128)
         | 1 => decide (trow = 0) && decide (m ≤ 2)
         | 2 => decide (trow + m ≤ 16)
         | _ => false))]
  | 21 => none
  | 10 => firstFail [record (actOk s c.bank p r (rec1 c) && (!p.ck || decide (p.groups ≤ 16))) 4,
      need (creelOk s c.bank (rec1 c) && decide (recFmt (rec1 c) = p.fmt)) (Fail.of 0x0D 5 c.rb.toNat)]
  | _ => firstFail [record (actOk s c.bank p r 0) 4, control (prodCtlOk s c p)]

/-- A run of bytes of an operand, with the cell in which it must lie. -/
structure Run where
  va : Nat
  len : Nat
  cell : Nat
  deriving DecidableEq, Repr

/-- A run put in its place among runs in ascending address. -/
def insertRun (x : Run) (l : List Run) : List Run :=
  match l with
  | [] => [x]
  | y :: t => if x.va ≤ y.va then x :: y :: t else y :: insertRun x t

/-- Runs in ascending address. -/
def sortRuns (l : List Run) : List Run := l.foldr insertRun []

/-- The cell of an active cell's column offset in the strand's row. -/
def rowCell (b : Nat) (r : ShapeImg) (j : Nat) : Nat := 8 * bankRow b + recCol0 r + j

/-- The cell of the feed row at a column offset (R162, R173). -/
def feedCell (s : State) (b : Nat) (r : ShapeImg) (j : Nat) : Nat :=
  8 * (bankStack b * 16 + placeRow (bankGroup s b) 0 (recRow0 r) % 16) + recCol0 r + j

/-- The lines and headers of one pass of a creel-order record (R167). -/
def passRuns (s : State) (c : Ctx) (r : ShapeImg) (p : Nat) : List Run :=
  (List.range (recNcol r)).flatMap (fun j =>
    let cell := rowCell c.bank r j
    { va := creelVa s c r (recBase r) j + 4096 * p, len := 4096, cell := cell } ::
      (if fmtHeader (recFmt r) then [{ va := creelVa s c r (recHdr r) j + 128 * p, len := 128, cell := cell }] else []))

/-- The runs of a record's rows in one feed cell: one run where the rows lie end to end. -/
def rowRuns (base stride n cell : Nat) : List Run :=
  if stride = 64 then [{ va := base, len := 64 * n, cell := cell }]
  else (List.range n).map (fun i => { va := base + i * stride, len := 64, cell := cell })

/-- What a product reads in its feed cells (R173, R178 to R180). -/
def actRuns (s : State) (c : Ctx) (p : Prod) : List Run :=
  let r := p.img
  let cells := List.range (recNcol r)
  let head (n j : Nat) : List Run :=
    if fmtHeader p.fmt then [{ va := recHdr r + j * 0x80000, len := 2 * n, cell := feedCell s c.bank r j }] else []
  match p.kind with
  | 2 =>
    let k := recDim r 0 / fmtElems p.fmt
    cells.flatMap (fun j => (List.range (recDim r 2)).flatMap (fun y => (List.range (recDim r 1)).map (fun x =>
      { va := recBase r + j * 0x80000 + x * recStride r 1 + y * recStride r 2, len := 64 * k, cell := feedCell s c.bank r j })) ++
        head (k * recDim r 1 * recDim r 2) j)
  | 3 =>
    cells.flatMap (fun j => (List.range (recDim r 3)).flatMap (fun g =>
      rowRuns (recBase r + j * 0x80000 + g * recStride r 3) (recStride r 2) (recDim r 2) (feedCell s c.bank r j)) ++
        head (recDim r 2 * recDim r 3) j) ++ [{ va := recIdx r, len := 4 * recDim r 3, cell := feedCell s c.bank r 0 }]
  | k =>
    cells.flatMap (fun j => rowRuns (recBase r + j * 0x80000) (recStride r 2) (recDim r 2) (feedCell s c.bank r j) ++ head (recDim r 2) j) ++
      (if k = 1 then [{ va := recIdx r, len := 4 * p.rows, cell := feedCell s c.bank r 0 }] else [])

/-- A scratchpad byte of one cell. -/
def inCell (s : State) (cell pa : Nat) : Bool :=
  decide (paPkg pa = s.dev.pkg) && (match placeOf (paLocal pa) with | .spad c _ => decide (c = cell) | _ => false)

/-- A scratchpad byte of the strand's own row. -/
def inOwnRow (s : State) (b pa : Nat) : Bool :=
  decide (paPkg pa = s.dev.pkg) && (match placeOf (paLocal pa) with | .spad c _ => decide (c / 8 = bankRow b) | _ => false)

/-- The checks of a run whose place is a condition on its record (R173, R186): the place comes before the page's permission. -/
def placedFail (s : State) (c : Ctx) (q : Want) (place : Nat → Bool) (va len : Nat) : Option Fail :=
  let wrong := (segsOf c.tbl (pagesIn len) va len).find? (fun g => !place g.pa)
  let first := spanFail s c q false anyTarget (pagesIn len) va len
  match wrong with
  | some g =>
    let before := spanFail s c q false anyTarget (pagesIn len) va (g.va - va)
    (match before with | some f => some f | none => some (Fail.of 0x0D q.sel g.va))
  | none => first

/-- The checks of the rows that a word writes in its own row's scratchpad (R187, R212, R215): the base and the distance of the rows are
multiples of 64. -/
def rowsFail (s : State) (c : Ctx) (stride : Nat) (l : List Run) : Option Fail :=
  (sortRuns l).findSome? (fun x =>
    spanFail s c { sel := 4, wr := true } (decide (x.va % 64 ≠ 0) || decide (stride % 64 ≠ 0)) (fun pa => need (inOwnRow s c.bank pa) (Fail.of 0x05 4 x.va)) (pagesIn x.len) x.va x.len)

/-- The address checks of the weights of a load or `mgrp` (R172). -/
def weightsFail (s : State) (c : Ctx) (l : List Run) : Option Fail :=
  (sortRuns l).findSome? (fun x => spanFail s c { sel := 5, rd := true } false anyTarget (pagesIn x.len) x.va x.len)

/-- The address checks of an M word (R172, R173, R178, R180, R186, R187, R212, R215). -/
def mAddrFail (s : State) (w : Word) (c : Ctx) : Option Fail :=
  let r := rec0 c
  let acts (_ : Unit) : Option Fail :=
    (sortRuns (actRuns s c (prodOf w c))).findSome? (fun x =>
      placedFail s c { sel := 4, rd := true } (inCell s x.cell) x.va x.len)
  let rows (n : Nat) : List Run := (List.range n).map (fun i => { va := recBase r + i * recStride r 1, len := recDim r 0, cell := 0 })
  match mOp w with
  | 1 => weightsFail s c (passRuns s c r (c.rb.toNat % 65536))
  | 2 => weightsFail s c (passRuns s c r (c.rb.toNat % 65536))
  | 10 => firstFail [acts (), weightsFail s c ((List.range (recDim r 3)).flatMap (passRuns s c (rec1 c)))]
  | 12 => placedFail s c { sel := 4, rd := true } (inOwnRow s c.bank) (recBase r) 768
  | 13 => rowsFail s c (recStride r 1) (rows (ctlM c.rb))
  | 14 => rowsFail s c (recStride r 1) (rows (ctlM c.rb))
  | 15 => none
  | 16 => none
  | 17 => rowsFail s c 0 [{ va := recBase r, len := 64, cell := 0 }]
  | 18 => none
  | 19 => none
  | 20 => rowsFail s c (recStride r 1) (rows (ctlM c.rb))
  | 21 => none
  | _ => acts ()

/-- The tile words, and those that name a buffer (R164, R210). -/
def namesTile (w : Word) (c : Ctx) : Bool :=
  let op := mOp w
  decide (3 ≤ op) && decide (op ≠ 16) && !(isProduct w && (prodOf w c).cout)
def namesBuf (w : Word) : Bool := decide (mOp w ≤ 11)

/-- The tiles that a word names. -/
def mTiles (w : Word) (c : Ctx) : List Nat :=
  if namesTile w c then (if mOp w = 12 then [mTile w, ctlSrc c.rb] else [mTile w]) else []

/-- The budget of tiles (R302), and the buffers and tiles of the other window in paired mode (R190): of a buffer, that which
m[3] names. DEDUCED: log entry 115. -/
def ownFail (s : State) (w : Word) (c : Ctx) : Option Fail :=
  let g := bankGroup s c.bank
  let ts := mTiles w c
  firstFail [
    need (ts.all (fun t => decide (t < (kernelOf s g.kern).bud.acc))) (Fail.of 0x08 3 0),
    need (!g.paired || !namesBuf w || decide (mBuf w = g.win)) (Fail.of 0x0D 0 0),
    need (!g.paired || ts.all (fun t => decide (t / 2 = g.win))) (Fail.of 0x0D 3 0)]

/-- A tile is poisoned for a word dispatched now: no word before it clears it (R184, R209). -/
def poisonedTile (c : Ctx) (r : Row) (res : MRes) (t : Nat) : Bool :=
  (tileOf r t).st == .poisoned && !decide (c.pkc < (tilePlan r res t).clr)

/-- A tile is held for a word dispatched now: no word before it clears it or runs its product again (R184, R211, R216). -/
def heldTile (c : Ctx) (r : Row) (res : MRes) (t : Nat) : Bool :=
  (tileOf r t).st == .held && !decide (c.pkc < (tilePlan r res t).clr) && !decide (c.pkc < (tilePlan r res t).rerun)

/-- A tile accepts no word that reads or writes its values but the check words and drains (R209, R211). -/
def barred (c : Ctx) (r : Row) (res : MRes) (t : Nat) : Bool := heldTile c r res t || poisonedTile c r res t

/-- The tile's single product (R196), as R213 and R216 need it. -/
def singleProd (t : Tile) : Option Product := if t.nprod = 1 ∧ !t.cinSeen then t.prod else none

/-- The buffers that a product reads, each reloaded since it or about to be (R213, R216). -/
def reloaded (c : Ctx) (r : Row) (res : MRes) (pr : Product) (n : Nat) : Bool :=
  let b := creelOf r n
  b.st == .empty || decide (b.gen ≠ pr.gens.getD n 0) ||
    (match Sparse.find res.bufs n with | some x => (match x.full with | some k => decide (c.pkc < k) | none => false) | none => false)

/-- The checks between a word and the state of buffers and tiles (R65, R169, R177, R186, R187, R209, R211, R213, R216). -/
def mStateFail (s : State) (w : Word) (c : Ctx) (res : MRes) : Option Fail :=
  let r := rowOf s (bankRow c.bank)
  let p := prodOf w c
  let ti := mTile w
  let tp := tilePlan r res ti
  let bar := barred c r res ti
  let poison := poisonedTile c r res ti
  let tile (ok : Bool) : Option Fail := need ok (Fail.of 0x0D 3 0)
  let buffer (ok : Bool) : Option Fail := need ok (Fail.of 0x0D 5 0)
  let typeOk : Bool := !tp.typed || tp.int == decide (p.fmt = 3)
  match mOp w with
  | 1 => none
  | 2 => none
  | 12 => firstFail [tile (!bar && !(tp.typed && tp.int)), need (!barred c r res (ctlSrc c.rb)) (Fail.of 0x0D 2 0)]
  | 13 => firstFail [tile (!poison), need (!mCk w || (tp.checked && decide (tp.ow = some (ctlTrow c.rb, ctlM c.rb)))) (Fail.of 0x0D 2 0)]
  | 14 => firstFail [tile (!poison && !(tp.typed && tp.int)),
      need (!mCk w || (tp.checked && decide (tp.ow = some (ctlTrow c.rb, ctlM c.rb)))) (Fail.of 0x0D 2 0)]
  | 15 => none
  | 16 => none
  | 17 => tile (heldTile c r res ti)
  | 18 =>
    let syn := (strandOf s c.bank).cksyn
    let t := tileOf r ti
    match (if heldTile c r res ti && synValid syn && synLoc syn && decide (synTile syn = ti) then singleProd t else none) with
    | none => tile false
    | some pr =>
      let q := prodOf pr.word pr.ctx
      let g := groupAt q (synM syn)
      buffer (!reloaded c r res pr (bufOf q g) && (decide (q.kind ≠ 3) || decide (q.groups ≤ g + 2)))
  | 19 => none
  | 20 => none
  | 21 =>
    match (if heldTile c r res ti then singleProd (tileOf r ti) else none) with
    | none => tile false
    | some pr =>
      let q := prodOf pr.word pr.ctx
      buffer (!reloaded c r res pr q.buf && (decide (q.kind ≠ 3) || (decide (q.groups ≤ 2) && (decide (q.groups < 2) || !reloaded c r res pr (1 - q.buf)))))
  | 10 => tile (!bar && typeOk)
  | _ =>
    let b := bufPlan r res p.buf
    firstFail [(if p.cout then none else tile (!bar && typeOk)), buffer (b.full.isSome && decide (b.fmt = p.fmt))]

/-- The weights lie in compute-capable pages of the cells that their offsets name (R167). -/
def computeFail (s : State) (c : Ctx) (l : List Run) : Option Fail :=
  (sortRuns l).findSome? (fun x => (segsOf c.tbl (pagesIn x.len) x.va x.len).findSome? (fun g =>
    let ok := (match lookup c.tbl g.va with | some e => weX e | none => false) && decide (paPkg g.pa = s.dev.pkg) &&
      decide (baseLinear ≤ paLocal g.pa) && (match placeOf (paLocal g.pa) with | .dram k _ => decide (k = x.cell) | _ => false)
    need ok (Fail.of 0x1B 5 g.va)))

/-- The loader window of a word meets the refresh slot of an active cell's column (R170, R191). -/
def refreshFail (s : State) (w : Word) (c : Ctx) (t : Nat) : Option Fail :=
  let r := rowOf s (bankRow c.bank)
  let n := (mHolds w c r).1 * pace s c
  if n = 0 then none
  else
    let img := if mOp w = 10 then rec1 c else rec0 c
    need (!(List.range (recNcol img)).any (fun j => refreshMeets (recCol0 img + j) (framePos s c t) n)) (Fail.of 0x14 5 0)

/-- The kc, from its issue, at which an M word first reaches memory, if it does. -/
def mFirst (w : Word) (r : Row) : Option Nat :=
  match mOp w with
  | 1 => some 4 | 2 => some 4 | 10 => some 0 | 12 => some 0 | 13 => some 12 | 14 => some 12 | 15 => none | 16 => none
  | 17 => some 9 | 18 => some 1 | 19 => none | 20 => some 4
  | 21 => some (match (tileOf r (mTile w)).prod with | some pr => (let q := prodOf pr.word pr.ctx; if q.kind = 2 then q.lead else 0) | none => 0)
  | 11 => some 2
  | _ => some 0

/-- Every check of an M word behind its handles (R65), for a word that reaches its engine at `arr`; `order` where fences apply. -/
def mFail (s : State) (w : Word) (c : Ctx) (arr : Nat) (order : Nat → Option Fail) : Option Fail :=
  let r := rowOf s (bankRow c.bank)
  let t := mIssueAt s w c r r.res arr
  match mFormFail s w c with
  | some f => some f
  | none => match mAddrFail s w c with
    | some f => some f
    | none => match ownFail s w c with
      | some f => some f
      | none => match mStateFail s w c r.res with
        | some f => some f
        | none =>
          firstFail [
            (match mOp w with
             | 1 => computeFail s c (passRuns s c (rec0 c) (c.rb.toNat % 65536))
             | 2 => computeFail s c (passRuns s c (rec0 c) (c.rb.toNat % 65536))
             | 10 => computeFail s c ((List.range (recDim (rec0 c) 3)).flatMap (passRuns s c (rec1 c)))
             | _ => none),
            refreshFail s w c t,
            (match mFirst w r with | some k => order (t + k * pace s c) | none => none)]

end Sys2Proof.Machine
end

