-- ==== Sys2Proof/Machine/ValidateB.lean ====
section
/-! DEFINITION. The checks of B words (R291 to R297), at dispatch: handles are captured first, records read from the word's context. -/

namespace Sys2Proof.Machine

/-- The handles of a B word, with their selectors (R294): `bsum` has no b. -/
def bHandles (w : Word) (a b d : Dword) : List (Nat × Dword) := if bOp w = 7 then [(1, a), (3, d)] else [(1, a), (2, b), (3, d)]

/-- The captured records of a B word, in the places of a, b and d. -/
def bImgs (w : Word) (imgs : List ShapeImg) : List ShapeImg := if bOp w = 7 then [imgs.headD 0, 0, imgs.getD 1 0] else imgs

/-- The operands of a B word, with their selectors. -/
def bOperands (w : Word) (c : Ctx) : List (Nat × ShapeImg) :=
  if bOp w = 7 then [(1, bRecA c), (3, bRecD c)] else [(1, bRecA c), (2, bRecB c), (3, bRecD c)]

/-- A bank operand (R291). -/
def bankOk (s : State) (b : Nat) (r : ShapeImg) : Bool :=
  let t := strandOf s b
  decide (recLayout r = 1) && decide (recFmt r = 3) && decide (recRank r = 2) && decide (recDim r 0 % 1024 = 0) && decide (1024 ≤ recDim r 0) &&
    decide (1 ≤ recDim r 1) && decide (recDim r 1 ≤ 16) && decide (recHdr r = 0) && decide (recPad r = 0) && decide (recConv r = 0) &&
    decide (recIdx r = 0) && decide (recBase r % 128 = 0) && decide (recNst r = 1) && decide (recSt0 r = t.gstack) && decide (recRow0 r ≤ t.grow) &&
    decide (t.grow < recRow0 r + recNrow r) && decide (recRow0 r + recNrow r ≤ (bankGroup s b).rR) && decide (recCol0 r + recNcol r ≤ 8)

/-- The runs of an operand, one for each active cell (R291). -/
def bRuns (s : State) (c : Ctx) (r : ShapeImg) : List Run :=
  (List.range (recNcol r)).map (fun j => { va := planeVa s c r j 0 0, len := 128 * bWidth r * bSlices r, cell := rowCell c.bank r j })

/-- The address checks of an operand (R292). -/
def bAddrFail (s : State) (c : Ctx) (sel : Nat) (r : ShapeImg) : Option Fail :=
  (sortRuns (bRuns s c r)).findSome? (fun x =>
    spanFail s c { sel := sel, rd := decide (sel ≠ 3), wr := decide (sel = 3) } false anyTarget (pagesIn x.len) x.va x.len)

/-- The same operand: base, count and width (R293). -/
def sameOperand (x y : ShapeImg) : Bool := decide (recBase x = recBase y) && decide (recDim x 0 = recDim y 0) && decide (recDim x 1 = recDim y 1)

/-- Two operands share a byte of a cell. -/
def operandsMeet (s : State) (c : Ctx) (x y : ShapeImg) : Bool :=
  (bRuns s c x).any (fun a => (bRuns s c y).any (fun b => decide (a.va < b.va + b.len) && decide (b.va < a.va + a.len)))

/-- The checks between operands (R293, R295). -/
def betweenFail (s : State) (w : Word) (c : Ctx) : Option Fail :=
  let a := bRecA c
  let d := bRecD c
  let others := if bOp w = 7 then [a] else [a, bRecB c]
  let cols := others.all (fun x => decide (recCol0 x = recCol0 d) && decide (recNcol x = recNcol d))
  let counts := if bOp w = 7 then decide (bSlices a ≤ recDim d 0) else others.all (fun x => decide (recDim x 0 = recDim d 0))
  let apart := others.all (fun x => sameOperand x d || !operandsMeet s c x d)
  need (cols && counts && apart) (Fail.of 0x0D 3 0)

/-- Why an operand is no bank operand of the unit (R292): the reason, 0 for none. -/
def bankReason (s : State) (c : Ctx) (r : ShapeImg) : Nat :=
  let segs (x : Run) : List Seg := segsOf c.tbl (pagesIn x.len) x.va x.len
  let bad (f : Run → Seg → Bool) : Bool := (bRuns s c r).any (fun x => (segs x).any (f x))
  if bad (fun _ g => match lookup c.tbl g.va with | some e => !weX e | none => true) then 1
  else if (bRuns s c r).any (fun x => match segs x with
      | [] => true
      | g :: t => (g :: t).any (fun y => decide ((y.pa + y.len - 1) / 0x200000 ≠ g.pa / 0x200000) || decide (y.pa / 0x200000 ≠ g.pa / 0x200000))) then 2
  else if bad (fun x g => decide (paPkg g.pa ≠ s.dev.pkg) ||
      (match placeOf (paLocal g.pa) with | .dram k _ => decide (k ≠ x.cell) || decide (paLocal g.pa < baseLinear) | _ => true)) then 3
  else if (rowOf s (bankRow c.bank)).paired then 4
  else 0

/-- The reasons of 0x1B (R292): the first operand that fails decides. -/
def bankFail (s : State) (w : Word) (c : Ctx) : Option Fail :=
  (bOperands w c).findSome? (fun x =>
    match bankReason s c x.2 with
    | 0 => none
    | n => some { Fail.of 0x1B x.1 (if x.1 = 3 then c.rd.toNat else if x.1 = 2 then c.rb.toNat else c.ra.toNat) with detail := n })

/-- The hold window meets a refresh slot (R297). -/
def bRefreshFail (s : State) (w : Word) (c : Ctx) (t : Nat) : Option Fail :=
  let img := bRecA c
  need (!(List.range (recNcol img)).any (fun j => refreshMeets (recCol0 img + j) (framePos s c t) (bBusy w c))) (Fail.of 0x14 1 0)

/-- Every check of a B word behind its handles (R65, R292), for a word that reaches its engine at `arr`. -/
def bFail (s : State) (w : Word) (c : Ctx) (arr : Nat) (order : Nat → Option Fail) : Option Fail :=
  let handle (sel : Nat) : Nat := if sel = 3 then c.rd.toNat else if sel = 2 then c.rb.toNat else c.ra.toNat
  let t := bIssueAt w c (rowOf s (bankRow c.bank)).res arr
  match (bOperands w c).findSome? (fun x => need (bankOk s c.bank x.2) (Fail.of 0x0D x.1 (handle x.1))) with
  | some f => some f
  | none =>
    match (bOperands w c).findSome? (fun x => bAddrFail s c x.1 x.2) with
    | some f => some f
    | none => firstFail [betweenFail s w c, bankFail s w c, bRefreshFail s w c t, order (t + 32)]

end Sys2Proof.Machine
end

