-- ==== Sys2Proof/Machine/ValidateX.lean ====
section
/-! DEFINITION. The checks of X words (R259 to R264) and of the cards that `xjob` and `xjobf` submit (R266 to R269). Handles and, for a
submission, the card and its records are captured first. -/

namespace Sys2Proof.Machine

/-- The op of an X word (R259). -/
def xOp (w : Word) : Nat := bitsOf w.toNat 19 6

/-- The handles of an X word, with their selectors (R259). -/
def xHandles (w : Word) (a b : Dword) : List (Nat × Dword) :=
  match xOp w with
  | 1 => [(1, a), (2, b)]
  | 2 => [(1, a)]
  | 3 => [(1, a)]
  | _ => []

/-- Memory of the strand's own zone (R260). -/
def inOwnZone (s : State) (b pa : Nat) : Bool :=
  decide (paPkg pa = s.dev.pkg) &&
    (match placeOf (paLocal pa) with
     | .spad c _ => decide (c / 128 = bankStack b)
     | .sram z _ => decide (z = bankStack b)
     | .dram c _ => decide (c / 128 = bankStack b)
     | _ => false)

/-- Memory that messages and record images use: the own row's scratchpad, and the own stack's SRAM (R157, R263, R264). -/
def inRowOrSram (s : State) (b pa : Nat) : Bool :=
  inOwnRow s b pa || (decide (paPkg pa = s.dev.pkg) && (match placeOf (paLocal pa) with | .sram z _ => decide (z = bankStack b) | _ => false))

/-- The address checks of a record's lines (R261, R263, R264). -/
def linesFail (s : State) (c : Ctx) (sel : Nat) (wr : Bool) (place : Nat → Bool) (r : ShapeImg) : Option Fail :=
  (recLines r).findSome? (fun l =>
    spanFail s c { sel := sel, rd := !wr, wr := wr } false (fun pa => need (place pa) (Fail.of 0x05 sel (64 * l))) 1 (64 * l) 64)

/-- The dims of a record with the first two exchanged where asked. -/
def dimsOf (r : ShapeImg) (swap : Bool) : List Nat :=
  if swap then [recExt r 1, recExt r 0, recExt r 2, recExt r 3] else [recExt r 0, recExt r 1, recExt r 2, recExt r 3]

/-- The two records of a copy suit each other (R260). -/
def copyOk (src dst : ShapeImg) (swap : Bool) : Bool :=
  decide (recFmt src = recFmt dst) && decide (recRank src = recRank dst) && decide (dimsOf src swap = dimsOf dst false) &&
    (!fmtHeader (recFmt src) || (!swap && decide (recLayout src = recLayout dst)))

/-- A destination in creel order names one cell (R260). -/
def oneCell (r : ShapeImg) : Bool := decide (recLayout r ≠ 1) || (decide (recNrow r = 1) && decide (recNcol r = 1) && decide (recNst r = 1))

/-- The cell that a record with a range of one cell names in the strand's stack, if its group has it there (R260). -/
def recCell (s : State) (b : Nat) (r : ShapeImg) : Option Nat :=
  let g := bankGroup s b
  if recSt0 r = (strandOf s b).gstack ∧ recRow0 r < g.rR then some (8 * (bankStack b * 16 + placeRow g 0 (recRow0 r) % 16) + recCol0 r) else none

/-- The compute-capable check of a creel-order destination (R167, R260). -/
def creelDestFail (s : State) (c : Ctx) (r : ShapeImg) : Option Fail :=
  if recLayout r ≠ 1 then none
  else
    (recLines r).findSome? (fun l =>
      let ok := (match lookup c.tbl (64 * l) with
        | some e => weX e && (match placeOf (paLocal (physOf e (64 * l))) with
            | .dram k _ => decide (baseLinear ≤ paLocal (physOf e (64 * l))) && decide (some k = recCell s c.bank r)
            | _ => false)
        | none => false)
      need ok (Fail.of 0x1B 2 (64 * l)))

/-- A line of DRAM that performs in its cell's refresh slot (R261). -/
def lineSlots (s : State) (c : Ctx) (sel t0 : Nat) (r : ShapeImg) : Option Fail :=
  ((recLines r).zip (List.range (recLines r).length)).findSome? (fun e =>
    slotFail s c ((translate c (64 * e.1)).getD 0) (t0 + e.2) sel (64 * e.1))

/-- The checks of `xcopy` behind its handles (R260, R261): the form of each record and of the control word, the addresses of each, then what is
between the two (R65). -/
def xcopyFail (s : State) (c : Ctx) : Option Fail :=
  let src := rec0 c
  let dst := rec1 c
  let t := c.pkc + 2
  let ls := (recLines src).length
  match firstFail [
      need (inGroup s c.bank src) (Fail.of 0x0D 1 c.ra.toNat),
      need (oneCell dst && inGroup s c.bank dst) (Fail.of 0x0D 2 c.rb.toNat),
      need (decide (c.rc.toNat < 2)) (Fail.of 0x0D 3 0)] with
  | some f => some f
  | none => firstFail [
        linesFail s c 1 false (inOwnZone s c.bank) src,
        linesFail s c 2 true (inOwnZone s c.bank) dst,
        need (copyOk src dst (bitOf c.rc.toNat 0)) (Fail.of 0x0D 3 0),
        need (decide (ls ≤ 256) && decide ((recLines dst).length ≤ 256)) (Fail.of 0x0D 3 0),
        creelDestFail s c dst,
        lineSlots s c 1 (t + 2) src,
        lineSlots s c 2 (t + 3 + ls) dst]

/-- The checks of `xsend` behind its handle (R263). -/
def xsendFail (s : State) (c : Ctx) : Option Fail :=
  let x := c.rb.toNat
  let g := bankGroup s c.bank
  match need (decide ((recLines (rec0 c)).length ≤ 64) && inGroup s c.bank (rec0 c)) (Fail.of 0x0D 1 c.ra.toNat) with
  | some f => some f
  | none => firstFail [
      linesFail s c 1 false (inRowOrSram s c.bank) (rec0 c),
      need (decide (bitsOf x 15 49 = 0) && decide (bitsOf x 3 5 = 0) && decide (bitsOf x 12 3 < g.rS) && decide (bitsOf x 8 4 < g.rR)) (Fail.of 0x05 2 0)]

/-- The checks of `xrecv` behind its handle (R264). -/
def xrecvFail (s : State) (c : Ctx) : Option Fail :=
  firstFail [need (inGroup s c.bank (rec0 c)) (Fail.of 0x0D 1 c.ra.toNat), need (decide (c.rc.toNat < 8)) (Fail.of 0x0D 3 0), linesFail s c 1 true (inRowOrSram s c.bank) (rec0 c)]

/-- A card's reserved bits are zero and its fields in range (R266, R268, R269). -/
def cardForm (k : BitVec 1024) : Bool :=
  let x := k.toNat
  let kind := cardKind k
  let prm := cardParam k
  let regions := cardReads k ++ cardWrites k
  decide (bitsOf x 60 4 = 0) && decide (bitsOf x 31 1 = 0) && decide (bitsOf x 104 24 = 0) &&
    (List.range 4).all (fun i => decide (bitsOf (cardNat k (64 + 6 * i) 6) 46 2 = 0) && decide (bitsOf (cardNat k (88 + 6 * i) 6) 46 2 = 0)) &&
    decide (1 ≤ kind) && decide (kind ≤ 7) && decide (1 ≤ cardScope k) && decide (cardScope k ≤ 12) && decide (cardNtok k ≤ 8) &&
    decide (cardNrd k ≤ 4) && decide (cardNwr k ≤ 4) &&
    (List.range 8).all (fun i => decide (cardDisp k i ≠ 3) && (decide (i < cardNtok k) || decide (cardTok k i = 0))) &&
    regions.all (fun r => decide (12 ≤ r.2) && decide (r.2 ≤ 36) && decide (r.1 % 2 ^ r.2 = 0)) &&
    (if kind = 4 ∨ kind = 5 then decide (bitsOf prm 20 4 = 0) && decide (bitsOf prm 16 4 ≤ 2) else decide (prm = 0))

/-- The records of a card suit its kind (R259, R267, R269). -/
def cardRecords (k : BitVec 1024) (src dst : ShapeImg) : Bool :=
  match cardKind k with
  | 1 => copyOk src dst false && oneCell dst
  | 2 => decide (recFmt src = recFmt dst) && decide (recExt src 0 = recExt dst 0) && decide (recIdx src ≠ 0)
  | 3 => decide (recFmt src = recFmt dst) && decide (recExt src 0 = recExt dst 0) && decide (recIdx dst ≠ 0)
  | 6 => copyOk src dst true && decide (recLayout dst = 1) && oneCell dst
  | _ => decide (recFmt src = recFmt dst)

/-- The X words of a row on their way to their engine that submit a card. -/
def submitting (e : Timed) : Bool :=
  match e.pay with
  | .word w => decide (wordEng w = 3) && (decide (xOp w = 4) || decide (xOp w = 5))
  | _ => false

/-- The queue from which a job comes, with its `life`: its kernel's, or that of its JOB packet, whose number stands behind 128 in the place of a
row. -/
def jobQueue (s : State) (j : Job) : Nat × Nat := if j.kern = 0 then (j.row - 128, j.qlife) else ((kernelOf s j.kern).queue, (kernelOf s j.kern).qlife)

/-- The job slots in use, or about to be, of those whose kernel, queue and context `p` accepts (R302). -/
def jobUse (s : State) (p : Nat → Nat × Nat → Nat → Bool) : Nat :=
  (s.jobs.filter (fun e => p e.2.kern (jobQueue s e.2) e.2.ctx)).length +
    (s.agenda.filter (fun e => submitting e &&
      (let k := (groupOf s e.ctx.grp).kern; p k ((kernelOf s k).queue, (kernelOf s k).qlife) (kernelOf s k).ctx))).length

/-- The `jobs` budgets of a queue, whose limits are `lim`, and of its context have room for one job more (R302). -/
def jobRoom (s : State) (q : Nat × Nat) (lim : Budget) (c : Nat) : Bool :=
  decide (jobUse s (fun _ x y => x == q && y == c) < lim.jobs) && decide (jobUse s (fun _ _ y => y == c) < (contextOf s c).bud.jobs)

/-- A job slot is free for the group (R268, R302): in the budgets of its subtrees, and in its scheduler. -/
def jobSlotFree (s : State) (b : Nat) (k : BitVec 1024) : Bool :=
  let sched := cardSched k (bankStack b)
  let n := (bankGroup s b).kern
  let kn := kernelOf s n
  let used := (s.jobs.filter (fun e => decide (e.1 / 64 = sched))).length +
    (s.agenda.filter (fun e => submitting e && decide (cardSched (cardOf e.ctx) (bankStack e.ctx.bank) = sched))).length
  decide (jobUse s (fun x _ _ => x == n) < kn.bud.jobs) && jobRoom s (kn.queue, kn.qlife) kn.qbud kn.ctx && decide (used < 64)

/-- The row's follow-on queue has a free entry of its four: those of jobs to come count (R268). -/
def followFree (s : State) (b : Nat) : Bool :=
  let r := bankRow b
  decide ((rowOf s r).foq.length + (s.jobs.filter (fun e => decide (e.2.row = r) && cardFo e.2.card)).length +
    (s.agenda.filter (fun e => submitting e && decide (bankRow e.ctx.bank = r) && cardFo (cardOf e.ctx))).length < 4)

/-- A carried token (R268): held own, or as a share that covers only read regions. -/
def carriedFail (s : State) (b : Nat) (k : BitVec 1024) (i : Nat) : Option Fail :=
  let id := cardTok k i
  if !tokCurrent s id then some (Fail.of 0x0C 11 id)
  else
    match heldEntry (strandOf s b).held id with
    | none => some (Fail.of 0x06 11 id)
    | some h =>
      if h.leaving then some (Fail.of 0x06 11 id)
      else match h.mode with
        | .own => none
        | .lentOut => some (Fail.of 0x06 11 id)
        | .share =>
          if (cardWrites k).any (regionsMeet (globalOf s h.base, h.size)) then some (Fail.of 0x06 11 id)
          else need (decide (cardDisp k i = 0)) (Fail.of 0x0D 1 id)

/-- The card at an address, as it stands (R268). -/
def readCard (s : State) (c : Ctx) : BitVec 1024 := BitVec.ofNat 1024 (readVaNat s c c.ra.toNat 128)

/-- The checks of a submission (R268), in the order of its table; the card comes with its context. -/
def xjobFail (s : State) (c : Ctx) (fo timed : Bool) : Option Fail :=
  let b := c.bank
  let va := c.ra.toNat
  match spanFail s c { sel := 1, rd := true } (decide (va % 128 ≠ 0))
      (fun pa => need (decide (paPkg pa = s.dev.pkg) && (match placeOf (paLocal pa) with | .sram z _ => decide (z = bankStack b) | _ => false)) (Fail.of 0x05 1 va))
      1 va 128 with
  | some f => some f
  | none =>
    let k := readCard s c
    let src := handleRec s (bankStack b) (strandOf s b).grp (BitVec.ofNat 64 (cardSrc k))
    let dst := handleRec s (bankStack b) (strandOf s b).grp (BitVec.ofNat 64 (cardDst k))
    let fw : Word := BitVec.ofNat 32 (cardFoword k)
    let fhs := mHandles fw (BitVec.ofNat 64 (cardFoa k)) (BitVec.ofNat 64 (cardFob k))
    let fctx : Ctx := { c with word := fw, ra := BitVec.ofNat 64 (cardFoa k), rb := BitVec.ofNat 64 (cardFob k), recs := handleImgs s b fhs }
    match firstFail [
        need (cardForm k) (Fail.of 0x0D 1 va),
        need (decide (cardKind k ≠ 7)) (Fail.of 0x05 1 va),
        need src.isSome (Fail.of 0x0C 1 (cardSrc k)),
        need dst.isSome (Fail.of 0x0C 1 (cardDst k)),
        need (cardRecords k (src.getD 0) (dst.getD 0) && inGroup s b (src.getD 0) && inGroup s b (dst.getD 0)) (Fail.of 0x0D 1 va),
        need (cardFo k == fo) (Fail.of 0x0D 1 va)] with
    | some f => some f
    | none =>
      match (if fo then firstFail [
            need (match decode fw with | .ok _ => decide (wordEng fw = 2) | .error _ => false) (Fail.of 0x01 1 va),
            (handlesFail s b fhs).map (fun f => { f with sel := 1 }),
            (match decode fw with
             | .ok _ => (mFormFail s fw fctx).map (fun f => { f with sel := 1 })
             | .error _ => none),
            need (followFree s b) (Fail.of 0x08 1 va)]
          else none) with
      | some f => some f
      | none =>
        match (List.range (cardNtok k)).findSome? (carriedFail s b k) with
        | some f => some f
        | none => need (jobSlotFree s b k) { Fail.of 0x08 1 va with wait := !timed }

/-- The records that an X word captures: its handles' records, and for a submission those of its card, the card's two halves and the
follow-on word's records (R153, R266). -/
def xImgs (s : State) (w : Word) (c : Ctx) : List ShapeImg :=
  if xOp w = 4 ∨ xOp w = 5 then
    let k := readCard s c
    let b := c.bank
    let img (h : Nat) : ShapeImg := (handleRec s (bankStack b) (strandOf s b).grp (BitVec.ofNat 64 h)).getD 0
    let fw : Word := BitVec.ofNat 32 (cardFoword k)
    [img (cardSrc k), img (cardDst k), BitVec.ofNat 512 k.toNat, BitVec.ofNat 512 (k.toNat / 2 ^ 512)] ++
      (if cardFo k then handleImgs s b (mHandles fw (BitVec.ofNat 64 (cardFoa k)) (BitVec.ofNat 64 (cardFob k))) else [])
  else handleImgs s c.bank (xHandles w c.ra c.rb)

/-- The kc and the class at which each covered event of an X word performs first (R251): its accesses, for a receive if its message is there at
once, and for a submission its issue, in its card's class. DEDUCED: log entry 123. -/
def xEvents (s : State) (w : Word) (c : Ctx) : List (Nat × Nat) :=
  let t := c.pkc + 2
  match xOp w with
  | 3 => [(t + 2, bitsOf w.toNat 0 4)]
  | 4 => [(t, cardCls (readCard s c))]
  | 5 => [(t, cardCls (readCard s c))]
  | _ => (xPlan w c t).map (fun a => (a.at_, a.cls))

/-- Every check of an X word behind its handles (R65). -/
def xFail (s : State) (w : Word) (c : Ctx) (timed : Bool) : Option Fail :=
  let own := match xOp w with
    | 1 => xcopyFail s c
    | 2 => xsendFail s c
    | 3 => xrecvFail s c
    | 4 => xjobFail s c false timed
    | _ => xjobFail s c true timed
  match own with
  | some f => some f
  | none => (xEvents s w c).findSome? (fun e => orderFail s c timed e.1 e.2)

/-- The kc from which the X engine takes another word (R261, R263, R264). R264 gives the hold of an `xrecv` in timed mode only: in loose and
safelight modes the word occupies the engine for its issue kc, as its strand waits. DEDUCED: log entry 145. -/
def xBusyUntil (w : Word) (c : Ctx) (timed : Bool) : Nat :=
  let t := c.pkc + 2
  match xOp w with
  | 1 => t + 3 + (recLines (rec0 c)).length + (recLines (rec1 c)).length
  | 2 => t + 2 + (recLines (rec0 c)).length
  | 3 => if timed then t + c.rb.toNat % 2 ^ 32 + (recLines (rec0 c)).length + 2 else t + 1
  | _ => t + 1

/-- The entries that a submission carries are leaving from its packet's issue on, the placement token's apart (R268). -/
def carryLeaving (s : State) (w : Word) (c : Ctx) : State :=
  if xOp w = 4 ∨ xOp w = 5 then
    let k := cardOf c
    let ids := (List.range (cardNtok k)).map (cardTok k)
    let t := strandOf s c.bank
    setStrand s c.bank { t with held := t.held.map (fun h => if ids.contains h.id && !h.spad then { h with leaving := true } else h) }
  else s

end Sys2Proof.Machine
end

