-- ==== Sys2Proof/Machine/ValidateS.lean ====
section
/-! DEFINITION. The checks of S words: token words (R219, R223, R227 to R236), barrier words (R347, R352, R354), `realign` (R344), and
the slot words (R157, R158). -/

namespace Sys2Proof.Machine

/-- A token fault: it names selector 11 and the token (R224). -/
def tokFail (cause id : Nat) : Fail := Fail.of cause 11 id

/-- The id is stale (R219). -/
def staleToken (s : State) (id : Nat) : Option Fail := need (tokCurrent s id) (tokFail 0x0C id)

/-- Entries that words in flight will add to a strand's set. -/
def entriesComing (s : State) (b : Nat) : Nat :=
  (s.agenda.filter (fun e => decide (e.ctx.bank = b) &&
    (match e.pay with
     | .ev (.tktakeTimeout _ _) => true
     | .ev (.resultLand l) => (match l.kind with
         | .tkTaken _ _ => true | .tkSplit _ _ _ => true | .tkMint _ _ => true | .tkMintNew _ _ => true | _ => false)
     | _ => false))).length +
  ((strandOf s b).wait.filter (fun w => match w with | .take _ _ => true | _ => false)).length

/-- A free entry of the strand's set of 16 (R222, R231). -/
def setFree (s : State) (b : Nat) : Bool := decide ((strandOf s b).held.length + entriesComing s b < 16)

/-- The checks of `tklend`, `tklend.pass` and `tkshare` (R229, R230). -/
def lendFail (s : State) (c : Ctx) (share : Bool) : Option Fail :=
  let id := c.ra.toNat % 2 ^ 32
  let tgt := c.rb.toNat % 2 ^ 32
  let t := tokenOf s (tokKey s id)
  match staleToken s id with
  | some f => some f
  | none =>
    match heldEntry (strandOf s c.bank).held id with
    | none => some (tokFail 0x06 id)
    | some h => firstFail [
        need (h.mode == .own && !h.leaving) (tokFail 0x06 id),
        need (!h.spad && decide (agKind tgt ≠ 1) && decide (agKind tgt < 4)) (tokFail 0x05 id),
        need (!(decide (agKind tgt = 0) || decide (agKind tgt = 2)) || decide (agCtx tgt = t.ctx)) (tokFail 0x05 id),
        need (if share then decide (t.shares < 4095) else decide (t.shares = 0)) (tokFail (if share then 0x08 else 0x07) id)]

/-- The checks of a take (R231). -/
def takeFail (s : State) (c : Ctx) : Option Fail :=
  let id := c.ra.toNat % 2 ^ 32
  firstFail [staleToken s id, need (setFree s c.bank) (tokFail 0x08 id)]

/-- The checks of `tkret` (R232). -/
def retFail (s : State) (c : Ctx) : Option Fail :=
  let id := c.ra.toNat % 2 ^ 32
  firstFail [staleToken s id,
    need (match heldEntry (strandOf s c.bank).held id with
      | some h => h.mode == .own && !h.leaving && !h.spad && (tokenOf s (tokKey s id)).st == .lent
      | none => false) (tokFail 0x05 id)]

/-- The checks of `tkret.sh` (R232). -/
def retShFail (s : State) (c : Ctx) : Option Fail :=
  let id := c.ra.toNat % 2 ^ 32
  firstFail [staleToken s id, need ((strandOf s c.bank).held.any (fun h => decide (h.id = id) && h.mode == .share && !h.leaving)) (tokFail 0x05 id)]

/-- The token is held own, is owned, and has no share and no lender (R233); it is homed here, where its entry's pool is. DEDUCED: log entry 15. -/
def wholly (s : State) (b id : Nat) : Bool :=
  let t := tokenOf s (tokKey s id)
  (match heldEntry (strandOf s b).held id with | some h => h.mode == .own && !h.leaving && !h.spad | none => false) &&
    decide (tokHome id = s.dev.pkg) && t.st == .owned && decide (t.shares = 0) && decide (t.lender = noAgent)

/-- The splits of a group in a stack that have not landed: each takes an entry of the pool. -/
def splitsComing (s : State) (g z : Nat) : Nat :=
  (s.agenda.filter (fun e => decide (e.ctx.grp = g) && decide (bankStack e.ctx.bank = z) &&
    (match e.pay with | .ev (.resultLand l) => (match l.kind with | .tkSplit _ _ _ => true | _ => false) | _ => false))).length

/-- The checks of `tksplit` (R233). -/
def splitFail (s : State) (c : Ctx) : Option Fail :=
  let id := c.ra.toNat % 2 ^ 32
  let g := (strandOf s c.bank).grp
  let z := bankStack c.bank
  firstFail [staleToken s id,
    need (wholly s c.bank id && decide (13 ≤ (tokenOf s (tokKey s id)).size)) (tokFail 0x05 id),
    need (setFree s c.bank && anyFree s && decide (splitsComing s g z < (stackOf s z).pool.getD g 0)) (tokFail 0x08 id)]

/-- The checks of `tkjoin` (R233). -/
def joinFail (s : State) (c : Ctx) : Option Fail :=
  let lo := c.ra.toNat % 2 ^ 32
  let up := c.rb.toNat % 2 ^ 32
  let x := tokenOf s (tokKey s lo)
  let y := tokenOf s (tokKey s up)
  firstFail [staleToken s lo, staleToken s up,
    need (wholly s c.bank lo && wholly s c.bank up && decide (x.size = y.size) && decide (x.base % 2 ^ (x.size + 1) = 0) &&
      decide (y.base = x.base + 2 ^ x.size) && decide (x.size + 1 ≤ 36)) (tokFail 0x05 lo)]

/-- The checks of a `tkqry` form (R228, R234). -/
def queryFail (s : State) (c : Ctx) (scope : Nat) (timed : Bool) : Option Fail :=
  let id := c.ra.toNat % 2 ^ 32
  firstFail [staleToken s id, need (!timed || decide (scope = 4)) (tokFail 0x16 id)]

/-- The checks of `tkmint` (R228, R236): the caller is the recovery strand of the token's context. -/
def mintFail (s : State) (c : Ctx) (timed : Bool) : Option Fail :=
  let id := c.ra.toNat % 2 ^ 32
  let t := tokenOf s (tokKey s id)
  firstFail [staleToken s id, need (!timed) (tokFail 0x16 id),
    need (isRecovery s c.bank && decide (t.ctx = (bankGroup s c.bank).ctx) && decide (tokHome id = s.dev.pkg)) (tokFail 0x05 id),
    need (t.st == .lost || t.st == .orphaned) (tokFail 0x05 id),
    need (setFree s c.bank) (tokFail 0x08 id)]

/-- The checks of `tkmint.new` (R228, R236). -/
def mintNewFail (s : State) (c : Ctx) (timed : Bool) : Option Fail :=
  firstFail [need (!timed) (tokFail 0x16 0), need (isRecovery s c.bank) (tokFail 0x05 0), need (regionOf s c.ra).isSome (tokFail 0x05 0),
    need (setFree s c.bank && anyFree s && tokRoom s (bankGroup s c.bank).ctx) (tokFail 0x08 0)]

/-- A barrier fault: it names selector 12 and the value that names the barrier (R352). -/
def barFail (cause : Nat) (c : Ctx) : Fail := Fail.of cause 12 c.ra.toNat

/-- A barrier value names a barrier, and the bits above `top` are zero (R347). -/
def barNamed (c : Ctx) (top : Nat) : Bool := decide (barIndex c.ra ≠ 0) && decide (c.ra.toNat < 2 ^ top)

/-- A kernel's barriers (R302, R353): armed, or with their arming on its way. -/
def barsOf (s : State) (k : Nat) : Nat :=
  (s.barriers.filter (fun e => decide (e.2.state ≠ 0) && decide (e.2.kern = k))).length +
    (s.agenda.filter (fun e => match e.pay with | .ev (.barmArrival m) => !m.free && decide (m.kern = k) | _ => false)).length

/-- The checks of `barm` (R352): its control word first (R65). -/
def barmFail (s : State) (c : Ctx) : Option Fail :=
  let m := mirrorOf s (bankStack c.bank) (barIndex c.ra)
  firstFail [
    need (decide (bitsOf c.rb.toNat 0 16 ≠ 0) && decide (bitsOf c.rb.toNat 56 8 = 0)) (Fail.of 0x0D 2 0),
    need (barNamed c 35) (barFail 0x05 c),
    need (decide (m.state = 0)) (barFail 0x05 c),
    need (budgetRoom s (bankGroup s c.bank).kern (fun x => x.bar) (barsOf s) 1) (barFail 0x08 c)]

/-- The checks of `barm.free` (R352). -/
def barmFreeFail (s : State) (c : Ctx) : Option Fail :=
  let m := mirrorOf s (bankStack c.bank) (barIndex c.ra)
  firstFail [need (barNamed c 12) (barFail 0x05 c),
    need (decide (m.state = 0) || decide (m.ctx = (bankGroup s c.bank).ctx)) (barFail 0x05 c)]

/-- The checks of `barr`, `barr.q` and `bwait` (R349, R352). -/
def barUseFail (s : State) (c : Ctx) (scope : Nat) (far : Bool) : Option Fail :=
  let m := mirrorOf s (bankStack c.bank) (barIndex c.ra)
  if !barNamed c 16 then some (barFail 0x05 c)
  else if barPkg c.ra ≠ s.dev.pkg then firstFail [need (decide (9 ≤ scope)) (barFail 0x05 c), need (!far) (barFail 0x16 c)]
  else need (decide (m.state ≠ 0) && decide (m.state ≠ 4) && decide (m.ctx = (bankGroup s c.bank).ctx)) (barFail 0x05 c)

/-- The checks of `realign` (R344). -/
def realignFail (s : State) (c : Ctx) (scope : Nat) : Option Fail :=
  let g := bankGroup s c.bank
  firstFail [
    need ((List.range g.rS).all (fun i => scopeHas s scope (bankSpot s c.bank) { bankSpot s c.bank with z := g.stack0 + i })) (Fail.of 0x05 0 0),
    need (decide (c.pkc + 1 < c.ra.toNat)) (Fail.of 0x0D 1 0),
    need (strandOf s c.bank).realign.isNone (Fail.of 0x0D 1 0)]

/-- The checks of `srdef` (R157), whose access is of class 0 and performs at t + 3 (R245, R251). -/
def srdefFail (s : State) (c : Ctx) (timed : Bool) : Option Fail :=
  let va := c.ra.toNat
  firstFail [
    spanFail s c { sel := 1, rd := true } (decide (va % 64 ≠ 0)) (fun pa => need (inRowOrSram s c.bank pa) (Fail.of 0x05 1 va)) 2 va 64,
    need (decide (c.rb.toNat % 4096 < partSize s (bankStack c.bank) (strandOf s c.bank).grp)) (Fail.of 0x08 2 0),
    orderFail s c timed (c.pkc + 4) 0]

/-- Every check of an S word behind its engine's acceptance (R65). `tkshare.rv` asks no more of its caller than a current token (R230). DEDUCED:
log entry 127. -/
def sFail (s : State) (c : Ctx) (timed : Bool) (i : Instr) : Option Fail :=
  match i with
  | .tklend _ _ _ _ => lendFail s c false
  | .tklendPass _ _ _ _ => lendFail s c false
  | .tkshare _ _ _ _ => lendFail s c true
  | .tkshareRv _ _ _ _ => staleToken s (c.ra.toNat % 2 ^ 32)
  | .tktake _ _ _ _ => takeFail s c
  | .tktakeSh _ _ _ _ => takeFail s c
  | .tkret _ _ _ => retFail s c
  | .tkretSh _ _ _ => retShFail s c
  | .tksplit _ _ _ => splitFail s c
  | .tkjoin _ _ _ => joinFail s c
  | .tkqry _ _ _ k => queryFail s c k.toNat timed
  | .tkqryBase _ _ _ k => queryFail s c k.toNat timed
  | .tkqryAg _ _ _ k => queryFail s c k.toNat timed
  | .tkmint _ _ _ => mintFail s c timed
  | .tkmintNew _ _ _ => mintNewFail s c timed
  | .barm _ _ _ => barmFail s c
  | .barmFree _ _ => barmFreeFail s c
  | .barr _ _ k => barUseFail s c k.toNat false
  | .barrQ _ _ _ k => barUseFail s c k.toNat timed
  | .bwait _ _ _ k =>
    firstFail [need (decide (bitsOf c.rb.toNat 33 31 = 0)) (Fail.of 0x0D 2 0), barUseFail s c k.toNat timed]
  | .realign _ _ _ k => realignFail s c k.toNat
  | .srdef _ _ _ => srdefFail s c timed
  | .srkill _ _ => need (handleRec s (bankStack c.bank) (strandOf s c.bank).grp c.ra).isSome (Fail.of 0x0C 1 c.ra.toNat)
  | _ => none

/-- An S word that is not local, in loose and safelight modes (R228): its result is waited for by the packet that reads it (R63). -/
def sIsFar (timed : Bool) (i : Instr) : Bool :=
  match i with
  | .tkqry _ _ _ k => !timed && decide (k.toNat ≠ 4)
  | .tkqryBase _ _ _ k => !timed && decide (k.toNat ≠ 4)
  | .tkqryAg _ _ _ k => !timed && decide (k.toNat ≠ 4)
  | .tkmint _ _ _ => true
  | .tkmintNew _ _ _ => true
  | _ => false


end Sys2Proof.Machine
end

