-- ==== Sys2Proof/Machine/Issue.lean ====
section
/-! DEFINITION. PACKET_HEADER: a packet issues (R57 to R65, R68, R101, R123, R371). It is fetched at `cp`, validated as a whole, and its
words go to their engines; or it faults, or waits. -/

namespace Sys2Proof.Machine

/-- What validation makes of a packet (R65). -/
inductive Verdict where
  /-- The packet faults: the failing word's context, and the check that fails. -/
  | fault (c : Ctx) (f : Fail)
  /-- The packet waits at issue, in loose and safelight modes. -/
  | hold
  /-- The packet issues: its words that are not guarded off, with their contexts. -/
  | go (ws : List (PWord × Ctx))
  deriving DecidableEq, Repr

/-- The dispatch delay of an engine (R56). -/
def engDelay (e : Nat) : Nat :=
  match e with
  | 0 => 0 | 4 => 1 | 3 => 2 | 1 => 3 | _ => 4

/-- The context of a packet at `cp`, with `n` words behind its header, that would issue now. -/
def packetCtx (s : State) (b hdr n : Nat) : Ctx :=
  let t := strandOf s b
  let c : Ctx := { Ctx.none with bank := b, grp := t.grp, hand := t.trap }
  { c with pkc := timeOf s (ctxClk c), hdr := hdr, waddr := hdr, word := BitVec.ofNat 32 (imageWord s (bankStack b) (bankGroup s b).kern hdr),
           nxt := hdr + 4 * (1 + n), preds := predsOf t, vrm := t.vrm, seed := t.seed, serial := t.serial, ftz := t.vftz, tol := t.cktol,
           tbl := bankTable s b }

/-- A vector narrowing word that SRH rounds takes a serial (R45). -/
def takesSerial (c : Ctx) (i : Instr) : Bool :=
  decide (c.vrm = 4) &&
    (match i with
     | .vcvtBf16F32 _ _ _ _ _ => true
     | .vcvtE4m3F32 _ _ _ _ _ => true
     | .vcvtF32I32 _ _ _ _ => true
     | .vcvtI32F32 _ _ _ _ => true
     | .vqntE2m1 _ _ _ _ _ => true
     | _ => false)

/-- The word writes `vseed` (R47, R108). -/
def writesSeed (i : Instr) : Bool :=
  match i with
  | .csrw _ _ k => decide (k = 0x013)
  | .csrs _ _ k => decide (k = 0x013)
  | .csrc _ _ k => decide (k = 0x013)
  | _ => false

/-- The context of a word of a packet (R63): its registers as they read at issue, and the serials that words before it take (R45). -/
def wordCtx (s : State) (c : Ctx) (taken : Nat) (p : PWord) : Ctx :=
  let t := strandOf s c.bank
  let rs := wordReads p.word
  let val (k : Nat) : Dword := match rs.find? (fun x => decide (x.1 = k)) with | some x => sreg t x.2 | none => 0
  { c with waddr := p.addr, word := p.word, ra := val 1, rb := val 2, rc := val 3, rd := val 3, pre := p.pre, unit := p.unit,
           serial := c.serial + BitVec.ofNat 32 taken, arg := c.pkc + engDelay (wordEng p.word) }

/-- The checks of a word behind guard, registers, acceptance and power, by its engine: its context with what it captures, or the check that
fails (R65). -/
def engineChecks (s : State) (c : Ctx) (p : PWord) (timed : Bool) : Ctx × Option Fail :=
  let w := p.word
  let order (kc : Nat) : Option Fail := orderFail s c timed kc 0
  match wordEng w with
  | 0 => ({ c with unit := if cIsFar s c p.ins then 1 else 0 }, cFail s c timed p.ins)
  | 1 => (c, vFail s c timed p.ins)
  | 2 =>
    (match handlesFail s c.bank (mHandles w c.ra c.rb) with
     | some f => (c, some f)
     | none => let c1 := { c with recs := handleImgs s c.bank (mHandles w c.ra c.rb) }
               (c1, mFail s w c1 (c.pkc + 4) order))
  | 3 =>
    (match handlesFail s c.bank (xHandles w c.ra c.rb) with
     | some f => (c, some f)
     | none =>
       let c1 := { c with recs := handleImgs s c.bank (xHandles w c.ra c.rb) }
       (match xFail s w c1 timed with
        | some f => (c1, some f)
        | none => ({ c1 with recs := xImgs s w c1 }, none)))
  | 4 => ({ c with unit := if sIsFar timed p.ins then 1 else 0 }, sFail s c timed p.ins)
  | _ =>
    (match handlesFail s c.bank (bHandles w c.ra c.rb c.rd) with
     | some f => (c, some f)
     | none => let c1 := { c with recs := bImgs w (handleImgs s c.bank (bHandles w c.ra c.rb c.rd)) }
               (c1, bFail s w c1 (c.pkc + 4) order))

/-- Every check of a word (R65 stage 2): the guard, the registers that it reads, its engine's acceptance and power, then its own. The
guard's result comes first: a word guarded off has no further check. The registers' parity (R371) stands between the guard and the engine's
acceptance. DEDUCED: log entry 109. -/
def wordChecks (s : State) (c : Ctx) (p : PWord) (timed : Bool) : Bool × Ctx × Option Fail :=
  let g := wordGuard p.word
  if g ≠ 0 ∧ predPending s c g then (true, c, some (Fail.hold 0x11 6 timed))
  else if g ≠ 0 ∧ !c.preds.getLsbD g then (false, c, none)
  else
    match firstFail [
        parityFail s c.bank p.word,
        (if !timed && (wordReads p.word).any (fun x => decide (x.2 ≠ 0) && (farPending s c).contains x.2) then some (Fail.hold 0x11 0 false) else none),
        acceptFail s c p.word timed,
        powerFail s c p.word] with
    | some f => (true, c, some f)
    | none => let r := engineChecks s c p timed; (true, r.1, r.2)

/-- The engine plans of the row with an M or B word taken in (R163, R296). -/
def commitWord (s : State) (c : Ctx) (w : Word) : State :=
  let r := rowOf s (bankRow c.bank)
  match wordEng w with
  | 2 => setRow s (bankRow c.bank) { r with res := mCommit s w c r r.res (mIssueAt s w c r r.res (c.pkc + 4)) }
  | 5 => setRow s (bankRow c.bank) { r with res := bCommit w c r.res c.pkc (bIssueAt w c r.res (c.pkc + 4)) }
  | _ => s

/-- What the checks make of a word: whether its guard lets it run, its context with what it captures, and the check that fails. -/
structure Checked where
  p : PWord
  on : Bool
  ctx : Ctx
  bad : Option Fail
  deriving DecidableEq, Repr

/-- The words of a packet checked one by one (R65 stage 2): each finds the engine plans with the words taken in that passed before it. `taken` counts
serials. -/
def checkWords (s : State) (c : Ctx) (timed : Bool) (taken : Nat) (ps : List PWord) : List Checked :=
  match ps with
  | [] => []
  | p :: rest =>
    let r := wordChecks s (wordCtx s c taken p) p timed
    let passed := r.1 && r.2.2.isNone
    { p := p, on := r.1, ctx := r.2.1, bad := r.2.2 } ::
      checkWords (if passed then commitWord s r.2.1 p.word else s) c timed (if passed && takesSerial r.2.1 p.ins then taken + 1 else taken) rest

/-- The words of a packet with its B word behind its M word, which counts as dispatched before it (R171). -/
def bLast (ps : List PWord) : List PWord := ps.filter (fun p => wordEng p.word != 5) ++ ps.filter (fun p => wordEng p.word == 5)

/-- Of the words that fail, the first in packet order (R65). -/
def firstBad (l : List Checked) : Option Checked :=
  (l.filter (fun x => x.bad.isSome)).foldl (fun m x => match m with
    | none => some x
    | some y => if x.p.addr < y.p.addr then some x else some y) none

/-- The words of a packet checked (R65 stage 2), the B word behind the M word; of words that fail, the first in packet order decides whether the packet
faults or waits. -/
def checkPacket (s : State) (c : Ctx) (timed : Bool) (ps : List PWord) : Verdict :=
  let l := checkWords s c timed 0 (bLast ps)
  match (firstBad l).bind (fun x => x.bad.map (fun f => (x.ctx, f))) with
  | some (cx, f) => if f.wait then .hold else .fault cx f
  | none => .go ((l.filter (fun x => x.on)).map (fun x => (x.p, x.ctx)))

/-- The words that pass, in packet order. -/
def inOrder (ps : List PWord) (out : List (PWord × Ctx)) : List (PWord × Ctx) := ps.filterMap (fun p => out.find? (fun x => decide (x.1.addr = p.addr)))

/-- The first word of a packet that finds no slot in the vertical word path (R123). -/
def pathFail (held : Nat) (ws : List (PWord × Ctx)) : Option Ctx :=
  ((ws.filter (fun x => decide (wordEng x.1.word ≠ 0)))[16 - held]?).map (fun x => x.2)

/-- The packet whose header lies at `hdr`, with `n` words behind it, validated (R65). One that goes past the end of a loop in
progress fails before its words are looked at, and the record names its header (R101). DEDUCED: log entry 111. -/
def validate (s : State) (b hdr n idle : Nat) : Verdict :=
  let c := packetCtx s b hdr n
  let t := strandOf s b
  let timed := runsTimed s b
  let k := bankKernel s b
  if k.csize < c.nxt then .fault { c with word := 0xC0000000 } (Fail.of 0x03 13 (k.code + k.csize))
  else if hdr = 0 ∧ idle ≠ 0 then .fault c (Fail.of 0x01 0 0)
  else if t.loops.any (fun l => decide (hdr < l.stop) && decide (l.stop < c.nxt)) then .fault c (Fail.of 0x01 0 0)
  else
    let ws := packetWords s b hdr n
    match parseWords hdr ws with
    | (_, some i) => .fault { c with waddr := hdr + 4 * (i + 1), word := ws.getD i 0 } (Fail.of 0x01 0 0)
    | (ps, none) =>
      match checkPacket s c timed ps with
      | .go out =>
        (match pathFail (pathHeld s b) (inOrder ps out) with
         | some cx => if timed then .fault cx (Fail.of 0x15 0 0) else .hold
         | none => .go out)
      | v => v

/-- The fault record of a dispatch fault (R356, R358). -/
def dispatchRec (s : State) (c : Ctx) (f : Fail) : FaultRec := mkRec s c f.cause f.sel f.addr f.detail false (decide (f.cause ≠ 0x31))

/-- The packet of bank `b` is due again `d` kc from now. -/
def refetch (s : State) (b d : Nat) : State :=
  let t := strandOf s b
  let c : Ctx := { Ctx.none with bank := b, grp := t.grp, hand := t.trap }
  post s (ctxClk c) (timeOf s (ctxClk c) + d) 1 (bankRow b) 0 c (.fetch b)

/-- A packet that fails has no effect: its strand takes the fault at its issue kc, and `cp` stays at its header (R65, R364). -/
def dispatchFault (s : State) (b : Nat) (c : Ctx) (f : Fail) : State := takeException (refetch s b 0) b (dispatchRec s c f) c.pkc c [] none

/-- A packet waits at issue (R82, R83): it is checked again in the next kc. A handler's packet waits too, and its strand stays trapped. -/
def holdPacket (s : State) (b : Nat) : State :=
  let t := strandOf s b
  if t.trap then refetch s b 1
  else
    let c : Ctx := { Ctx.none with bank := b, grp := t.grp }
    post (setStrand s b { t with st := .waiting, prev := .running, wait := .issue :: t.wait }) (ctxClk c) (timeOf s (ctxClk c) + 1) 0 (bankRow b) 0 c
      (.ev (.looseWaitEnd b))

/-- A register's parity is repaired, with a record (R371). -/
def repairReg (s : State) (b r : Nat) : State :=
  let t := strandOf s b
  logRec (setStrand s b { t with badPar := t.badPar &&& ~~~(1#32 <<< r) }) 7 0 (bankKernel s b).tag (bankGroup s b).ctx r none

/-- A word goes to its engine (R56, R63, R64): C words execute in the packet's kc, S, X and V words `d` kc later, M and B words when they leave
their engine's queue. -/
def sendWord (s : State) (timed : Bool) (p : PWord) (c : Ctx) : State :=
  let r := bankRow c.bank
  let e := wordEng p.word
  let at_ (ph : Nat) (st : State) : State := post st (ctxClk c) (c.pkc + engDelay e) ph r (engineRank e) c (.word p.word)
  let row := rowOf s r
  let queued (t : Nat) : QWord := { word := p.word, ctx := c, clk := ctxClk c, arrive := c.pkc + 4, issueAt := t, win := (groupOf s c.grp).win, job := none, dead := false }
  match e with
  | 0 => at_ 2 s
  | 1 => at_ (match p.ins with | .vpush _ _ _ => 5 | .vpushBal _ _ _ => 5 | _ => 2) s
  | 2 =>
    let t := mIssueAt s p.word c row row.res (c.pkc + 4)
    post (setRow (commitWord s c p.word) r { rowOf (commitWord s c p.word) r with mq := row.mq ++ [queued t] }) (ctxClk c) t 2 r (engineRank e) c
      (.ev (.mQueueIssue r (groupOf s c.grp).win))
  | 3 =>
    let s1 := setRow (carryLeaving s p.word c) r { rowOf (carryLeaving s p.word c) r with xBusy := xBusyUntil p.word c timed }
    let t := strandOf s1 c.bank
    at_ 2 (if xOp p.word = 3 ∧ !timed then setStrand s1 c.bank { t with wait := .receive (recvChan c) :: t.wait } else s1)
  | 4 => at_ 0 s
  | _ =>
    let t := bIssueAt p.word c row.res (c.pkc + 4)
    post (setRow (commitWord s c p.word) r { rowOf (commitWord s c p.word) r with bq := row.bq ++ [queued t] }) (ctxClk c) t 2 r (engineRank e) c
      (.ev (.bQueueIssue r))

/-- A word that enters the row's path while it is draining quietly starts the draining anew (R124). -/
def stirPath (s : State) (b : Nat) (ws : List (PWord × Ctx)) : State :=
  let r := bankRow b
  let x := rowOf s r
  if x.pwr = .drainingQuiet ∧ ws.any (fun w => decide (wordEng w.1.word ≠ 0)) then
    post (setRow s r { x with pwr := .draining, pwrGen := x.pwrGen + 1 }) .hub (s.hkc + 1) 0 0 0 { Ctx.none with arg := r } (.ev .drainingQuiet)
  else s

/-- The word decides by itself where control goes (R62). -/
def steers (i : Instr) : Bool :=
  match i with
  | .br _ _ => true
  | .call _ _ => true
  | .jr _ _ _ => true
  | .loop _ _ => true
  | .loopi _ _ => true
  | .trapEnd _ => true
  | .node0 => true
  | .node1 => true
  | .node2 => true
  | .yield => true
  | .rett => true
  | _ => false

/-- A packet issues (R57 to R64): its registers are repaired, its serials taken, its words sent to their engines, and, unless its C word steers
control, the packet that follows or the loop's back edge is due (R62, R101). The C word learns how many slots of the path were held and
how many serials the packet takes (R89, R123). DESIGN CHOICE: where a word of the packet also writes `vseed`, that write alone decides the serial behind
the packet (log entry 136). -/
def issuePacket (s : State) (b : Nat) (c : Ctx) (ws : List (PWord × Ctx)) : State :=
  let timed := runsTimed s b
  let held := pathHeld s b
  let n := (ws.filter (fun x => takesSerial x.2 x.1.ins)).length
  let seeded := ws.any (fun x => writesSeed x.1.ins)
  let s1 := (ws.flatMap (fun x => parityRepairs s b x.1.word)).foldl (fun st r => repairReg st b r) s
  let t := strandOf s1 b
  let s2 := setStrand s1 b { t with st := if t.trap then .trapped else .running, serial := if seeded then t.serial else t.serial + BitVec.ofNat 32 n }
  let s3 := ws.foldl (fun st x =>
    let cx := if wordEng x.1.word = 0 then { x.2 with serial := BitVec.ofNat 32 held, rb := if seeded then 0 else BitVec.ofNat 64 n } else x.2
    sendWord st timed x.1 cx) (stirPath s2 b ws)
  if ws.any (fun x => steers x.1.ins) then s3
  else
    let x := strandOf s3 b
    let l := loopBack x.loops c.nxt
    goTo (setStrand s3 b { x with loops := l.2 }) c (c.pkc + 1) l.1

/-- PACKET_HEADER (R59, R62, R65): the packet at the strand's `cp`. -/
def execPacketHeader (i : BitVec 8) (n : BitVec 3) (j : BitVec 13) (s : State) : Host.Outcome State Fault Refusal :=
  let b := s.cur.bank
  let hdr := (strandOf s b).cp
  .next (match validate s b hdr n.toNat (i.toNat + 256 * j.toNat) with
    | .fault c f => dispatchFault s b c f
    | .hold => holdPacket s b
    | .go ws => issuePacket s b (packetCtx s b hdr n.toNat) ws)

/-- The packet of bank `b` cannot issue now (R82, R92, R368): its group stands, its bank does not run, its handler waits, or a `rett` waits
for the handler's words. -/
def fetchHeld (s : State) (b : Nat) : Bool :=
  let t := strandOf s b
  let r := rowOf s (bankRow b)
  let stopped := match t.st with | .frozen => true | .bankedOut => true | .halted => true | _ => false
  let back := match decode (BitVec.ofNat 32 (imageWord s (bankStack b) (bankGroup s b).kern (t.cp + 4))) with
    | .ok .rett => true
    | _ => false
  stopped || decide (r.run ≠ b % 2) || decide ((stackOf s (bankStack b)).zkc < r.runFrom) ||
    (t.trap && (!t.wait.isEmpty || (back && handlerBusy s b)))

/-- The strand has no packet to issue any more. -/
def fetchGone (s : State) (b : Nat) : Bool :=
  match (strandOf s b).st with
  | .unloaded => true
  | .done => true
  | .failed => true
  | .yielded => true
  | _ => false

/-- The header at a strand's `cp`, if one lies there within the image (R59, R68). -/
def headerAt (s : State) (b : Nat) : Except Fail Instr :=
  let cp := (strandOf s b).cp
  let k := bankKernel s b
  if k.csize < cp + 4 then .error (Fail.of 0x03 13 (k.code + k.csize))
  else match decode (BitVec.ofNat 32 (imageWord s (bankStack b) (bankGroup s b).kern cp)) with
    | .ok (.packetHeader i n j) => .ok (.packetHeader i n j)
    | _ => .error (Fail.of 0x01 0 0)

/-- The context of a fetch that finds no header: one beyond the image counts as a header (R68). -/
def noHeaderCtx (s : State) (b : Nat) (f : Fail) : Ctx :=
  let c := packetCtx s b (strandOf s b).cp 0
  if f.cause = 0x03 then { c with word := 0xC0000000 } else c

/-- The instruction-memory bytes of the packet at a strand's `cp`: a package-local address and a length. -/
def packetSpan (s : State) (b : Nat) : Nat × Nat :=
  let z := bankStack b
  let t := strandOf s b
  match Sparse.find (stackOf s z).images (bankGroup s b).kern with
  | some im => (imemAddr z (im.base + t.cp), match headerAt s b with | .ok (.packetHeader _ n _) => 4 * (1 + n.toNat) | _ => 4)
  | none => (0, 0)

/-- A line of instruction memory that the packet of bank `b` reads fails its parity (R380, R381). -/
def fetchLame (s : State) (b : Nat) : Bool :=
  let sp := packetSpan s b
  runDead s sp.1 sp.2 || runRebuilds s sp.1 sp.2

/-- The packet of bank `b` is due to issue: it is neither gone nor held, and its strand waits for nothing. -/
def fetchReady (s : State) (b : Nat) : Bool := !fetchGone s b && !fetchHeld s b && (strandOf s b).wait.isEmpty

/-- The fault of the packet that bank `b` would issue now (R65). Its lines of instruction memory must be whole first (R381). -/
def fetchFault (s : State) (b : Nat) : Option (Ctx × Fail) :=
  if !fetchReady s b ∨ fetchLame s b then none
  else match headerAt s b with
    | .error f => some (noHeaderCtx s b f, f)
    | .ok (.packetHeader i n j) =>
      (match validate s b (strandOf s b).cp n.toNat (i.toNat + 256 * j.toNat) with
       | .fault c f => some (c, f)
       | _ => none)
    | .ok _ => none

/-- An interrupt is taken in the place of the packet that bank `b` would issue now, or of the wait of its strand (R370): its lines are whole, and it has
no fault (R357). -/
def fetchInterrupt (s : State) (b : Nat) : Bool :=
  (dueInterrupt (strandOf s b)).isSome && !fetchGone s b && !fetchHeld s b &&
    (!(strandOf s b).wait.isEmpty || (!fetchLame s b && (fetchFault s b).isNone))

/-- The 64 bytes of a code image that stand in a line of instruction memory (R330, R381): their place in the image and the package-local
address from which they come. -/
def imageLine (s : State) (b line : Nat) : Option (Nat × Nat × Nat) :=
  let z := bankStack b
  let k := bankKernel s b
  match Sparse.find (stackOf s z).images (bankGroup s b).kern with
  | none => none
  | some im =>
    let o := 64 * line - imemAddr z im.base
    let n := min 64 (im.size - o)
    (lookup k.table (k.code + o)).map (fun e => (64 * line, paLocal (physOf e (k.code + o)), n))

/-- The lines of instruction memory of a span that parity cannot rebuild are loaded again from the code image (R381); none where a line of the
image is uncorrectable itself. -/
def reloadSpan (s : State) (b : Nat) (sp : Nat × Nat) : Option State :=
  let dead := (runLines sp.1 sp.2).filter (fun l => runDead s (64 * l) 64)
  dead.foldl (fun (st : Option State) l =>
    match st, imageLine s b l with
    | some x, some (a, src, n) => if runDead x src n then none else some (storeBytes (afterRead x src n) a (fetchBytes x src n))
    | x, _ => x) (some s)

/-- The lines that the packet reads are loaded again (R381). -/
def reloadLines (s : State) (b : Nat) : Option State := reloadSpan s b (packetSpan s b)

/-- The bytes of the image that are fetched ahead of a packet's issue (R67): the word behind it. DESIGN CHOICE: log entry 124. -/
def aheadSpan (s : State) (b : Nat) : Nat × Nat :=
  let sp := packetSpan s b
  match Sparse.find (stackOf s (bankStack b)).images (bankGroup s b).kern with
  | some im => if sp.1 + sp.2 + 4 ≤ imemAddr (bankStack b) (im.base + im.size) then (sp.1 + sp.2, 4) else (0, 0)
  | none => (0, 0)

/-- What fetching ahead finds (R67, R381): a line that cannot be rebuilt is loaded again, with a record and no fault, under a freeze with no trap;
where the image's line is uncorrectable too, nothing more happens until a packet of the line issues. -/
def aheadReload (s : State) (b : Nat) : Option State :=
  let sp := aheadSpan s b
  if sp.2 = 0 ∨ !runDead s sp.1 sp.2 then none
  else (reloadSpan s b sp).map (fun t => logRec t 1 1 0 (bankGroup s b).ctx (globalOf s sp.1 + 2 ^ 52) none)

/-- What a fetch comes to: it is done with, or an instruction executes. -/
inductive Fetched where
  | done (s : State)
  | run (i : Instr) (s : State)
  deriving DecidableEq, Repr

/-- The group stands while the recovery engine or the reload acts, and the fetch is due again (R343, R380, R381). -/
def fetchAgain (s : State) (b : Nat) : State :=
  let g := (strandOf s b).grp
  let s1 := refetch s b 0
  if (strandOf s b).trap then s1 else endStop (freezeGroup s1 g (bankStack b) .rebuild) g (bankStack b) .rebuild

/-- A packet of bank `b` is due, and neither faults nor gives way to an interrupt: it is held, waits, has its line rebuilt, or its header executes. -/
def fetchPacket (s : State) (b : Nat) : Fetched :=
  let t := strandOf s b
  if fetchGone s b then .done s
  else if fetchHeld s b then .done (refetch s b 1)
  else if !t.wait.isEmpty then .done (setStrand s b { t with st := .waiting, prev := .running })
  else
    let sp := packetSpan s b
    if runDead s sp.1 sp.2 then
      match reloadLines s b with
      | some s1 => .done (fetchAgain s1 b)
      | none => .done (fatal s t.grp (mkRec s (packetCtx s b t.cp 0) 0x32 0 0 0 false false))
    else if runRebuilds s sp.1 sp.2 then .done (fetchAgain (afterRead s sp.1 sp.2) b)
    else match aheadReload s b with
    | some s1 => .done (fetchAgain s1 b)
    | none =>
    match headerAt s b with
      | .ok i => .run i s
      | .error f => .done (dispatchFault s b (noHeaderCtx s b f) f)

end Sys2Proof.Machine
end

