-- ==== Sys2Proof/Machine/Engines.lean ====
section
/-! DEFINITION. The M and B queues at their engines (R162, R163, R296): M_QUEUE_ISSUE and B_QUEUE_ISSUE; and CHAIN_PARTIAL_ARRIVAL
(R181, R182). -/

namespace Sys2Proof.Machine

/-- The physical rows of a product's rectangle in its strand's stack, with the feed row first (R161, R162). -/
def rectRows (s : State) (c : Ctx) (p : Prod) : List Nat :=
  let g := groupOf s c.grp
  (List.range p.nrow).map (fun i => placeRow g (strandOf s c.bank).gstack (p.row0 + i))

/-- A row issues a product of a group at a kc of a clock (R162): one in its queue whose issue kc that is, one on its way to the engine, or one
that has just issued. -/
def issuesProduct (s : State) (clk : Clk) (t r : Nat) : Bool :=
  let x := rowOf s r
  (x.mq ++ x.foq).any (fun q => decide (q.clk = clk) && decide (q.issueAt = t) && isProduct q.word) ||
    s.agenda.any (fun e => decide (e.clk = clk) && decide (e.at_ = t) && decide (bankRow e.ctx.bank = r) &&
      (match e.pay with | .word w => decide (wordEng w = 2) && isProduct w | _ => false)) ||
    x.macros.any (fun e => decide (e.2.clk = clk) && decide (e.2.t = t) && isProduct e.2.word)

/-- The record of a product word whose rectangle does not issue as one (R162): that of a follow-on word names its job (R272). -/
def rectRec (s : State) (c : Ctx) (cause : Nat) : FaultRec := macroRec s c cause 4 0 0 false

/-- What R162 finds when a product word of a rectangle issues: 0x12 for a feed row that lacks another row's word, 0x13 for a row that
lacks the feed row's. -/
def rectFault (s : State) (q : QWord) (t : Nat) : Option FaultRec :=
  let p := prodOf q.word q.ctx
  if !isProduct q.word ∨ q.dead ∨ p.nrow ≤ 1 then none
  else
    let rows := rectRows s q.ctx p
    let mine := bankRow q.ctx.bank
    let feed := rows.headD mine
    if mine = feed then
      if rows.all (fun r => r == mine || issuesProduct s q.clk t r) then none else some (rectRec s q.ctx 0x12)
    else if issuesProduct s q.clk t feed then none else some (rectRec s q.ctx 0x13)

/-- The other words of a failed rectangle that issue in the same kc write nothing (R162). -/
def killRect (s : State) (q : QWord) (t : Nat) : State :=
  (rectRows s q.ctx (prodOf q.word q.ctx)).foldl (fun st r =>
    let x := rowOf st r
    let kill (y : QWord) : QWord := if y.clk = q.clk ∧ y.issueAt = t ∧ isProduct y.word then { y with dead := true } else y
    setRow st r { x with mq := x.mq.map kill, foq := x.foq.map kill }) s

/-- The queue word of an issue event, if it stands at the head of its queue: of the row's M queue, or of its follow-on queue (R192). -/
def headWord (r : Row) (c : Ctx) : Option QWord :=
  match r.mq.head?, r.foq.head? with
  | some q, _ => if q.ctx = c then some q else if (r.foq.head?.map (fun y => y.ctx)) = some c then r.foq.head? else none
  | none, some q => if q.ctx = c then some q else none
  | none, none => none

/-- The word stands in a queue of the row. -/
def queuedWord (r : Row) (c : Ctx) : Bool := (r.mq ++ r.foq).any (fun q => decide (q.ctx = c))

/-- The row's queues without a word. -/
def unqueue (r : Row) (c : Ctx) : Row :=
  { r with mq := r.mq.filter (fun q => q.ctx != c), foq := r.foq.filter (fun q => q.ctx != c) }

/-- A queued word waits one kc more (R163). -/
def waitQueue (s : State) (row : Nat) (c : Ctx) (i : Instr) : State :=
  let r := rowOf s row
  let move (q : QWord) : QWord := if q.ctx = c then { q with issueAt := now s + 1 } else q
  post (setRow s row { r with mq := r.mq.map move, bq := r.bq.map move, foq := r.foq.map move }) (ctxClk c) (now s + 1) 2 row
    (engineRank (wordEng c.word)) c (.ev i)

/-- The word goes to its engine now. -/
def toEngine (s : State) (row : Nat) (c : Ctx) (dead : Bool) : State :=
  post s (ctxClk c) (now s) 2 row (engineRank (wordEng c.word)) { c with arg := now s, unit := if dead then 1 else 0 } (.word c.word)

/-- The record of a follow-on word that fails its validation (R272). -/
def followRec (s : State) (c : Ctx) (f : Fail) : FaultRec := macroRec s c f.cause f.sel f.addr f.detail false

/-- The context of a follow-on word at its strand's bank now (R192): its operands are the card's, everything else is read as at dispatch. -/
def followCtx (s : State) (c : Ctx) (b : Nat) : Ctx :=
  let t := strandOf s b
  { c with bank := b, hand := false, pkc := bankKc s b, preds := predsOf t, vrm := t.vrm, tol := t.cktol, tbl := bankTable s b, arg := bankKc s b + 4 }

/-- A follow-on word whose group has left for good (R192, R272): its handles name no slot any more, which is recorded against its job. -/
def followLost (s : State) (c : Ctx) : State :=
  let g := groupOf s c.grp
  let x := { c with bank := 2 * placeRow g (c.nxt / 16) (c.nxt % 16) }
  match mHandles c.word c.ra c.rb with
  | h :: _ => logRec s 2 1 (kernelOf s g.kern).tag g.ctx 0 (some (followRec s x (Fail.of 0x0C h.1 h.2.toNat)))
  | [] => s

/-- FOLLOW_ON_ENTRY (R192, R268, R273): the word enters its row's follow-on queue, validated as at dispatch, its handles among it, and its issue
kc is fixed; where its group is off its rows it waits for the next placement. `nxt` holds the strand's place in its group. -/
def enterFollowOn (s : State) (c : Ctx) : State :=
  let g := groupOf s c.grp
  match bankAt s c.grp (c.nxt / 16) (c.nxt % 16) with
  | none =>
    if g.st = .retired ∨ g.st = .killed then followLost s c
    else post s .hub (s.hkc + 1) 0 0 0 { c with bank := 4096 } (.ev (.mQueueIssue 0 0))
  | some b =>
    let w := c.word
    let hs := mHandles w c.ra c.rb
    let x := { followCtx s c b with recs := handleImgs s b hs }
    let r := bankRow b
    if wordGuard w ≠ 0 ∧ !x.preds.getLsbD (wordGuard w) then s
    else match (match firstFail [powerFail s x w, handlesFail s b hs] with
      | some f => some f
      | none => mFail s w x (x.pkc + 4) (fun _ => none)) with
    | some f => takeException (logJobFault s b (followRec s x f)) b (followRec s x f) x.pkc x [] none
    | none =>
      let row := rowOf s r
      let t := mIssueAt s w x row row.res (x.pkc + 4)
      let q : QWord := { word := w, ctx := x, clk := ctxClk x, arrive := x.pkc + 4, issueAt := t, win := g.win, job := some x.seed.toNat, dead := false }
      let s1 := commitWord s x w
      post (setRow s1 r { rowOf s1 r with foq := row.foq ++ [q] }) (ctxClk x) t 2 r (engineRank 2) x (.ev (.mQueueIssue r g.win))

/-- M_QUEUE_ISSUE (R162, R163): the word at the head of the queue issues, waits, or fails with its rectangle. -/
def execMQueueIssue (row win : Nat) (s : State) : Host.Outcome State Fault Refusal :=
  let c := s.cur
  let r := rowOf s row
  .next (match headWord r c with
    | some q =>
      if !mMayIssue s q.word c r (now s) then waitQueue s row c (.mQueueIssue row win)
      else match rectFault s q (now s) with
        | some f => lateFault (setRow (killRect s q (now s)) row (unqueue (rowOf (killRect s q (now s)) row) c)) 2 (.ev (.mQueueIssue row win)) f []
        | none => toEngine (setRow s row (unqueue r c)) row c q.dead
    | none =>
      if queuedWord r c then waitQueue s row c (.mQueueIssue row win)
      else if isFollowOn c ∧ c.bank = 4096 then enterFollowOn s c
      else s)

/-- A B word of the row is in progress (R296); one that rests in a trap frame is not for the handler's words (R362). -/
def bankBusy (r : Row) (c : Ctx) : Bool :=
  r.macros.any (fun e => decide (wordEng e.2.word = 5) && !(c.hand && !e.2.ctx.hand && decide (e.2.ctx.bank = c.bank)))

/-- B_QUEUE_ISSUE (R296). -/
def execBQueueIssue (row : Nat) (s : State) : Host.Outcome State Fault Refusal :=
  let c := s.cur
  let r := rowOf s row
  .next (match r.bq.head? with
    | some q =>
      if q.ctx = c ∧ !bankBusy r c then toEngine (setRow s row { r with bq := r.bq.tail }) row c false
      else if r.bq.any (fun y => decide (y.ctx = c)) then waitQueue s row c (.bQueueIssue row)
      else s
    | none => s)

/-- The bank of a group's strand in a row. -/
def rowBank (s : State) (g r : Nat) : Option Nat := (banksOf s g).find? (fun b => decide (bankRow b = r))

/-- The record of a partial that finds its entry in use (R182; log entry 14). -/
def edgeRec (s : State) (b entry : Nat) : FaultRec :=
  { mkRec s { Ctx.none with bank := b, grp := (strandOf s b).grp, pkc := bankKc s b } 0x12 14 0 entry true false with eng := 2 }

/-- The fault of a partial that arrives at an entry still holding another (R182). One that arrives so during a freeze waits for its end. -/
def edgeFault (s : State) (p : Partial) : Option (Nat × FaultRec) :=
  match rowBank s p.grp p.row, Sparse.find (rowOf s p.row).edge p.entry with
  | some b, some _ => if bankRuns s b then some (b, edgeRec s b p.entry) else none
  | _, _ => none

/-- A partial at its row's edge buffer (R181, R182). -/
def landPartial (s : State) (p : Partial) : State :=
  match edgeFault s p with
  | some (b, r) => strandFault s b r
  | none =>
    let x := rowOf s p.row
    match rowBank s p.grp p.row with
    | none => s
    | some b =>
      if (Sparse.find x.edge p.entry).isSome then
        post s (.kern p.grp (bankStack b)) (bankKc s b) 0 p.row 0 { Ctx.none with grp := p.grp } (.ev (.chainPartialArrival p))
      else setRow s p.row { x with edge := x.edge.put p.entry p.vals, arrBad := wordsWritten x.arrBad 1024 [edgeKey p.entry] }

/-- CHAIN_PARTIAL_ARRIVAL (R181, R182): the edge buffer takes the partial. -/
def execChainPartialArrival (p : Partial) (s : State) : Host.Outcome State Fault Refusal := .next (landPartial s p)

/-- The entry of the edge buffer that the next partial over a package edge link belongs to (R181, R183; log entry 94): partials of a row
come in the order of their activation rows. -/
def nextEdgeEntry (r : Row) : Nat :=
  let held := r.edge.foldl (fun n e => max n (e.1 + 1)) 0
  match r.macros.find? (fun e => decide (wordEng e.2.word = 2) && isProduct e.2.word && (prodOf e.2.word e.2.ctx).cin) with
  | none => held % 129
  | some (_, m) =>
    let p := prodOf m.word m.ctx
    let taken := (List.range 129).foldl (fun n i => if (Sparse.find m.words (edgeAt i 0)).isSome then i + 1 else n) 0
    max held taken % (p.rows + if p.ck then 1 else 0)

/-- The strand that a partial of a row over the west edge link is for (R21, R336): that of the group that comes over the edge. -/
def edgeStrand (s : State) (row : Nat) : Option (Nat × Nat) :=
  (s.banks.find? (fun e => e.2.st != .unloaded && decide (bankStack e.1 % 4 = 0) && decide (bankRow e.1 % 16 = row) &&
    decide (e.2.gstack ≠ 0))).map (fun e => (e.2.grp, bankRow e.1))

/-- A chain partial comes in over the west edge link: its 64 column values (R183, R387). -/
def partialIn (s : State) (f : Flit) : State :=
  match edgeStrand s (bitsOf f.hdr.toNat 16 4) with
  | none => s
  | some (g, r) =>
    landPartial s { grp := g, row := r, entry := nextEdgeEntry (rowOf s r),
                    vals := (List.range 64).map (fun n => BitVec.ofNat 32 (bitsOf f.payload.toNat (32 * n) 32)) }

end Sys2Proof.Machine
end

