-- ==== Sys2Proof/Machine/Time.lean ====
section
/-! DEFINITION. The clocks (R18, R338): how a stack zone's clock, its refresh frame and the kernel time of its groups advance, when a
stopped group resumes (R343, R345, R452), and FRAME_END, FRAME_PULSE and REFRESH_SLOT (R376, R378). -/

namespace Sys2Proof.Machine

/-- An event on the hub's clock, `d` kc from now, with the number of what it acts on. -/
def postArg (s : State) (d n : Nat) (i : Instr) : State := post s .hub (s.hkc + d) 0 0 0 { Ctx.none with arg := n } (.ev i)

/-- The stacks of the package that are present (R22). -/
def liveStacks (s : State) : List Nat := (List.range 8).filter (stackPresent s)

/-- Kernel time advances by one in a zone for every group that it runs for. -/
def advanceKernels (s : State) (z : Nat) : State :=
  { s with groups := s.groups.map (fun e => (e.1, { e.2 with zones := e.2.zones.map (fun y =>
      if y.z = z ∧ y.go then { y with kc := y.kc + 1 } else y) })) }

/-- A `realign` that has stopped its strand's group is over once its zone runs again (R345). -/
def endRealign (kc : Nat) (t : Strand) : Strand :=
  match t.realign with
  | some (k, _, _) => if k < kc then { t with realign := none } else t
  | none => t

/-- The zone of a group resumes at the kc at which it stopped (R343): its strands take the states back that they had. The block of a group that
starts shows it running from this pulse on (R346). -/
def resumeGroup (s : State) (g z : Nat) : State :=
  let x := groupOf s g
  let y := gzone x z
  let s1 := mapStrands (setGroup s g { setGzone x { y with go := true, resN := none, reported := false } with withdrawn := false, started := true }) g z
    (fun t => endRealign y.kc (thawStrand t))
  if x.started then s1 else writeBlock s1 g

/-- The zone's frame has reached the kc at which a released group resumes (R343, R345, R452). -/
def resumeDue (st : Stack) (y : GZone) : Bool :=
  match y.resN with
  | some n => !y.go && decide (n ≤ st.frameN) && decide (y.kc % Config.frameKc = st.f)
  | none => false

/-- The groups that resume in a zone now. -/
def resumeZone (s : State) (z : Nat) : State :=
  ((s.groups.filter (fun e => e.2.zones.any (fun y => decide (y.z = z) && resumeDue (stackOf s z) y))).map (·.1)).foldl
    (fun st g => resumeGroup st g z) s

/-- The column whose cells begin their refresh slot at a frame kc (R170). -/
def slotColumn (f : Nat) : Option Nat := if f % 1952 = 0 ∧ f / 1952 < 8 then some (f / 1952) else none

/-- The cells of a zone whose refresh slot begins now, each with its event. -/
def openSlots (s : State) (z : Nat) : State :=
  match slotColumn (stackOf s z).f with
  | some c => (List.range 16).foldl (fun st r => postArg st 0 (z * 128 + r * 8 + c) .refreshSlot) s
  | none => s

/-- The zone's clock stretches by one kc (R18, R338): a choice within the bound of 24 kc in 4,096 (log entry 4). -/
def stretches (s : State) (z : Nat) : Bool :=
  let x := stackOf s z
  Config.stretch z s.hkc && decide ((x.stretched + 1) * 4096 ≤ 24 * x.f)

/-- A zone's clock from one hub kc to the next (R338). In the frame gap only the clock itself advances. -/
def tickZone (s : State) (z : Nat) : State :=
  let x := stackOf s z
  if Config.frameKc ≤ x.f then setStack s z { x with zkc := x.zkc + 1 }
  else if stretches s z then setStack s z { x with stretched := x.stretched + 1 }
  else if x.f + 1 = Config.frameKc then postArg (setStack s z { x with zkc := x.zkc + 1 }) 0 z .frameEnd
  else openSlots (resumeZone (advanceKernels (setStack s z { x with zkc := x.zkc + 1, f := x.f + 1 }) z) z) z

/-- The package sets its own frame pulse (R339): it is package 0, or cut off from the packages west of it. -/
def pulseMaster (s : State) : Bool := decide (s.dev.pkg = 0) || !linkCarries (linkOf s 9)

/-- The frame pulse goes out over an edge link, ahead of this package's own by the link's fused latency (R339). -/
def forwardPulse (s : State) (l : Nat) : State :=
  if s.dev.powered ∧ s.hkc + latEntry s (l + 73) = s.dev.pulseAt + Config.pulseKc then sendFlit s l 0 0 6 s.hkc 0 else s

/-- The end of a hub kc on the package edge links (R339, R388). -/
def drainLinks (s : State) : State := [8, 9].foldl (fun st l => pumpLink (forwardPulse st l) l) s

/-- The next hub kc, once the package runs (R397). -/
def tick (s : State) : State :=
  let s1 := { drainLinks s with hkc := s.hkc + 1, turned := false }
  if s.dev.powered then (liveStacks s1).foldl tickZone s1 else s1

/-- FRAME_END (R338): the zone's frame is over. Kernel time stands at the first kc of the next frame until the pulse. -/
def execFrameEnd (s : State) : Host.Outcome State Fault Refusal :=
  let z := s.cur.arg
  .next (advanceKernels (setStack s z { stackOf s z with f := Config.frameKc }) z)

/-- A zone's next frame starts (R338): it waits for the pulse in its frame gap. -/
def startFrame (s : State) (z : Nat) : State :=
  let x := stackOf s z
  if x.f < Config.frameKc then s
  else openSlots (resumeZone (setStack s z { x with frameN := x.frameN + 1, f := 0, stretched := 0 }) z) z

/-- The replays of a refresh frame are counted anew (R390). -/
def clearReplays (s : State) : State := { s with links := s.links.map (fun e => (e.1, { e.2 with frameReplays := 0 })) }

/-- The entry is the package's own next pulse. -/
def ownPulse (e : Timed) : Bool := match e.pay with | .ev .framePulse => decide (e.ctx.arg = 0) | _ => false

/-- The pulse takes place (R338, R390): every zone starts its next frame, and the package's own next pulse stands 15,712 hub kc later. -/
def pulse (s : State) : State :=
  let s1 := (liveStacks s).foldl startFrame (clearReplays (dropEntries s ownPulse))
  postHub { s1 with dev := { s1.dev with pulseAt := s.hkc } } Config.pulseKc .framePulse

/-- FRAME_PULSE (R338, R339): the package's own (0), or the one that comes over the west link (1). A package that takes its pulse from the west
lets its own time pass, and looks again in the next kc, so that it goes on at once when it is cut off. -/
def execFramePulse (s : State) : Host.Outcome State Fault Refusal :=
  .next (if s.cur.arg = 1 then (if pulseMaster s then s else pulse s)
    else if pulseMaster s then pulse s
    else postHub s 1 .framePulse)

/-- A line of a cell as a fresh codeword of its decoded data (R376, R378). -/
def rewriteLine (s : State) (a : Nat) : State :=
  match lineClass s a with
  | (.corrected _, left) =>
    let bs := (List.range 64).map (fun i => readByte s (a + i) ^^^ BitVec.ofNat 8 (errByte left i))
    writeBytes { s with flips := s.flips.drop (lineKey a) } a bs
  | _ => s

/-- One line scrubbed (R378): corrected, or its page poisoned with a record. -/
def scrubLine (s : State) (a : Nat) : State :=
  match (lineClass s a).1 with
  | .clean => s
  | .corrected g => rewriteLine (countDram s a g) a
  | .uncorrectable => logRec (poisonPage s a) 0 1 0 0 (dramDet a) none

/-- The line `n` of a cell, as a bank-linear address. -/
def cellLine (c n : Nat) : Nat := baseLinear + c * 0x20000000 + 64 * n

/-- REFRESH_SLOT (R376, R378): the queued lines are rewritten, and the next 32 lines scrubbed. -/
def execRefreshSlot (s : State) : Host.Outcome State Fault Refusal :=
  let c := s.cur.arg
  let x := s.cells.getD c Cell.fresh
  let s1 := x.rewrite.foldl (fun st l => rewriteLine st (cellLine c l)) s
  let s2 := (List.range 32).foldl (fun st i => scrubLine st (cellLine c ((x.scrub + i) % 8388608))) s1
  let y := s2.cells.getD c Cell.fresh
  .next { s2 with cells := s2.cells.put c { y with rewrite := [], scrub := (x.scrub + 32) % 8388608 } }

end Sys2Proof.Machine
end

