-- ==== Sys2Proof/Machine/Strands.lean ====
section
/-! DEFINITION. The events of strands and groups: waits that end (R83), interrupts and timers (R370), the debugger (R83), the pager's
release (R283, R368, R369), freezes and their end (R343), `realign` (R345), checker mismatches (R93, R372, R373), and the restart of a
group from its snapshots (R307, R452). -/

namespace Sys2Proof.Machine

/-- The held packet of a strand whose waits are over issues now (R83). A strand that stands frozen or halted issues it when it runs
again. -/
def packetAgain (s : State) (b : Nat) : State :=
  let t := strandOf s b
  match t.st with
  | .waiting => refetch (setStrand s b (if bankRuns s b then { t with st := .running } else { t with st := .frozen, prev := .running })) b 0
  | .frozen => if t.prev = .waiting then refetch (setStrand s b { t with prev := .running }) b 0 else s
  | .halted => if t.prev = .waiting then refetch (setStrand s b { t with prev := .running }) b 0 else s
  | _ => s

/-- LOOSE_WAIT_END (R83): the wait at issue is over, and the packet issues once no other wait is left. -/
def execLooseWaitEnd (b : Nat) (s : State) : Host.Outcome State Fault Refusal :=
  let t := strandOf s b
  let rest := t.wait.filter (fun w => w != .issue)
  let s1 := setStrand s b { t with wait := rest }
  .next (if rest.isEmpty then packetAgain s1 b else s1)

/-- INTERRUPT_TAKEN (R370). -/
def execInterruptTaken (b : Nat) (s : State) : Host.Outcome State Fault Refusal := .next (takeInterrupt s b (bankKc s b))

/-- The expiry of a strand's timer stands for its kc, where its group's kernel time runs (R370). -/
def postTimer (s : State) (b : Nat) : State :=
  let t := strandOf s b
  match t.st, t.timer with
  | .unloaded, _ => s
  | _, some k => post s (.kern t.grp (bankStack b)) (max k (bankKc s b)) 0 (bankRow b) 0 { Ctx.none with bank := b, grp := t.grp } (.ev (.interruptTimerExpiry b))
  | _, none => s

/-- INTERRUPT_TIMER_EXPIRY (R370): sub-code 0x01 becomes pending with the armed kc. -/
def execInterruptTimerExpiry (b : Nat) (s : State) : Host.Outcome State Fault Refusal :=
  let t := strandOf s b
  .next (match t.timer with
    | some k => if k ≤ bankKc s b then postInterrupt (setStrand s b { t with timer := none }) b 0x01 k else s
    | none => s)

/-- TIMER_ARM (R370): it may come before the strand is placed. -/
def execTimerArm (bank kc : Nat) (s : State) : Host.Outcome State Fault Refusal :=
  .next (postTimer (setStrand s bank { strandOf s bank with timer := some kc }) bank)

/-- RUNTIME_MESSAGE_POST (R370): sub-code 0x02 becomes pending with its payload. -/
def execRuntimeMessagePost (bank payload : Nat) (s : State) : Host.Outcome State Fault Refusal := .next (postInterrupt s bank 0x02 payload)

/-- The bank is one that a page fault drained and whose page is still away (R369). -/
def pageAway (s : State) (b : Nat) : Bool := s.pages.any (fun j => j.2.drained.contains b)

/-- The other bank of a banked-out strand holds nothing that runs any more (R92). -/
def coreIdle (s : State) (b : Nat) : Bool :=
  match (strandOf s (otherBank b)).st with
  | .unloaded => true
  | .done => true
  | .yielded => true
  | .failed => true
  | _ => false

/-- A drained strand's page is resident (R92): it is ready, and takes the core at once where the other bank has given it up. -/
def drainedReady (s : State) (b : Nat) : State :=
  let t := strandOf s b
  if t.st = .bankedOut then
    let s1 := setStrand s b { t with prev := .ready }
    if coreIdle s1 b then postHub s1 0 (.bankedOutReturn b) else s1
  else s

/-- DEBUGGER_HALT (R83): the strand halts, and its group's kernel time stops. -/
def execDebuggerHalt (s : State) : Host.Outcome State Fault Refusal :=
  let b := s.cur.arg
  let t := strandOf s b
  let halt : State := freezeGroup (setStrand s b { t with st := .halted, prev := if t.st = .frozen then t.prev else t.st }) t.grp (bankStack b) .debugger
  .next (match t.st with
    | .unloaded => s
    | .failed => s
    | .halted => s
    | _ => halt)

/-- DEBUGGER_RESUME (R83): the strand takes its state back, with a fresh snapshot of its window table. One that waits at issue takes a pending
interrupt at once (R370); a banked-out one whose page is in takes the core where the other bank has given it up (R92). -/
def execDebuggerResume (s : State) : Host.Outcome State Fault Refusal :=
  let b := s.cur.arg
  let t := strandOf s b
  let back (st prev : StrandState) : State := endStop (setStrand s b { t with st := st, prev := prev, stale := false }) t.grp (bankStack b) .debugger
  .next (if t.st ≠ .halted then s
    else match t.prev with
      | .running => back .frozen .running
      | .waiting => wakeForInterrupt (back .waiting .waiting) b
      | .bankedOut => (let s1 := back .bankedOut .waiting; if pageAway s b then s1 else drainedReady s1 b)
      | p => back p p)

/-- BANKED_OUT_RETURN (R92): the core switches back, and the strand's part in the freeze ends. -/
def execBankedOutReturn (bank : Nat) (s : State) : Host.Outcome State Fault Refusal :=
  let t := strandOf s bank
  .next (if t.st = .bankedOut ∧ t.prev = .ready then
      endStop (switchTo (setStrand s bank { t with st := .frozen, prev := .running }) bank) t.grp (bankStack bank) .pager
    else s)

/-- A strand that a page fault held under freeze semantics goes on (R365, R368): a pending interrupt is taken at the same F. -/
def heldReady (s : State) (b : Nat) : State :=
  let t := strandOf s b
  let s1 := endStop s t.grp (bankStack b) .pager
  if (dueInterrupt (strandOf s1 b)).isSome then takeInterrupt s1 b (bankKc s1 b) else s1

/-- PAGER_RELEASE (R283, steps 3 to 5): the page is in, and the words that faulted on it are released. A refresh slot holds the move up (R376). -/
def execPagerRelease (pf : Nat) (s : State) : Host.Outcome State Fault Refusal :=
  .next (match Sparse.find s.pages pf with
    | none => s
    | some j =>
      if moveHeld s j ≠ 0 then postHub s (moveHeld s j) (.pagerRelease pf)
      else
        let s1 := pageIn { s with pages := s.pages.drop pf } j
        j.drained.foldl drainedReady (j.banks.foldl heldReady s1))

/-- The least P from `lo` such that a release from the hub at `r0` reaches a zone by the kc at which it stopped, P frames later
(R343, R345). -/
def leastFrames (s : State) (lo r0 : Nat) (y : GZone) : Nat :=
  let t := r0 + lam s 8 y.z
  let at0 := y.stopN * Config.pulseKc + y.kc % Config.frameKc
  max lo (if t ≤ at0 then 0 else ceilDiv (t - at0) Config.pulseKc)

/-- The hub releases a group at `r0` (R343, R345): every zone resumes P frames after it stopped, P the same for all and `lo` at least. A group whose
strands have all ended or yielded meanwhile leaves its rows instead (R84). -/
def releaseGroup (s : State) (g lo r0 : Nat) : State :=
  let x := groupOf s g
  let p := x.zones.foldl (fun m y => max m (leastFrames s lo r0 y)) lo
  let s1 := setGroup s g { x with zones := x.zones.map (fun y => if y.go then y else { y with resN := some (y.stopN + p) }) }
  settle (if x.st = .frozen then setGroupState s1 g .running else s1) g

/-- FREEZE_RELEASE (R343): with no cause of a stop left, and every zone stopped, the hub releases the group. A stop notice still on its
way comes first. -/
def execFreezeRelease (g : Nat) (s : State) : Host.Outcome State Fault Refusal :=
  let x := groupOf s g
  let notice := s.agenda.any (fun e => match e.pay with | .stop h _ => h == g | _ => false)
  .next (if x.stops ≠ [] ∨ x.restart.isSome then s
    else if notice then post s .hub (s.hkc + 1) 0 0 0 s.cur (.ev (.freezeRelease g))
    else releaseGroup s g 1 (max s.hkc s.cur.pkc))

/-- The strands of a group in a zone that have armed a `realign` for the current kc or an earlier one (R345). -/
def armedIn (s : State) (g z kc : Nat) : List (Nat × Nat × Nat × Ctx) :=
  (banksOf s g).filterMap (fun b =>
    match (strandOf s b).realign with
    | some (k, w, c) => if k ≤ kc ∧ bankStack b = z then some (b, k, w, c) else none
    | none => none)

/-- The slack of every `realign` that stops a zone runs from the stop, the end of kc K, on the zone's clock, in timed mode (R345). -/
def startSlack (s : State) (g z : Nat) (l : List (Nat × Nat × Nat × Ctx)) : State :=
  l.foldl (fun st e =>
    if timedMode (groupOf st g) && !e.2.2.2.hand then
      post st (.zone z) ((stackOf st z).zkc + 1 + e.2.2.1) 5 (bankRow e.1) 4 e.2.2.2 (.ev (.realignTimeout e.1))
    else st) s

/-- A group has a `realign` armed for the current kc of a zone or an earlier one (R345). -/
def anyArmed (s : State) (g kc : Nat) : Bool :=
  (banksOf s g).any (fun b => match (strandOf s b).realign with | some (k, _, _) => decide (k ≤ kc) | none => false)

/-- REALIGN_STOP (R345): the zone stops at the end of the current kc and reports to the hub. After a withdrawn release the stop belongs
to the freeze that withdrew it. -/
def execRealignStop (g z : Nat) (s : State) : Host.Outcome State Fault Refusal :=
  let x := groupOf s g
  let y := gzone x z
  let armed := armedIn s g z y.kc
  let st := stackOf s z
  .next (if !y.go ∨ !anyArmed s g y.kc then s
    else
      let y1 := { y with kc := y.kc + 1, go := false, stopN := if (y.kc + 1) % Config.frameKc = 0 then st.frameN + 1 else st.frameN,
                         stopH := s.hkc, resN := none, reported := true }
      let s1 := mapStrands (setGroup (landFrozen s g z) g (setGzone x y1)) g z freezeStrand
      if x.withdrawn then s1
      else
        let x1 := groupOf s1 g
        let s2 := setGroup s1 g { x1 with stops := if x1.stops.contains .realign then x1.stops else .realign :: x1.stops }
        let s3 := if x1.st = .running then setGroupState s2 g .frozen else s2
        post (startSlack s3 g z armed) .hub (s.hkc + lam s z 8) 0 0 0 { Ctx.none with grp := g } (.ev (.realignRelease g)))

/-- The strands of a group in ascending group stack and row that may arm a `realign`. -/
def realignParties (s : State) (g : Nat) : List Nat :=
  let x := groupOf s g
  ((List.range x.rS).flatMap (fun a => (List.range 16).filterMap (fun r => bankAt s g a r))).filter (fun b =>
    match (strandOf s b).st with
    | .done => false
    | .yielded => false
    | .failed => false
    | _ => true)

/-- The strand has armed another K than the kc after which its zone stands, or none (R345). -/
def realignDiffers (s : State) (g b : Nat) : Bool :=
  match (strandOf s b).realign with
  | some (k, _, _) => decide (k + 1 ≠ (gzone (groupOf s g) (bankStack b)).kc)
  | none => true

/-- The fault of a strand whose `realign` does not agree with the others' (R345), which it takes at K + 1. -/
def realignFault (s : State) (g b : Nat) : State :=
  let t := strandOf s b
  let kc := (gzone (groupOf s g) (bankStack b)).kc
  let c : Ctx := match t.realign with
    | some (_, _, c) => c
    | none => { Ctx.none with bank := b, grp := g, pkc := kc, waddr := t.cp, word := 0x80000000 }
  let k := match t.realign with | some (k, _, _) => k | none => 0
  post (setStrand s b { t with realign := none }) (.kern g (bankStack b)) kc 0 (bankRow b) 0 c (.enter b (mkRec s c 0x0D 1 k 0 true false))

/-- The `realign` of every strand of a group is over, with no further effect (R345). -/
def disarm (s : State) (g : Nat) : State :=
  { s with banks := s.banks.map (fun e => if e.2.grp = g ∧ e.2.st ≠ .unloaded then (e.1, { e.2 with realign := none }) else e) }

/-- REALIGN_RELEASE (R345): once every zone has reported, the hub compares what was armed and releases the group. -/
def execRealignRelease (g : Nat) (s : State) : Host.Outcome State Fault Refusal :=
  let x := groupOf s g
  let more := s.agenda.any (fun e => match e.pay with | .ev (.realignRelease h) => h == g | _ => false)
  .next (if !x.stops.contains .realign ∨ more ∨ !x.zones.all (fun y => y.reported) then s
    else
      let s1 := match (realignParties s g).find? (realignDiffers s g) with
        | some b => disarm (realignFault s g b) g
        | none => s
      let s2 := setGroup s1 g { groupOf s1 g with stops := eraseStop x.stops .realign }
      if (groupOf s2 g).stops = [] then releaseGroup s2 g 0 s2.hkc else s2)

/-- The record of a `realign` whose slack has run out (R345). -/
def realignRec (s : State) (c : Ctx) : FaultRec := mkRec s c 0x13 2 0 0 true false

/-- The zone of bank `b` still stands for the `realign` that its strand armed (R345). -/
def realignLate (s : State) (b : Nat) : Bool :=
  let x := bankGroup s b
  let y := gzone x (bankStack b)
  !y.go && y.reported && (strandOf s b).realign.isSome

/-- The slack of another strand of the group is over with a stop notice of zone `z` (R343, R345): one that runs out before the notice reaches its
zone stays. -/
def slackOver (s : State) (g z : Nat) (e : Timed) : Bool :=
  match e.pay with
  | .ev (.realignTimeout y) =>
    let w := bankStack y
    (strandOf s y).grp == g && decide ((stackOf s w).zkc + (if w = z then 0 else lam s z 8 + lam s 8 w) < e.at_)
  | .ev (.realignRelease h) => h == g
  | _ => false

/-- REALIGN_TIMEOUT (R345): the stop becomes a freeze with a trap, at F = K + 1, and the hub's release is withdrawn. -/
def execRealignTimeout (bank : Nat) (s : State) : Host.Outcome State Fault Refusal :=
  let g := (strandOf s bank).grp
  let x := groupOf s g
  .next (if realignLate s bank then
      let s1 := setGroup (dropEntries s (slackOver s g (bankStack bank))) g { x with stops := eraseStop x.stops .realign, withdrawn := true }
      let f := (gzone (groupOf s1 g) (bankStack bank)).kc
      takeException s1 bank (realignRec s1 s.cur) f s.cur [] none
    else s)

/-- The start registers of a kernel's strands (R86, R326). -/
def startRegs (s : State) (g : Nat) : List Dword := (List.range 7).map (fun i => (kernelOf s (groupOf s g).kern).parm.getD i 0)

/-- K0 of R452: one more than the least snapshot kc of the group's strands, where a strand without one counts as −1. -/
def restartKc (s : State) (g : Nat) : Nat :=
  let ks := ((banksOf s g).filter (fun b => (strandOf s b).st != .done && (strandOf s b).st != .failed)).map (fun b =>
    match (strandOf s b).snap with | some sn => sn.kc + 1 | none => 0)
  match ks with
  | [] => 0
  | k :: t => t.foldl min k

/-- A strand starts at kc 0 with its entry packet (R62, R86), or restarts from its snapshot (R452): its packet issues at the kc at which it
would have followed the node packet. -/
def restartStrand (s : State) (b : Nat) : State :=
  let t := strandOf s b
  let p := restartPoint t (startRegs s t.grp)
  let s1 := dropLog (setStrand s b { atStart t p.1 p.2.1 with st := .ready, prev := .ready }) b
  let kc := match p.2.2 with | some k => k + 1 + idleAt s1 b p.1 | none => 0
  post s1 (.kern t.grp (bankStack b)) kc 1 (bankRow b) 0 { Ctx.none with bank := b, grp := t.grp } (.fetch b)

/-- An armed yield request's deadline in a zone stands again (R309, R452). -/
def repostDeadline (s : State) (g b : Nat) : State :=
  let t := strandOf s b
  if t.yreq.getLsbD 1 then
    let z := bankStack b
    let there := s.agenda.any (fun e => decide (e.clk = .kern g z) && (match e.pay with | .ev (.yieldDeadlineExpiry h) => h == g | _ => false))
    if there then s
    else
      let s1 := post s (.kern g z) t.ydl 5 (z * 16) 0 { Ctx.none with grp := g, bank := b } (.ev (.yieldDeadlineExpiry g))
      match Sparse.find (groupOf s g).ydReal z with
      | some k => post s1 (.zone z) k 5 (z * 16) 0 { Ctx.none with grp := g, bank := b, hand := true } (.ev (.yieldDeadlineExpiry g))
      | none => s1
  else s

/-- The banks of a group whose strands go on. -/
def goingBanks (s : State) (g : Nat) : List Nat :=
  (banksOf s g).filter (fun b => (strandOf s b).st != .done && (strandOf s b).st != .failed)

/-- Kernel time of a group restarts from its strands' snapshots (R452). -/
def restartGroup (s : State) (g : Nat) : State :=
  let bs := goingBanks s g
  let s1 := restartAt s g (restartKc s g)
  let s2 := bs.foldl restartStrand s1
  let s3 := bs.foldl postTimer s2
  let s4 := bs.foldl (fun st b => repostDeadline st g b) s3
  if (groupOf s4 g).st = .frozen then setGroupState s4 g .running else s4

/-- A kept phase card as a job again (R307): its records are those that its handles name now. -/
def phaseJob (s : State) (b : Nat) (bytes : List Byte) : Job :=
  let t := strandOf s b
  let k : BitVec 1024 := BitVec.ofNat 1024 (leNat bytes)
  let z := bankStack b
  let img (h : Nat) : ShapeImg := (handleRec s z t.grp (BitVec.ofNat 64 h)).getD 0
  { st := .queued, serial := 0, card := k, src := if cardSrc k = 0 then 0 else img (cardSrc k), dst := if cardDst k = 0 then 0 else img (cardDst k),
    agent := 0, submitter := bankAgent s b, ctx := (bankGroup s b).ctx, grp := t.grp, kern := (bankGroup s b).kern, stack := z, row := bankRow b,
    waddr := 0, pkc := bankKc s b, sched := cardSched k z, tbl := bankTable s b,
    toks := (((List.range (cardNtok k)).map (cardTok k)).filterMap (fun i => heldEntry t.held i)).map jobEntry, edges := [], phase := true,
    foImg := if cardFo k then handleImgs s b (mHandles (BitVec.ofNat 32 (cardFoword k)) (BitVec.ofNat 64 (cardFoa k)) (BitVec.ofNat 64 (cardFob k))) else [], todo := [], hand := false,
    tag := (kernelOf s (bankGroup s b).kern).tag, qlife := (kernelOf s (bankGroup s b).kern).qlife, held := false }

/-- A kept card is submitted again (R307), if the group's budgets and its scheduler have a free slot (R302): the tokens that it names are handed
to the job. -/
def resubmit (s : State) (b : Nat) (bytes : List Byte) : Option State :=
  let j := phaseJob s b bytes
  let n := freeSlot s j.sched
  if 64 ≤ n ∨ !jobSlotFree s b j.card then none
  else
    let key := j.sched * 64 + n
    let s1 := enterJob s key j
    some ((j.toks.zip (List.range j.toks.length)).foldl (fun st e =>
      if e.1.spad || e.1.mode != .own then st
      else hubHandoff st (if cardDisp j.card e.2 = 1 then .pass else .lend) e.1.id j.submitter (jobAgent s key) (cardScope j.card)) s1)

/-- The kept cards of a group that a phase restart has still to submit (R307): strand by strand, each strand's in their order. -/
def restCards (s : State) (g : Nat) : List (Nat × List Byte) :=
  ((goingBanks s g).flatMap (fun b => (strandOf s b).cards.map (fun c => (b, c)))).drop ((groupOf s g).restart.getD 0)

/-- Kept cards are submitted in their order while slots are free: the state after it, and how many went. -/
def resubmits (l : List (Nat × List Byte)) (s : State) : State × Nat :=
  match l with
  | [] => (s, 0)
  | e :: t =>
    match resubmit s e.1 e.2 with
    | none => (s, 0)
    | some s1 => ((resubmits t s1).1, (resubmits t s1).2 + 1)

/-- The cards that wait for a slot are submitted as far as slots are free, and the group counts them. -/
def resubmitCards (s : State) (g : Nat) : State :=
  match restCards s g with
  | [] => s
  | l =>
    let r := resubmits l s
    let x := groupOf r.1 g
    setGroup r.1 g { x with restart := some (x.restart.getD 0 + r.2) }

/-- A job of a group's resubmitted cards is still live (R307). -/
def phaseJobs (s : State) (g : Nat) : Bool := s.jobs.any (fun e => e.2.phase && e.2.grp == g)

/-- The slots of a group are free again, and the images of its kernel are loaded anew (R155). -/
def reloadSlots (s : State) (g : Nat) : State :=
  (groupOf s g).zones.foldl (fun st y =>
    setStack st y.z { stackOf st y.z with slots := freshSlots (kernelOf s (groupOf s g).kern).shapes g (stackOf st y.z).slots }) s

/-- PHASE_RESTART (R307, R155, R452): the kept cards are submitted, and when their jobs have completed kernel time restarts. Cards for which
their scheduler has no free slot go in a later hub kc. -/
def execPhaseRestart (g : Nat) (s : State) : Host.Outcome State Fault Refusal :=
  let s1 := resubmitCards s g
  .next (if !(restCards s1 g).isEmpty || phaseJobs s1 g then postHub s1 1 (.phaseRestart g)
    else restartGroup (reloadSlots (setGroup s1 g { groupOf s1 g with restart := none }) g) g)

/-- The groups with a strand in either bank of a row. -/
def rowGroups (s : State) (r : Nat) : List Nat :=
  ([2 * r, 2 * r + 1].filterMap (fun b => if (strandOf s b).st = .unloaded then none else some (strandOf s b).grp)).eraseDups

/-- A strand's core is marked failed, and the strand fails (R83). -/
def failStrand (s : State) (b : Nat) : State :=
  let t := strandOf s b
  if t.st = .unloaded then s else setStrand s b { t with st := .failed, pend := [] }

/-- CHECKER_MISMATCH (R93, R372, R373): the running group's buffer phase is cancelled, with a record; the third mismatch marks the core
failed, and the fault domains of both banks' groups are killed. -/
def execCheckerMismatch (s : State) : Host.Outcome State Fault Refusal :=
  let r := s.cur.arg
  let x := rowOf s r
  let b := 2 * r + x.run
  let t := strandOf s b
  let c : Ctx := { Ctx.none with bank := b, grp := t.grp, pkc := bankKc s b, waddr := t.cp }
  let k := kernelOf s (groupOf s t.grp).kern
  let s1 := setRow s r { x with mism := x.mism + 1, failed := x.failed || decide (2 ≤ x.mism) }
  .next (if t.st = .unloaded then s
    else if 2 ≤ x.mism then
      (rowGroups s1 r).foldl (fun st g => if (groupOf st g).st != .retired && (groupOf st g).st != .killed then fatal st g (mkRec st c 0x33 0 0 0 false false) else st)
        (failStrand (failStrand s1 (2 * r)) (2 * r + 1))
    else
      let f := mkRec s1 c 0x30 0 0 0 false false
      phaseCancel (logRec s1 2 2 k.tag (groupOf s t.grp).ctx r (some f)) t.grp f)

/-- CORE_COUNT_CLEAR (R93, R373). -/
def execCoreCountClear (s : State) : Host.Outcome State Fault Refusal :=
  let r := s.cur.arg
  .next (setRow s r { rowOf s r with mism := 0, failed := false })

end Sys2Proof.Machine
end

