-- ==== Sys2Proof/Machine/Kernels.lean ====
section
/-! DEFINITION. Control blocks (R300 to R302, R453), LAUNCH and its checks (R325 to R327), the placement of groups in waves (R329, R330,
R335 to R337), and the end of a kernel (R331 to R334). -/

namespace Sys2Proof.Machine

/-- `n` bytes of a structure at a global physical address of this package, at an offset (R2), as the decoder delivers them (R375). -/
def fieldAt (s : State) (a o n : Nat) : Nat := leNat (fetchBytes s (paLocal a + o) n)

/-- Memory is pinned for a context (R453): host memory, or within the frame of one P entry of its host window table. -/
def pinned (s : State) (c a n : Nat) : Bool :=
  decide (paPkg a = s.dev.pkg) && decide (a < 2 ^ 52) &&
    (match placeOf (paLocal a) with
     | .host _ => decide (paLocal a + n ≤ 2 ^ 48)
     | .hole => false
     | .spad _ _ => false
     | _ => (contextOf s c).hostTable.any (fun e => weValid e && weP e && decide (wePa e ≤ a) && decide (a + n ≤ wePa e + pageBytes (weSize e))))

/-- A budget field of 0, or a power of two up to 512 (R300). -/
def spadCode (x : Nat) : Bool := decide (x = 0) || (decide (x ≤ 512) && decide (x = 2 ^ Nat.log2 x))

/-- The own fields of a control block (R300). -/
def ownBudget (s : State) (a : Nat) : Budget :=
  let h := fieldAt s a 0 8
  let x := fieldAt s a 16 8
  let y := fieldAt s a 24 8
  { prio := bitsOf h 8 4, fdom := bitsOf h 12 2, rows := bitsOf x 0 8, stackTab := bitsOf x 8 4, spad := bitsOf x 12 10, acc := bitsOf x 22 3,
    jobs := bitsOf x 25 7, tok := bitsOf x 32 16, bar := bitsOf x 48 13, shape := bitsOf y 0 13, bounce := bitsOf y 13 17, dram := bitsOf y 32 20 }

/-- The fields of a budget in the order of the inherit mask (R301). -/
def budgetFields (b : Budget) : List Nat :=
  [b.prio, b.fdom, b.rows, b.stackTab, b.spad, b.acc, b.jobs, b.tok, b.bar, b.shape, b.bounce, b.dram]

/-- The inherit mask of a control block. -/
def blockInh (s : State) (a : Nat) : Nat := bitsOf (fieldAt s a 0 8) 16 16

/-- The bytes of a block from one offset to before another are zero. -/
def zeroBytes (s : State) (a lo hi : Nat) : Bool := (List.range (hi - lo)).all (fun i => fieldAt s a (lo + i) 1 == 0)

/-- The common header of a control block is well formed (R300, R301). -/
def headerForm (s : State) (kind c a : Nat) : Bool :=
  let h := fieldAt s a 0 8
  let x := fieldAt s a 16 8
  let y := fieldAt s a 24 8
  let b := ownBudget s a
  decide (a % 256 = 0) && decide (bitsOf h 0 8 = kind) && decide (bitsOf h 14 2 = 0) && decide (bitsOf h 28 4 = 0) &&
    decide (bitsOf h 32 8 = c) && decide (bitsOf h 40 24 = 0) && decide (fieldAt s a 8 8 < 2 ^ 52) && decide (bitsOf x 61 3 = 0) &&
    decide (bitsOf y 30 2 = 0) && decide (bitsOf y 52 12 = 0) && zeroBytes s a 32 64 &&
    decide (b.rows ≤ 128) && decide (b.stackTab ≤ 8) && spadCode b.spad && decide (b.acc ≤ 4) && decide (b.jobs ≤ 64) && decide (b.bar ≤ 4096) &&
    decide (b.shape ≤ 4096) && decide (b.bounce ≤ 65536) && decide (b.dram ≤ 524288) &&
    ((budgetFields b).zip (List.range 12)).all (fun e => bitOf (blockInh s a) e.2 || decide (e.1 = 0))

/-- The effective values of a block below its parent's (R301). -/
def effective (inh : Nat) (own up : Budget) : Budget :=
  let f (i : Nat) (g : Budget → Nat) : Nat := if bitOf inh i then min (g own) (g up) else g up
  { prio := f 0 (fun b => b.prio), fdom := if bitOf inh 1 then own.fdom else up.fdom, rows := f 2 (fun b => b.rows), stackTab := f 3 (fun b => b.stackTab),
    spad := f 4 (fun b => b.spad), acc := f 5 (fun b => b.acc), jobs := f 6 (fun b => b.jobs), tok := f 7 (fun b => b.tok), bar := f 8 (fun b => b.bar),
    shape := f 9 (fun b => b.shape), bounce := f 10 (fun b => b.bounce), dram := f 11 (fun b => b.dram) }

/-- The reserved bits of a kernel block's own part are zero, and R and S in range (R325). -/
def kernelForm (s : State) (a : Nat) : Bool :=
  decide (fieldAt s a 64 8 < 2 ^ 56) && decide (fieldAt s a 76 1 < 128) && decide (fieldAt s a 77 1 ≤ 16) && decide (1 ≤ fieldAt s a 77 1) &&
    decide (fieldAt s a 78 1 ≤ 8) && decide (1 ≤ fieldAt s a 78 1) && zeroBytes s a 79 80 && decide (fieldAt s a 80 8 < 2 ^ 52) &&
    decide (fieldAt s a 88 2 < 2048) && decide (fieldAt s a 90 2 ≤ 4096) && zeroBytes s a 92 96 && decide (fieldAt s a 96 8 < 2 ^ 52) &&
    decide (fieldAt s a 104 1 < 4) && zeroBytes s a 105 112 && zeroBytes s a 176 256

/-- Every byte of a code image lies in a page with I of a table (R327); `fuel` bounds the pages. -/
def imageMapped (tbl : List WEntry) (fuel va n : Nat) : Bool :=
  match fuel with
  | 0 => decide (n = 0)
  | k + 1 =>
    if n = 0 then true
    else match lookup tbl va with
      | none => false
      | some e =>
        let m := min n (weVa e + pageBytes (weSize e) - va)
        weI e && imageMapped tbl k (va + m) (n - m)

/-- The westmost stacks at which a run of S stacks of one stack-row may begin (R22, R335). -/
def runStarts (s : State) (n : Nat) : List Nat :=
  (List.range 8).filter (fun z => decide (z % 4 + n ≤ 4) && (List.range n).all (fun i => stackPresent s (z + i)))

/-- A group of S stacks fits the package or the line (R335): across a package edge at most four lie on each side. -/
def spanFits (s : State) (n r : Nat) (paired : Bool) : Bool :=
  (if n ≤ 4 then !(runStarts s n).isEmpty || decide (s.dev.east ≠ 0) else decide (n ≤ 8) && decide (s.dev.east ≠ 0)) &&
    (!paired || (decide (r ≤ 8) && s.part.pairedOk))

/-- The hand-over list of a kernel block: its entries in use (R325). -/
def handList (s : State) (a : Nat) : List (Nat × Nat) :=
  ((List.range 8).map (fun i => (fieldAt s a (112 + 8 * i) 4, fieldAt s a (116 + 8 * i) 4))).filter (fun e => e.1 ≠ 0)

/-- No number of a list comes twice. -/
def allDistinct (l : List Nat) : Bool :=
  match l with
  | [] => true
  | a :: t => !t.contains a && allDistinct t

/-- The checks of a LAUNCH of queue `q` whose kernel block lies at `a` and parameter block at `parm` (R327), in order, as numbers with
whether they pass. -/
def launchChecks (s : State) (q a parm : Nat) : List (Nat × Bool) :=
  let x := queueOf s q
  let c := x.ctx
  let fl := fieldAt s a 76 1
  let mode := fl % 4
  let csize := fieldAt s a 72 4
  let code := fieldAt s a 64 8
  let nwt := fieldAt s a 88 2
  let wtab := fieldAt s a 80 8
  let tbl := readTable s (paLocal wtab) nwt
  let nsh := fieldAt s a 90 2
  let shp := fieldAt s a 96 8
  let eff := effective (blockInh s a) (ownBudget s a) x.bud
  let r := fieldAt s a 77 1
  let n := fieldAt s a 78 1
  let toks := (handList s a).map (·.1)
  [ (1, headerForm s 3 c a && pinned s c a 256 && kernelForm s a && decide (fieldAt s a 8 8 = x.blk)),
    (2, decide (mode ≤ 2) && (decide (mode ≠ 2) || x.priv)),
    (3, decide (code % 64 = 0) && decide (csize % 4 = 0) && decide (4 ≤ csize) && decide (csize ≤ 0x200000) &&
        imageMapped tbl (csize / 4096 + 2) code csize),
    (4, decide (1 ≤ nwt) && decide (nwt ≤ 1024) && decide (wtab % 16 = 0) && pinned s c wtab (16 * nwt) && tableWf s tbl),
    (5, decide (nsh ≤ eff.shape) && (decide (nsh = 0) || (decide (shp % 64 = 0) && pinned s c shp (64 * nsh) &&
        (List.range nsh).all (fun i => recWf (BitVec.ofNat 512 (fieldAt s shp (64 * i) 64)))))),
    (6, decide (n ≤ eff.stackTab) && decide (r * n ≤ eff.rows) && spanFits s n r (bitOf fl 3)),
    (7, decide (mode ≠ 0) || bitOf fl 2 || tbl.all (fun e => !weValid e || weP e)),
    (8, decide (parm = 0) || (decide (parm % 64 = 0) && pinned s c parm 64)),
    (9, toks.all (fun t => tokCurrent s t && decide ((tokenOf s (tokKey s t)).ctx = c)) && allDistinct toks) ]

/-- The number of the first check that fails. -/
def failedCheck (l : List (Nat × Bool)) : Option Nat := (l.find? (fun e => !e.2)).map (·.1)

/-- The result field of a kernel block (R325); another package's memory is outside. -/
def writeRes (s : State) (a res : Nat) : State := if paPkg a ≠ s.dev.pkg then s else putMem s (a + 104) 1 (fieldAt s a 104 1 / 4 * 4 + res)

/-- A packet of queue `q` is parsed (R314, R323): `ci` advances by one, and its performance may be waited for. What
its read finds is counted (R375, R385). -/
def parsed (s : State) (q : Nat) (p : List Pending) : State :=
  let x := queueOf s q
  let s1 := afterRead s (paLocal (packetAddr x x.ci)) 64
  putQueue s1 q { x with ci := x.ci + 1, since := none, pend := x.pend ++ p }

/-- The address of the packet at the head of a queue. -/
def headAddr (s : State) (q : Nat) : Nat := packetAddr (queueOf s q) (queueOf s q).ci

/-- The kernel of a LAUNCH packet at `p` (R317, R325, R326). -/
def newKernel (s : State) (q p : Nat) : Kernel :=
  let x := queueOf s q
  let a := fieldAt s p 8 8
  let parm := fieldAt s p 24 8
  let fl := fieldAt s a 76 1
  { st := .pending, blk := a, queue := q, ctx := x.ctx, pktNo := x.ci, tag := fieldAt s p 4 4, order := s.nextKernel,
    bud := effective (blockInh s a) (ownBudget s a) x.bud, code := fieldAt s a 64 8, csize := fieldAt s a 72 4, mode := fl % 4,
    drainsafe := bitOf fl 2, paired := bitOf fl 3, usev := bitOf fl 4, usem := bitOf fl 5, useb := bitOf fl 6,
    rR := fieldAt s a 77 1, rS := fieldAt s a 78 1, table := readTable s (paLocal (fieldAt s a 80 8)) (fieldAt s a 88 2),
    shapes := (List.range (fieldAt s a 90 2)).map (fun i => BitVec.ofNat 512 (fieldAt s (fieldAt s a 96 8) (64 * i) 64)),
    parm := if parm = 0 then [] else (List.range 7).map (fun i => BitVec.ofNat 64 (fieldAt s parm (8 * i) 8)),
    hand := handList s a, gx := fieldAt s p 16 2, gy := fieldAt s p 18 2, gz := fieldAt s p 20 2, nextL := 0, ended := 0, flt := false,
    done := fieldAt s p 32 8, dinc := BitVec.ofNat 64 (fieldAt s p 40 8), handBy := 0, handed := false, shoot := [], shootWait := [],
    wtab := fieldAt s a 80 8, qlife := x.life, qbud := x.bud, prior := x.pend }

/-- LAUNCH (R327, R331): refused by the first check that fails, or its kernel goes to placement; one with no group is completing. -/
def execLaunch (s : State) : Host.Outcome State Fault Refusal :=
  let q := s.cur.arg
  let p := headAddr s q
  let a := fieldAt s p 8 8
  .next (match failedCheck (launchChecks s q a (fieldAt s p 24 8)) with
    | some n => stopQueue (writeRes s a 3) q 3 0 0 n
    | none =>
      let k := newKernel s q p
      let n := s.nextKernel
      let s1 := writeRes (markPages { afterRead (parsed s q [.kernel n]) (paLocal a) 256 with nextKernel := n + 1 } k.ctx k.table.zipIdx) a 0
      let s2 := setKernel s1 n k
      if kernelTotal k = 0 then startCompleting s2 n else postHub s2 0 .placeWave)

/-- A group holds rows: it is placed, or its wave is being placed (R346). -/
def holdsRows (g : Group) : Bool := groupPlaced g || g.st == .placing

/-- The strand states of a bank that keep another group off its row (R336). -/
def bankBusy2 (st : StrandState) : Bool :=
  match st with
  | .running => true
  | .ready => true
  | _ => false

/-- A row may take a strand of a group more (R336, R337, R373): a bank is free, neither runs or is ready, its core has not failed, and
its pair is in the mode of the kernel. -/
def rowFree (s : State) (r : Nat) (paired : Bool) : Bool :=
  let a := (strandOf s (2 * r)).st
  let b := (strandOf s (2 * r + 1)).st
  let x := rowOf s r
  let empty (n : Nat) : Bool := (strandOf s (2 * n)).st == .unloaded && (strandOf s (2 * n + 1)).st == .unloaded
  (a == .unloaded || b == .unloaded) && !bankBusy2 a && !bankBusy2 b && !x.failed &&
    (x.paired == paired || (empty (r / 2 * 2) && empty (r / 2 * 2 + 1)))

/-- The rows of a placement: those of each stack (R335, R337). -/
def rowsAt (k : Kernel) (z0 row0 win : Nat) : List Nat :=
  (List.range k.rS).flatMap (fun i => (List.range k.rR).map (fun r => (z0 + i) * 16 + (if k.paired then 2 * (row0 + r) + win else row0 + r)))

/-- A run of stacks is joined by stack edges that take a group (R391): none over a degraded edge, and no timed group over one that retrains. -/
def edgesUp (s : State) (timed : Bool) (z0 n : Nat) : Bool :=
  (List.range (n - 1)).all (fun i => match (linkOf s (z0 + i)).st with
    | .up => true
    | .replaying => (linkOf s (z0 + i)).prev == .up
    | .retraining => !timed && (linkOf s (z0 + i)).mods == 64
    | _ => false)

/-- The placed groups of a kernel that have a part in a stack. -/
def groupsIn (s : State) (k z : Nat) : List Group :=
  (s.groups.filter (fun e => e.2.kern == k && holdsRows e.2 && e.2.zones.any (fun y => y.z == z))).map (·.2)

/-- The scratchpad that a kernel's groups hold in the cells of a row (R223, R302). -/
def spadUse (s : State) (k r : Nat) : Nat :=
  (s.groups.filter (fun e => e.2.kern == k && holdsRows e.2 && (groupRows e.2).contains r)).foldl (fun n e => n + e.2.spadLen / 1024) 0

/-- The budgets of a kernel and its ancestors have room for one group more on these rows (R302). -/
def budgetsFit (s : State) (k : Nat) (zs rows : List Nat) : Bool :=
  let kn := kernelOf s k
  let useRows (n : Nat) : Nat := (s.groups.filter (fun e => e.2.kern == n && holdsRows e.2)).foldl (fun m e => m + e.2.rR * e.2.rS) 0
  budgetRoom s k (fun b => b.rows) useRows (kn.rR * kn.rS) &&
    zs.all (fun z =>
      budgetRoom s k (fun b => b.tok) (fun n => (groupsIn s n z).length * (kernelOf s n).bud.tok) kn.bud.tok &&
      budgetRoom s k (fun b => b.shape) (fun n => (groupsIn s n z).length * (kernelOf s n).bud.shape) kn.bud.shape) &&
    rows.all (fun r => budgetRoom s k (fun b => b.spad) (fun n => spadUse s n r) kn.bud.spad)

/-- The least offset at which `n` bytes of scratchpad lie free in every cell of the rows (R223): a multiple of their size. -/
def spadPlace (s : State) (rows : List Nat) (n : Nat) : Option Nat :=
  let others := (s.groups.filter (fun e => holdsRows e.2 && (groupRows e.2).any rows.contains)).map (·.2)
  if n = 0 then some 0
  else (firstFrom (fun i => others.all (fun g => decide (g.spadBase + g.spadLen ≤ i * n) || decide (i * n + n ≤ g.spadBase))) 0 (0x80000 / n)).map (· * n)

/-- The place of a code image in a stack's instruction memory (R330): the lowest multiple of 64 at which its 2 MiB have room. -/
def imagePlace (st : Stack) (n : Nat) : Option Nat :=
  ((0 :: st.images.map (fun e => ceilDiv (e.2.base + e.2.size) 64 * 64)).filter (fun b =>
    decide (b + n ≤ 0x200000) && st.images.all (fun e => decide (e.2.base + e.2.size ≤ b) || decide (b + n ≤ e.2.base)))).min?

/-- The stack can hold the kernel's image. -/
def imageFits (s : State) (k z : Nat) : Bool :=
  (Sparse.find (stackOf s z).images k).isSome || (imagePlace (stackOf s z) (kernelOf s k).csize).isSome

/-- A position takes a group of a kernel (R336). -/
def positionFits (s : State) (k z0 row0 win : Nat) : Bool :=
  let kn := kernelOf s k
  let rows := rowsAt kn z0 row0 win
  let zs := (List.range kn.rS).map (z0 + ·)
  rows.all (fun r => rowFree s r kn.paired) && zs.all (fun z => (stackOf s z).online) && edgesUp s (decide (kn.mode = 0)) z0 kn.rS &&
    budgetsFit s k zs rows && (spadPlace s rows (kn.bud.spad * 1024)).isSome &&
    zs.all (fun z => decide ((stackOf s z).part.vals.foldl (· + ·) 0 + kn.bud.shape ≤ 4096))

/-- The positions of a kernel's groups in the order of the search (R336): westmost stack, first row or pair, window. -/
def positions (s : State) (kn : Kernel) : List (Nat × Nat × Nat) :=
  (runStarts s kn.rS).flatMap (fun z =>
    if kn.paired then (List.range (9 - kn.rR)).flatMap (fun p => [(z, p, 0), (z, p, 1)])
    else (List.range (17 - kn.rR)).map (fun r => (z, r, 0)))

/-- The first position that takes a group. -/
def findPosition (s : State) (k : Nat) : Option (Nat × Nat × Nat) :=
  (positions s (kernelOf s k)).find? (fun p => positionFits s k p.1 p.2.1 p.2.2)

/-- An instance number whose block of the save pool is free (R305): no group has it that lives or has anything in flight. -/
def instanceFree (s : State) (c i : Nat) : Bool :=
  match Sparse.find s.groups (groupKey c i) with
  | none => true
  | some g => (g.st == .retired || g.st == .killed) && !(s.agenda.any (ofGroup s (groupKey c i)))

/-- The number for a new group of a context. -/
def freeInstance (s : State) (c : Nat) : Option Nat := firstFrom (instanceFree s c) 0 (contextOf s c).ngrp

/-- The record of an ended group whose tokens still wait for its kernel's end stands aside when its block is taken again. -/
def setAside (s : State) (g : Nat) : State :=
  match Sparse.find s.groups g with
  | none => s
  | some x =>
    let n := ((s.groups.keys.filter (fun k => decide (262144 ≤ k))).foldl max 262143) + 1
    { s with groups := (s.groups.drop g).put n x }

/-- The group of a kernel that comes next (R329): the yielded one of least index, else the next of the grid; its number, and the state with
its record. -/
def nextGroup (s : State) (k : Nat) : Option (Nat × State) :=
  let kn := kernelOf s k
  let back := (s.groups.filter (fun e => e.2.kern == k && e.2.st == .yielded)).foldl
    (fun (b : Option (Nat × Nat)) e => match b with
      | some x => if e.2.linear < x.2 then some (e.1, e.2.linear) else b
      | none => some (e.1, e.2.linear)) none
  match back with
  | some (g, _) => some (g, s)
  | none =>
    if kernelTotal kn ≤ kn.nextL then none
    else
      match freeInstance s kn.ctx with
      | none => none
      | some i =>
        let g := groupKey kn.ctx i
        let l := kn.nextL
        some (g, setGroup (setAside s g) g
          { Group.blank with st := .pending, kern := k, ctx := kn.ctx, inst := i, linear := l, gidx := l % kn.gx, gidy := l / kn.gx % kn.gy,
                             gidz := l / (kn.gx * kn.gy), mode := kn.mode, rR := kn.rR, rS := kn.rS, paired := kn.paired })

/-- A kernel still has a group to place. -/
def wantsPlace (s : State) (k : Nat) : Bool :=
  let kn := kernelOf s k
  (kn.st == .pending || kn.st == .running) &&
    (decide (kn.nextL < kernelTotal kn) || s.groups.any (fun e => e.2.kern == k && e.2.st == .yielded))

/-- A kernel comes before another in placement (R329): higher priority, then parse order. -/
def placesBefore (s : State) (a b : Nat) : Bool :=
  let x := kernelOf s a
  let y := kernelOf s b
  decide (y.bud.prio < x.bud.prio) || (decide (x.bud.prio = y.bud.prio) && decide (x.order < y.order))

/-- The kernel whose group is placed next. -/
def nextPlaced (s : State) : Option Nat :=
  (s.kernels.keys.filter (wantsPlace s)).foldl (fun b k => match b with
    | some x => if placesBefore s k x then some k else some x
    | none => some k) none

/-- A kernel's image and table come to a stack that does not hold them yet (R330, steps 2 and 3): the table's image is locked as it reads then
(R277), or, where it has become malformed since the launch, as it was parsed (R278). DEDUCED: log entry 153. -/
def loadStack (s : State) (k z : Nat) : State :=
  let kn := kernelOf s k
  let st := stackOf s z
  let s1 := match Sparse.find st.images k, imagePlace st kn.csize with
    | none, some b =>
      let s0 := setStack s z { st with images := st.images.put k { base := b, size := kn.csize } }
      (segsOf kn.table (kn.csize / 4096 + 2) kn.code kn.csize).foldl (fun x g =>
        if paPkg g.pa = x.dev.pkg then copyRange x (paLocal g.pa) (imemAddr z (b + (g.va - kn.code))) g.len
        else fillOutside x (imemAddr z (b + (g.va - kn.code))) g.len) s0
    | _, _ => s
  let st1 := stackOf s1 z
  if (Sparse.find st1.tables k).isSome then s1
  else
    let image := readTable s1 (paLocal kn.wtab) kn.table.length
    let tbl := if tableWf s1 image then image else kn.table
    let s2 := setStack s1 z { st1 with tables := st1.tables.put k tbl }
    if s1.stackTab.any (fun e => (Sparse.find e.2.tables k).isSome) then s2
    else setKernel (markPages s2 kn.ctx tbl.zipIdx) k { kernelOf s2 k with table := tbl }

/-- The tokens minted for a strand that has not been placed yet (R321): those that it holds by the table and no set lists. -/
def mintedFor (s : State) (agent : Nat) : List HeldTok :=
  ((s.tokens.filter (fun e => e.2.st == .owned && decide (e.2.holder = agent) && decide (e.2.size ≠ 0) &&
      !s.groups.any (fun g => g.2.saves.any (fun r => r.2.held.any (fun h => h.id == tokId s e.1))))).map
    (fun e => freshEntry s (tokId s e.1) .own))

/-- The held set of a strand that is loaded (R222, R223, R305): the placement token, then the set of its save record. -/
def loadedSet (s : State) (g : Group) (tok key : Nat) : List HeldTok :=
  ({ id := tok, base := 0, size := 0, mode := .own, dirty := false, leaving := false, spad := true } ::
    (match Sparse.find g.saves key with
     | some r => r.held
     | none => mintedFor s (strandAgent s.dev.pkg g (key / 16) (key % 16)))).take 16

/-- A row takes a group's strand (R83, R92): its bank is taken, and it is the running bank where the other has nothing that runs. The
row's buffers are empty, its tiles clear, and its drain-mode entry is that of reset (R169, R184, R189). -/
def takeBank (s : State) (g r gstack grow : Nat) : State :=
  let b := if (strandOf s (2 * r)).st = .unloaded then 2 * r else 2 * r + 1
  let t : Strand :=
    { Strand.empty with st := .ready, prev := .ready, grp := g, gstack := gstack, grow := grow, ckret := (groupOf s g).ckret, timer := (strandOf s b).timer }
  let s0 := setStrand s b t
  let w := rowOf s0 r
  let s1 := setRow s0 r { w with res := { w.res with bufs := [], tiles := [] }, tiles := [], creels := [], edge := [], arrBad := [], mmMode := 0,
                                 mmSeed := 0, mmBase := 0 }
  if (strandOf s1 (otherBank b)).st = .unloaded then
      setRow s1 r { rowOf s1 r with run := b % 2, runFrom := (stackOf s1 (r / 16)).zkc + 4, res := MRes.idle, divBusy := 0, xBusy := 0 }
  else if coreIdle s1 b then switchTo s1 b
  else s1

/-- A new placement token (R223), in the group's record. Which agent its entry names as holder the spec does not state (log entry 3); its base is 0.
DESIGN CHOICE: log entry 128. -/
def mintPlacement (s : State) (g : Nat) : Nat × State :=
  let x := groupOf s g
  let (h, s9) := freeValue s
  let (e, s0) := freeEntry s9
  match e with
  | some i =>
    let s1 := setToken s0 i { Token.free with st := .owned, size := 0, base := 0, gen := nextTokGen (tokenOf s i).gen, ctx := x.ctx,
                                              holder := h % 2 ^ 32 }
    (tokId s1 i, setGroup s1 g { groupOf s1 g with ptok := tokId s1 i })
  | none => (0, s0)

/-- A strand's bank is loaded (R86, R222, R305): its held set, with the placement token, its snapshot and its phase cards. -/
def loadBank (s : State) (g tok b : Nat) : State :=
  let x := groupOf s g
  let t := strandOf s b
  let key := t.gstack * 16 + t.grow
  let sv := Sparse.find x.saves key
  setStrand s b { t with held := loadedSet s x tok key, snap := match sv with | some r => r.snap | none => none,
                         cards := match sv with | some r => r.cards | none => [] }

/-- Step 5 of R330 for the groups of a wave, those killed meanwhile apart: the placement token is minted and the banks are loaded. None while the
token table has no free entry. -/
def loadGroups (s : State) (wave : List Nat) : Option State :=
  match wave with
  | [] => some s
  | g :: t =>
    if (groupOf s g).st ≠ .placing then loadGroups s t
    else if !anyFree s then none
    else
      let m := mintPlacement s g
      loadGroups ((banksOf m.2 g).foldl (fun st b => loadBank st g m.1 b) m.2) t

/-- The rows of a group whose kernel declares V, M or B words are woken (R124, R330 step 1). -/
def wakeRows (s : State) (k : Kernel) (rows : List Nat) : State :=
  if k.usev || k.usem || k.useb then
    rows.foldl (fun st r => if (rowOf st r).pwr = .on then st else postArg st 0 r .wakeRequest) s
  else s

/-- The pairs of a paired group's rows are in paired mode (R337). -/
def pairRows (s : State) (rows : List Nat) : State :=
  rows.foldl (fun st r =>
    let a := r / 2 * 2
    let s1 := setRow st a { rowOf st a with paired := true }
    setRow s1 (a + 1) { rowOf s1 (a + 1) with paired := true }) s

/-- A group is placed at a position (R330, R346): it takes its rows, which are woken. -/
def placeGroup (s : State) (g k z0 row0 win : Nat) : State :=
  let kn := kernelOf s k
  let zs := (List.range kn.rS).map (z0 + ·)
  let rows := rowsAt kn z0 row0 win
  let x := groupOf s g
  let fresh := decide (x.placed = 0)
  let gz (z : Nat) : GZone := { z := z, kc := 0, go := false, stopN := 0, stopH := 0, resN := none, reported := false }
  let y := { x with stack0 := z0, row0 := row0, win := win, zones := zs.map gz, placed := (x.placed + 1) % 2 ^ 32, stops := [],
                    spadBase := (spadPlace s rows (kn.bud.spad * 1024)).getD 0, spadLen := kn.bud.spad * 1024, restart := none, withdrawn := false,
                    started := false }
  let s1 := setGroupState (setGroup s g y) g .placing
  let s2 := if fresh then setKernel s1 k { kernelOf s1 k with nextL := kn.nextL + 1 } else s1
  let s3 := (rows.zip (List.range rows.length)).foldl (fun st e => takeBank st g e.1 (e.2 / kn.rR) (e.2 % kn.rR)) (if kn.paired then pairRows s2 rows else s2)
  wakeRows s3 kn rows

/-- The bytes copied to a stack for a group (R330): its shape images, and the image and table where the stack does not hold them yet. -/
def copyBytes (s : State) (k z : Nat) : Nat :=
  let kn := kernelOf s k
  let held := (Sparse.find (stackOf s z).images k).isSome
  64 * kn.shapes.length + (if held then 0 else kn.csize + 16 * kn.table.length)

/-- A wave is chosen (R329): group after group until one cannot be placed; `fuel` bounds their number. -/
def choose (fuel : Nat) (s : State) (wave : List Nat) : State × List Nat :=
  match fuel with
  | 0 => (s, wave)
  | n + 1 =>
    match nextPlaced s with
    | none => (s, wave)
    | some k =>
      match nextGroup s k with
      | none => (s, wave)
      | some (g, s1) =>
        match findPosition s1 k with
        | none => (s, wave)
        | some (z, r, w) => choose n (placeGroup s1 g k z r w) (wave ++ [g])

/-- The next group of the pass waits only for the number of one that has ended and still has something in flight (R329, R305). -/
def awaitsNumber (s : State) : Bool :=
  match nextPlaced s with
  | none => false
  | some k =>
    let c := (kernelOf s k).ctx
    (nextGroup s k).isNone && (List.range (contextOf s c).ngrp).any (fun i =>
      let g := (groupOf s (groupKey c i)).st
      g == .retired || g == .killed)

/-- A pass is made again in the next hub kc while the next group waits for such a number. -/
def retryPass (s : State) : State := if awaitsNumber s then postHub s 1 .placeWave else s

/-- PLACE_WAVE (R329, R330): a pass of the placement logic; the wave's steps follow. While the package is too hot no wave begins (R404). -/
def execPlaceWave (s : State) : Host.Outcome State Fault Refusal :=
  .next (if s.dev.thold then s
    else
      let (s1, wave) := choose 65536 s []
      if wave.isEmpty then retryPass s
      else
        let n := s1.nextWave
        post { retryPass s1 with waves := s1.waves.put n wave, nextWave := n + 1 } .hub s1.hkc 0 0 0 { Ctx.none with arg := 1 } (.ev (.waveRelease n)))

/-- The rows of a wave that must be on are on (R124). -/
def waveAwake (s : State) (wave : List Nat) : Bool :=
  wave.all (fun g =>
    let k := kernelOf s (groupOf s g).kern
    !(k.usev || k.usem || k.useb) || (groupRows (groupOf s g)).all (fun r => (rowOf s r).pwr == .on))

/-- The stacks of a wave's groups, each with its group and kernel; a group killed meanwhile has none. -/
def waveParts (s : State) (wave : List Nat) : List (Nat × Nat × Nat) :=
  wave.flatMap (fun g => if (groupOf s g).st = .placing then (groupOf s g).zones.map (fun y => (g, (groupOf s g).kern, y.z)) else [])

/-- Steps 2 to 4 of R330 for one group on one stack, where its instruction memory has room: with the bytes that each stack's link carries. None
where it has none. -/
def copyPart (acc : Option (State × Sparse Nat)) (p : Nat × Nat × Nat) : Option (State × Sparse Nat) :=
  match acc with
  | none => none
  | some (s, load) =>
    if !imageFits s p.2.1 p.2.2 then none
    else some (loadSlots (loadStack s p.2.1 p.2.2) p.1 p.2.1 p.2.2, load.put p.2.2 (load.getD p.2.2 0 + copyBytes s p.2.1 p.2.2))

/-- The hub link of a stack carries so many bytes more, at 256 in a hub kc (R20, R330): the kc at which they have come. -/
def linkDone (s : State) (e : Nat × Nat) : Nat := max s.hkc (stackOf s e.1).linkFree + ceilDiv e.2 256

/-- A wave's copies are made (R330, steps 2 to 4): the state, and the hub kc at which the last of them has come. None while an instruction memory
has no room. -/
def copyWave (s : State) (wave : List Nat) : Option (State × Nat) :=
  match (waveParts s wave).foldl copyPart (some (s, [])) with
  | none => none
  | some (s1, load) =>
    some (load.foldl (fun st e => setStack st e.1 { stackOf st e.1 with linkFree := linkDone s e }) s1, load.foldl (fun m e => max m (linkDone s e)) s.hkc)

/-- A wave's group goes (R330): its strands start at kc 0, or restart from their snapshots. Its block shows it running from its first pulse
(R346). -/
def startGroup (s : State) (g : Nat) : State :=
  let x := groupOf s g
  if x.st ≠ .placing then s else restartGroup (setGroup s g { x with st := .running }) g

/-- A pending kernel whose wave is released runs (R331); it enters completing at once where nothing of it is left. -/
def startKernel (s : State) (k : Nat) : State :=
  let x := kernelOf s k
  if x.st = .pending then checkKernel (setKernel s k { x with st := .running }) k else s

/-- A wave is released (R330, R331). -/
def releaseWave (s : State) (w : Nat) (wave : List Nat) : State :=
  ((wave.map (fun g => (groupOf s g).kern)).eraseDups).foldl startKernel (wave.foldl startGroup { s with waves := s.waves.drop w })

/-- WAVE_RELEASE (R330, R331): once the wave's rows are awake its copies are made, where there is room for them; when they have come its banks are
loaded and it is released. -/
def execWaveRelease (w : Nat) (s : State) : Host.Outcome State Fault Refusal :=
  let again := post s .hub (s.hkc + 1) 0 0 0 s.cur (.ev (.waveRelease w))
  .next (match Sparse.find s.waves w with
    | none => s
    | some wave =>
      if s.cur.arg = 0 then (match loadGroups s wave with | some s1 => releaseWave s1 w wave | none => again)
      else if !waveAwake s wave then again
      else match copyWave s wave with
        | some (s1, t) => post s1 .hub t 0 0 0 Ctx.none (.ev (.waveRelease w))
        | none => again)

/-- A pending packet has been performed (R316). -/
def performed (s : State) (p : Pending) : Bool :=
  match p with
  | .kernel k => (match (kernelOf s k).st with | .complete => true | .faulted => true | _ => false)
  | .job j n => (match Sparse.find s.jobs j with | some x => decide (x.serial ≠ n) | none => true)
  | .until h => decide (h ≤ s.hkc)

/-- Every packet of a kernel's queue before its own has been performed (R331): the queue may have been disabled since. -/
def earlierDone (s : State) (k : Nat) : Bool :=
  let x := kernelOf s k
  let q := queueOf s x.queue
  x.prior.all (performed s) && (decide (q.life ≠ x.qlife) || q.fence.all (fun e => decide (x.pktNo ≤ e.1) || e.2.isEmpty))

/-- An operation of a kernel's strands or jobs is still under way (R332). -/
def kernelFlight (s : State) (k : Nat) : Bool :=
  let gs := (s.groups.filter (fun e => e.2.kern == k)).map (·.1)
  s.jobs.any (fun e => e.2.kern == k) ||
    s.agenda.any (fun e => (match e.pay with
      | .word _ => gs.contains e.ctx.grp
      | .ev (.accessPerform _) => gs.contains e.ctx.grp
      | .ev (.mQueueIssue _ _) => gs.contains e.ctx.grp
      | .ev (.bQueueIssue _) => gs.contains e.ctx.grp
      | .ev (.handoffRelease _) => gs.contains e.ctx.grp
      | _ => false)) ||
    s.rows.any (fun r => (r.2.mq ++ r.2.bq ++ r.2.foq).any (fun q => gs.contains q.ctx.grp))

/-- The dirty lines that a kernel's strands wrote are written back (R225, R332). -/
def flushCaches (s : State) (k : Nat) : State :=
  s.rows.keys.foldl (fun st r =>
    (rowOf st r).dcache.foldl (fun x e =>
      if e.2.dirty = 0 ∨ (groupOf s (agGroup e.2.owner)).kern ≠ k then x else cleanLine x r e.1 e.2) st) s

/-- A commons counter of a package of the line has a number added or takes it (R319, R332); another package's counter is outside. -/
def bumpCounter (s : State) (pa : Nat) (swap : Bool) (x : Dword) : State :=
  if paPkg pa ≠ s.dev.pkg then s
  else putMem s pa 8 ((if swap then x else BitVec.ofNat 64 (fieldAt s pa 0 8) + x).toNat)

/-- KERNEL_COMPLETE (R331 to R334): with nothing of the kernel left and its queue's earlier packets performed, res is written and the
completion counter takes its add. -/
def execKernelComplete (k : Nat) (s : State) : Host.Outcome State Fault Refusal :=
  let kn := kernelOf s k
  .next (if kn.st ≠ .completing then s
    else if s.hkc < kn.handBy ∨ kernelFlight s k ∨ !earlierDone s k then postHub s 1 (.kernelComplete k)
    else
      let s1 := writeRes (flushCaches s k) kn.blk (if kn.flt then 2 else 1)
      let s2 := if kn.done = 0 then s1 else bumpCounter s1 kn.done false kn.dinc
      let s3 := setKernel s2 k { kn with st := if kn.flt then .faulted else .complete }
      purgeGroups { s3 with groups := s3.groups.map (fun e => if e.2.kern = k then (e.1, { e.2 with saves := [] }) else e) })

end Sys2Proof.Machine
end

