-- ==== Sys2Proof/Machine/Hub.lean ====
section
/-! DEFINITION. What the hub does to placed groups and rows: yield requests and their deadlines (R309, R310), shoot-downs (R287, R288,
R334), and the gating and waking of rows (R124, R328). -/

namespace Sys2Proof.Machine

/-- YIELD_REQUEST_POST (R309): the scheduler's request goes to every zone of a placed group. -/
def execYieldRequestPost (g d : Nat) (s : State) : Host.Outcome State Fault Refusal :=
  let x := groupOf s g
  .next (if !holdsRows x then s
    else
      let s1 := writeBlock (setGroup s g { x with ydcount := d % 2 ^ 32, yreq := x.yreq ||| 1 }) g
      x.zones.foldl (fun st y => post st .hub (st.hkc + lam st 8 y.z) 0 0 0 { Ctx.none with grp := g } (.ev (.yieldRequestArm g y.z d))) s1)

/-- YIELD_REQUEST_ARM (R309, R370): a zone arms the request at its kernel kc k0. Every strand of it has `yreq` 0b11, `ydl` k0 + d, and
interrupt 0x11; the deadline stands on kernel time and on the zone's own clock. -/
def execYieldRequestArm (g z d : Nat) (s : State) : Host.Outcome State Fault Refusal :=
  let x := groupOf s g
  let k0 := (gzone x z).kc
  let real := (stackOf s z).zkc + d
  .next (if !holdsRows x then s
    else
      let s1 := writeBlock (setGroup s g { x with yreq := 3, ydReal := x.ydReal.put z real }) g
      let bs := (banksOf s1 g).filter (fun b => decide (bankStack b = z))
      let s2 := bs.foldl (fun st b => postInterrupt (setStrand st b { strandOf st b with yreq := 3, ydl := k0 + d }) b 0x11 d) s1
      let s3 := post s2 (.kern g z) (k0 + d) 5 (z * 16) 0 { Ctx.none with grp := g, bank := 32 * z } (.ev (.yieldDeadlineExpiry g))
      post s3 (.zone z) real 5 (z * 16) 0 { Ctx.none with grp := g, bank := 32 * z, hand := true } (.ev (.yieldDeadlineExpiry g)))

/-- The deadline whose entry is due has expired (R309): kernel time has reached `ydl`, or the zone's clock has counted d while the group
stands. A group whose strands have all yielded is past its deadline: the yield wins (R113). -/
def deadlineOver (s : State) (c : Ctx) : Bool :=
  let x := groupOf s c.grp
  holdsRows x && x.yreq.getLsbD 1 && !allStrands s c.grp (fun y => y == .done || y == .yielded) && (!c.hand || groupStands s c.grp (bankStack c.bank))

/-- YIELD_DEADLINE_EXPIRY (R309, R310): the group is pre-empted by force. A deadline counted on the zone's clock while the group runs waits
until it stands. -/
def execYieldDeadlineExpiry (g : Nat) (s : State) : Host.Outcome State Fault Refusal :=
  let x := groupOf s g
  .next (if deadlineOver s s.cur then forcePreempt s g
    else if holdsRows x && x.yreq.getLsbD 1 && s.cur.hand then
      post s (.zone (bankStack s.cur.bank)) ((stackOf s (bankStack s.cur.bank)).zkc + 1) 5 s.cur.bank 0 s.cur (.ev (.yieldDeadlineExpiry g))
    else s)

/-- The strands of a kernel in a stack. -/
def kernelBanks (s : State) (k z : Nat) : List Nat :=
  (s.banks.filter (fun e => e.2.st != .unloaded && decide (bankStack e.1 = z) && decide ((groupOf s e.2.grp).kern = k))).map (·.1)

/-- The new image of a table with a shoot-down's changes (R287). -/
def changed (chg : List WChange) (tbl : List WEntry) : List WEntry := chg.foldl (fun l c => listSet l c.idx c.ent) tbl

/-- The next step of a shoot-down's update stands `d` kc from now: the number of the entry to write, or of all of them. -/
def postUpdate (s : State) (k d i : Nat) : State := post s .hub (s.hkc + d) 0 0 0 { Ctx.none with arg := i } (.ev (.shootdownUpdate k))

/-- SHOOTDOWN_POST (R287 step 1, R331, R334): every stack that holds a copy is pending. A kernel that is completing needs no freeze; changes
that would leave a malformed table are not taken; one shoot-down follows another. -/
def execShootdownPost (k : Nat) (chg : List WChange) (s : State) : Host.Outcome State Fault Refusal :=
  let kn := kernelOf s k
  let zs := (s.stackTab.filter (fun z => (Sparse.find z.2.tables k).isSome)).map (·.1)
  .next (match Sparse.find s.kernels k with
    | none => s
    | some _ =>
      if !tableWf s (changed chg kn.table) ∨ chg.any (fun c => kn.table.length ≤ c.idx) then s
      else if kn.shoot ≠ [] then postHub s 1 (.shootdownPost k chg)
      else
        let wait := if kn.st = .completing then [] else zs
        let s1 := setKernel s k { kn with st := if kn.st = .running ∧ wait ≠ [] then .frozen else kn.st, shoot := chg, shootWait := wait }
        let s2 := zs.foldl (fun st z => (kernelBanks st k z).foldl (fun x b =>
          if (strandOf x b).st = .halted then setStrand x b { strandOf x b with stale := true } else x) st) s1
        if wait.isEmpty then postUpdate s2 k 1 0
        else wait.foldl (fun st z => postHub st (lam st 8 z + lam st z 8) (.shootdownAck k z)) s2)

/-- SHOOTDOWN_ACK (R287 step 3, R288): the stack acknowledges once no strand of the kernel in it can still reach a node packet; with the
last stack the entries change. -/
def execShootdownAck (k z : Nat) (s : State) : Host.Outcome State Fault Refusal :=
  let kn := kernelOf s k
  .next (if !kn.shootWait.contains z then s
    else if (kernelBanks s k z).any (canReachNode s) then postHub s 1 (.shootdownAck k z)
    else
      let gs := ((kernelBanks s k z).map (fun b => (strandOf s b).grp)).eraseDups
      let rest := kn.shootWait.filter (fun y => y != z)
      let s1 := setKernel (gs.foldl (fun st g => standForShootdown st g z) s) k { kn with shootWait := rest }
      if rest.isEmpty then postUpdate s1 k 1 0 else s1)

/-- The locked copies of a kernel's table with one entry changed (R287). -/
def changeCopies (s : State) (k : Nat) (c : WChange) : State :=
  { s with stackTab := s.stackTab.map (fun e => (e.1, { e.2 with
      tables := e.2.tables.map (fun t => if t.1 = k then (t.1, changed [c] t.2) else t) })) }

/-- Some table still maps the page of an entry to its frame. -/
def stillMapped (s : State) (c : Nat) (e : WEntry) : Bool :=
  let same (x : WEntry) : Bool := weValid x && decide (weVa x = weVa e) && decide (wePa x = wePa e)
  s.kernels.any (fun k => decide (k.2.ctx = c) && k.2.st != .complete && k.2.st != .faulted && k.2.table.any same) || (contextOf s c).hostTable.any same

/-- A page that a shoot-down has mapped elsewhere, or not at all, leaves the record of its old frame (R281, R283, R287), unless an offline moves that
frame. -/
def unmarkPage (s : State) (c : Nat) (e : WEntry) : State :=
  match frameAt s (paLocal (wePa e)) with
  | none => s
  | some (b, f) =>
    if !weValid e ∨ paPkg (wePa e) ≠ s.dev.pkg ∨ !holdsPage f c (weVa e) ∨ f.st = .moving ∨ f.toward.isSome ∨ stillMapped s c e then s
    else match (pagesOf f).filter (fun p => !(decide (p.1 = c) && decide (p.2.1 = weVa e))) with
      | [] => { s with frames := s.frames.drop b }
      | p :: t => { s with frames := s.frames.put b { f with ctx := p.1, va := p.2.1, size := p.2.2, others := t } }

/-- The old entries that a shoot-down changes. -/
def oldEntries (kn : Kernel) : List WEntry := kn.shoot.filterMap (fun c => kn.table[c.idx]?)

/-- The entries of a shoot-down stand in every copy (R287, steps 4 and 5; R329): the pages that an offline moves move, kernel time restarts, and a
placement pass looks at the kernel's groups again. -/
def endShootdown (s : State) (k : Nat) : State :=
  let kn := kernelOf s k
  let s1 := { s with banks := s.banks.map (fun e => if (groupOf s e.2.grp).kern = k then (e.1, { e.2 with shot := false }) else e) }
  let s2 := setKernel s1 k { kn with st := if kn.st = .frozen then .running else kn.st, table := changed kn.shoot kn.table, shoot := [], shootWait := [] }
  let gs := (s2.groups.filter (fun e => decide (e.2.kern = k) && e.2.stops.contains .shootdown)).map (·.1)
  postHub (checkKernel (gs.foldl (fun st g => endStop st g (groupOf st g).stack0 .shootdown)
    (markPages ((oldEntries kn).foldl (fun st e => unmarkPage st kn.ctx e) ((oldEntries kn).foldl (fun st e => moveWith st kn.ctx e) s2)) kn.ctx
      (kn.shoot.map (fun c => (c.ent, c.idx))))) k) 1 .placeWave

/-- SHOOTDOWN_UPDATE (R287 steps 4 and 5): one changed entry a kc into every copy; 16 kc behind the last, kernel time restarts. -/
def execShootdownUpdate (k : Nat) (s : State) : Host.Outcome State Fault Refusal :=
  let i := s.cur.arg
  .next (match (kernelOf s k).shoot[i]? with
    | some c => postUpdate (changeCopies s k c) k (if i + 1 = (kernelOf s k).shoot.length then 16 else 1) (i + 1)
    | none => endShootdown s k)

/-- The next power state of a row, with its number (R124). -/
def setPower (s : State) (r : Nat) (p : Power) : State := setRow s r { rowOf s r with pwr := p, pwrGen := (rowOf s r).pwrGen + 1 }

/-- An event of a row on its zone's clock, numbered by the row's power state. -/
def postRow (s : State) (r d : Nat) (i : Instr) : State :=
  post s (.zone (r / 16)) ((stackOf s (r / 16)).zkc + d) 0 r 0 { Ctx.none with arg := r, pkc := (rowOf s r).pwrGen } (.ev i)

/-- The row's word path is empty and its V, M and B engines are idle (R124). -/
def arrayQuiet (s : State) (r : Nat) : Bool :=
  let x := rowOf s r
  let eng (w : Word) : Bool := decide (wordEng w = 1) || decide (wordEng w = 2) || decide (wordEng w = 5)
  x.mq.isEmpty && x.bq.isEmpty && x.foq.isEmpty && x.macros.isEmpty &&
    !(s.agenda.any (fun e => decide (bankRow e.ctx.bank = r) && (match e.pay with
      | .word w => decide (wordEng w ≠ 0)
      | .ev (.accessPerform _) => eng e.ctx.word
      | .ev (.resultLand _) => eng e.ctx.word
      | _ => false)))

/-- GATE_REQUEST (R124, R328). -/
def execGateRequest (s : State) : Host.Outcome State Fault Refusal :=
  let r := s.cur.arg
  .next (if (rowOf s r).pwr = .on ∧ !arrayUsed s r then let s1 := setPower s r .draining; postRow s1 r 0 .drainingQuiet else s)

/-- DRAINING_QUIET (R124): a draining row with nothing on its path and its engines idle counts 16 kc; until then it is looked at each kc. -/
def execDrainingQuiet (s : State) : Host.Outcome State Fault Refusal :=
  let r := s.cur.arg
  .next (if (rowOf s r).pwr ≠ .draining then s
    else if arrayQuiet s r then let s1 := setPower s r .drainingQuiet; postRow s1 r 16 .gateCounterExpiry
    else postRow s r 1 .drainingQuiet)

/-- The vector state of both banks of a row goes (R118, R124). -/
def dropVectors (s : State) (r : Nat) : State :=
  [2 * r, 2 * r + 1].foldl (fun st b =>
    match Sparse.find st.banks b with
    | some t => setStrand st b { t with v := [], x := [], k := [], q := [], vbad := [] }
    | none => st) s

/-- GATE_COUNTER_EXPIRY (R124): the row is gated; its vector state, accumulators and creels are lost. -/
def execGateCounterExpiry (s : State) : Host.Outcome State Fault Refusal :=
  let r := s.cur.arg
  .next (if (rowOf s r).pwr = .drainingQuiet ∧ (rowOf s r).pwrGen = s.cur.pkc then
      let s1 := setPower (dropVectors s r) r .gated
      setRow s1 r { rowOf s1 r with tiles := [], creels := [], edge := [], arrBad := [] }
    else s)

/-- WAKE_REQUEST (R124): a gated row wakes in 512 kc; one that drains is on again. -/
def execWakeRequest (s : State) : Host.Outcome State Fault Refusal :=
  let r := s.cur.arg
  .next (match (rowOf s r).pwr with
    | .gated => let s1 := setPower s r .waking; postRow s1 r 512 .wakeComplete
    | .draining => setPower s r .on
    | .drainingQuiet => setPower s r .on
    | _ => s)

/-- WAKE_COMPLETE (R124): the row is on, with the vector state of a first start. Where no strand needs it any more, the hub requests its gating. -/
def execWakeComplete (s : State) : Host.Outcome State Fault Refusal :=
  let r := s.cur.arg
  .next (if (rowOf s r).pwr = .waking ∧ (rowOf s r).pwrGen = s.cur.pkc then requestGate (setPower (dropVectors s r) r .on) r else s)

end Sys2Proof.Machine
end

