-- ==== Sys2Proof/Machine/Queues.lean ====
section
/-! DEFINITION. Queues and contexts: their enabling, opening and closing through the management path (R303, R304, R313, R322), the form of
packets (R316 to R321), and the packets that act at once: FENCE, SIGNAL, TOKEN and NOP. -/

namespace Sys2Proof.Machine

/-- A commons counter (R318, R319): 8-byte aligned, in commons of a package of the line. -/
def counterForm (s : State) (pa : Nat) : Bool :=
  decide (pa % 8 = 0) && decide (pa < 2 ^ 52) && decide (paPkg pa ≤ s.dev.east) &&
    (match placeOf (paLocal pa) with | .commons _ => true | _ => false)

/-- The form of a LAUNCH packet at `p` (R316, R317). -/
def launchForm (s : State) (p : Nat) : Bool :=
  zeroBytes s p 2 4 && zeroBytes s p 22 24 && zeroBytes s p 48 64 && decide (fieldAt s p 8 8 < 2 ^ 52) && decide (fieldAt s p 24 8 < 2 ^ 52) &&
    (decide (fieldAt s p 32 8 = 0) || counterForm s (fieldAt s p 32 8))

/-- Entry `j` of a FENCE packet (R318): counter index, package and add. -/
def fenceEntry (s : State) (p j : Nat) : Nat × Nat × Nat :=
  let x := fieldAt s p (16 + 4 * j) 4
  (bitsOf x 0 22, bitsOf x 22 4, bitsOf x 26 6)

/-- The form of a FENCE packet. -/
def fenceForm (s : State) (p : Nat) : Bool :=
  let n := fieldAt s p 2 1
  zeroBytes s p 3 4 && decide (1 ≤ n) && decide (n ≤ 12) && (List.range 12).all (fun j =>
    if j < n then decide ((fenceEntry s p j).2.1 ≤ s.dev.east) else decide (fieldAt s p (16 + 4 * j) 4 = 0))

/-- The form of a SIGNAL packet (R319). -/
def signalForm (s : State) (p : Nat) : Bool :=
  zeroBytes s p 2 4 && counterForm s (fieldAt s p 8 8) && decide (fieldAt s p 24 1 < 4) && zeroBytes s p 25 26 &&
    decide (fieldAt s p 26 2 < 2048) && zeroBytes s p 28 64

/-- The form of a JOB packet (R320). -/
def jobForm (s : State) (p : Nat) : Bool :=
  zeroBytes s p 2 4 && decide (fieldAt s p 8 8 < 2 ^ 52) && zeroBytes s p 16 64

/-- The form of a TOKEN packet (R321). -/
def tokenForm (s : State) (p : Nat) : Bool :=
  let r := fieldAt s p 16 8
  decide (fieldAt s p 2 1 < 4) && decide (1 ≤ fieldAt s p 3 1) && decide (fieldAt s p 3 1 ≤ 12) && zeroBytes s p 24 64 &&
    (if fieldAt s p 2 1 = 0 then decide (bitsOf r 52 12 = 0) && decide (bitsOf r 6 6 = 0) else decide (r = 0))

/-- The form of a NOP packet. -/
def nopForm (s : State) (p : Nat) : Bool := zeroBytes s p 2 4 && zeroBytes s p 8 64

/-- The packet at `p` is well formed (R316). -/
def packetForm (s : State) (p : Nat) : Bool :=
  decide (fieldAt s p 1 1 < 2) &&
    (match fieldAt s p 0 1 with
     | 1 => launchForm s p
     | 2 => fenceForm s p
     | 3 => signalForm s p
     | 4 => jobForm s p
     | 5 => tokenForm s p
     | 6 => nopForm s p
     | _ => false)

/-- The hub has read a producer index that is out of range (R314). -/
def overflow (x : Queue) : Bool := decide (x.ci + 2 ^ x.k < x.pi) || decide (x.pi < x.ci)

/-- MALFORMED_PACKET (R314, R316): the queue stops, by reason 2 for an overflow and 1 for what its head holds. -/
def execMalformedPacket (s : State) : Host.Outcome State Fault Refusal :=
  let q := s.cur.arg
  .next (stopQueue s q (if overflow (queueOf s q) then 2 else 1) 0 0 0)

/-- NOP (R316, R321): performed when it is parsed. -/
def execNop (s : State) : Host.Outcome State Fault Refusal := .next (parsed s s.cur.arg [])

/-- An MSI-X message goes to the host (R319, R394). -/
def sendMsix (s : State) (v : Nat) : State := { s with msix := v :: s.msix }

/-- SIGNAL (R319): the counter takes its add or its value, and then the host its message. -/
def execSignal (s : State) : Host.Outcome State Fault Refusal :=
  let q := s.cur.arg
  let p := headAddr s q
  let f := fieldAt s p 24 1
  let s1 := bumpCounter (parsed s q []) (fieldAt s p 8 8) (bitOf f 0) (BitVec.ofNat 64 (fieldAt s p 16 8))
  .next (if bitOf f 1 then sendMsix s1 (fieldAt s p 26 2) else s1)

/-- A counter's value as a FENCE reads it (R318): another package's is outside, and free (log entry 3). -/
def counterValue (s : State) (e : Nat × Nat × Nat) : Nat × State :=
  if e.1 = s.dev.pkg then (readNat s (baseCommons + 8 * e.2.1) 8, afterRead s (baseCommons + 8 * e.2.1) 8)
  else
    let (r, s1) := freeValue s
    (r % 2 ^ 64, s1)

/-- Every counter of a fence is read, and meets its threshold. -/
def readFence (s : State) (l : List (Nat × Nat × Nat)) : Bool × State :=
  match l with
  | [] => (true, s)
  | e :: t =>
    let (v, s1) := counterValue s e
    let (b, s2) := readFence s1 t
    (decide (e.2.2 ≤ v) && b, s2)

/-- The counters of FENCE packet number `no` of a queue, if it has not been performed. -/
def fenceOf (x : Queue) (no : Nat) : List (Nat × Nat × Nat) := Sparse.getD x.fence no []

/-- A fence of a queue is read (R318, R322): it is over, or is read again 64 hub kc later, behind the exchanges of its kc (R324). -/
def pollFence (s : State) (q no : Nat) : State :=
  let x := queueOf s q
  let (met, s1) := readFence s (fenceOf x no)
  if met then putQueue s1 q { x with fence := x.fence.map (fun e => if e.1 = no then (no, []) else e), st := if x.st = .fenced then .idle else x.st }
  else post s1 .hub (s1.hkc + 64) 9 0 0 { Ctx.none with arg := q, pkc := no } (.ev .fencePoll)

/-- FENCE (R318, R322): the queue is fenced, and its counters are read at once. -/
def execFencePacket (s : State) : Host.Outcome State Fault Refusal :=
  let q := s.cur.arg
  let p := headAddr s q
  let base := fieldAt s p 8 8
  let l := (List.range (fieldAt s p 2 1)).map (fun j =>
    let e := fenceEntry s p j
    (e.2.1, e.1, (base + e.2.2) % 2 ^ 64))
  let no := (queueOf s q).ci
  let s1 := parsed s q []
  .next (pollFence (putQueue s1 q { queueOf s1 q with st := .fenced, fence := (queueOf s1 q).fence ++ [(no, l)] }) q no)

/-- FENCE_POLL (R322, R324). -/
def execFencePoll (s : State) : Host.Outcome State Fault Refusal :=
  let q := s.cur.arg
  let x := queueOf s q
  .next (if x.st = .disabled ∨ fenceOf x s.cur.pkc = [] then s else pollFence s q s.cur.pkc)

/-- A TOKEN packet whose check fails stops its queue (R321, R454). -/
def refuseToken (s : State) (q cause : Nat) : State := stopQueue s q 3 11 cause 0

/-- The checks of a mint for a target (R236, R321): the region, the target's kind and context, and room. -/
def mintCause (s : State) (c : Nat) (v : Dword) (tgt : Nat) : Option Nat :=
  if (regionOf s v).isNone then some 0x05
  else if !(decide (agKind tgt = 0) || decide (agKind tgt = 2) || decide (agKind tgt = 3)) then some 0x05
  else if agKind tgt ≠ 3 ∧ agCtx tgt ≠ c then some 0x05
  else if anyFree s = false ∨ !tokRoom s c then some 0x08
  else
    match agentBank s tgt with
    | some b => if agKind tgt = 0 ∧ !setFree s b then some 0x08 else none
    | none => none

/-- TOKEN with op 0 (R321): a token is minted for its target, which holds it at once. -/
def execTokenMint (s : State) : Host.Outcome State Fault Refusal :=
  let q := s.cur.arg
  let p := headAddr s q
  let c := (queueOf s q).ctx
  let v : Dword := BitVec.ofNat 64 (fieldAt s p 16 8)
  let tgt := if fieldAt s p 12 4 = noAgent then hostAgent s c else fieldAt s p 12 4
  let (e, s0) := freeEntry s
  .next (match mintCause s c v tgt, regionOf s v, e with
    | none, some (base, z), some i =>
      let s1 := mintNew (parsed s0 q []) i base z c tgt
      mapHeld s1 tgt (fun l => l ++ [freshEntry s1 (tokId s1 i) .own])
    | some f, _, _ => refuseToken s q f
    | none, _, _ => refuseToken s q 0x05)

/-- The checks of a hand-off by the host agent (R229, R232, R321). -/
def hostHandCause (s : State) (c id tgt : Nat) (kind : HandKind) : Option Nat :=
  let t := tokenOf s (tokKey s id)
  let h := heldEntry (contextOf s c).hostHeld id
  let own := match h with | some x => x.mode == .own && !x.leaving | none => false
  if !tokCurrent s id then some 0x0C
  else if kind = .ret then (if own && t.st == .lent then none else some 0x05)
  else if !own then some 0x06
  else if agKind tgt = 1 ∨ 4 ≤ agKind tgt then some 0x05
  else if agKind tgt ≠ 3 ∧ agCtx tgt ≠ t.ctx then some 0x05
  else if t.shares ≠ 0 then some 0x07
  else none

/-- TOKEN with op 1, 2 or 3 (R321): the host's entry is leaving, and the hand-off stands for its H, 12 hub kc after the parse. -/
def hostHand (s : State) (kind : HandKind) : State :=
  let q := s.cur.arg
  let p := headAddr s q
  let c := (queueOf s q).ctx
  let id := fieldAt s p 8 4
  let tgt := if kind = .ret then (tokenOf s (tokKey s id)).lender else fieldAt s p 12 4
  match hostHandCause s c id tgt kind with
  | some f => refuseToken s q f
  | none =>
    let me := hostAgent s c
    let s1 := mapHeld (parsed s q [.until (s.hkc + 12)]) me (onEntry id (fun x => { x with leaving := true }))
    hubHandoff s1 kind id me tgt (max (fieldAt s p 3 1) (max 8 (partyScope s me tgt)))

/-- TOKEN with op 1 (R229, R321). -/
def execTokenLend (s : State) : Host.Outcome State Fault Refusal := .next (hostHand s .lend)

/-- TOKEN with op 2 (R229, R321). -/
def execTokenPass (s : State) : Host.Outcome State Fault Refusal := .next (hostHand s .pass)

/-- TOKEN with op 3 (R232, R321). -/
def execTokenReturn (s : State) : Host.Outcome State Fault Refusal := .next (hostHand s .ret)

/-- QUEUE_LEVEL_AGING (R323): the level of a queue whose head still waits rises by one, up to cap. -/
def execQueueLevelAging (s : State) : Host.Outcome State Fault Refusal :=
  let q := s.cur.arg
  let x := queueOf s q
  .next (if x.since ≠ some s.cur.pkc then s
    else
      let n := if x.cap < x.bud.prio then x.level else min x.cap (x.level + 1)
      post (setQueue s q { x with level := n }) .hub (s.hkc + 2 ^ 20) 0 0 0 s.cur (.ev .queueLevelAging))

/-- A queue block of a context is well formed (R300, R301, R313). -/
def queueForm (s : State) (c a : Nat) : Bool :=
  let k := fieldAt s a 72 1
  let bell := fieldAt s a 80 8
  headerForm s 2 c a && pinned s c a 256 && decide (fieldAt s a 8 8 = (contextOf s c).blk) && decide (fieldAt s a 64 8 % 4096 = 0) &&
    decide (4 ≤ k) && decide (k ≤ 20) && pinned s c (fieldAt s a 64 8) (64 * 2 ^ k) && decide (fieldAt s a 73 1 < 32) &&
    decide (fieldAt s a 74 1 < 64) && decide (fieldAt s a 75 1 ≤ 5) && zeroBytes s a 76 80 && counterForm s bell &&
    decide (paPkg bell = s.dev.pkg) && zeroBytes s a 96 256

/-- The context number of a control block. -/
def blockCtx (s : State) (a : Nat) : Nat := bitsOf (fieldAt s a 0 8) 32 8

/-- The state in which a queue of a context begins or begins again (R322): suspended while the context is halted. -/
def idleOr (s : State) (c : Nat) : QueueState := if (contextOf s c).st = .halted then .suspended else .idle

/-- QUEUE_ENABLE (R313, R322, R399): the management path enables a queue whose block is well formed, whose number is free, and whose
producer index holds 0; else it refuses. -/
def execQueueEnable (blk : Nat) (s : State) : Host.Outcome State Fault Refusal :=
  let c := blockCtx s blk
  let q := fieldAt s blk 74 1
  let live := match (contextOf s c).st with | .opened => true | .halted => true | _ => false
  .next (if s.dev.ready && live && queueForm s c blk && decide ((queueOf s q).st = .disabled) && decide (readNat s (paLocal (fieldAt s blk 80 8)) 8 = 0) then
      let bud := effective (blockInh s blk) (ownBudget s blk) (contextOf s c).bud
      putQueue s q { Queue.disabled with st := idleOr s c, blk := blk, ctx := c, bud := bud, ring := fieldAt s blk 64 8, k := fieldAt s blk 72 1,
                                         cap := fieldAt s blk 73 1 % 16, priv := bitOf (fieldAt s blk 73 1) 4, bell := fieldAt s blk 80 8,
                                         level := bud.prio, life := (queueOf s q).life + 1 }
    else s)

/-- QUEUE_RESTART (R322): a stopped queue parses again, from a `ci` in range. -/
def execQueueRestart (q ci : Nat) (s : State) : Host.Outcome State Fault Refusal :=
  let x := queueOf s q
  let pi := readNat s (paLocal x.bell) 8
  .next (if x.st = .stopped ∧ x.ci ≤ ci ∧ ci ≤ pi then putQueue s q { x with st := idleOr s x.ctx, ci := ci, pi := pi, since := none } else s)

/-- A queue is disabled (R322): what it has not parsed is dropped. -/
def disableQueue (s : State) (q : Nat) : State :=
  let x := queueOf s q
  if x.st = .disabled then s
  else
    let poll (e : Timed) : Bool := decide (e.ctx.arg = q) && (match e.pay with | .ev .fencePoll => true | _ => false)
    dropEntries (putQueue s q { x with st := .disabled, since := none, fence := [] }) poll

/-- QUEUE_DISABLE (R322). -/
def execQueueDisable (s : State) : Host.Outcome State Fault Refusal := .next (disableQueue s s.cur.arg)

/-- A context block is well formed (R300, R301, R303). It lies in host memory, or in memory of the package that management keeps for it. -/
def contextForm (s : State) (a : Nat) : Bool :=
  let c := blockCtx s a
  let recov := fieldAt s a 64 4
  let n := fieldAt s a 88 2
  decide (paPkg a = s.dev.pkg) && placeExists s (paLocal a) && headerForm s 1 c a && decide (fieldAt s a 8 8 = 0) &&
    decide (blockInh s a = 0x0FFF) && (decide (recov = noAgent) || (decide (agKind recov = 0) && decide (agCtx recov = c))) &&
    decide (fieldAt s a 68 1 < 2) && zeroBytes s a 69 72 && decide (fieldAt s a 72 8 < 2 ^ 52) && decide (fieldAt s a 80 8 < 2 ^ 52) &&
    decide (fieldAt s a 80 8 % 4096 = 0) && decide (1 ≤ n) && decide (n ≤ 1024) && zeroBytes s a 90 96 && decide (fieldAt s a 96 8 < 2 ^ 52) &&
    zeroBytes s a 104 256

/-- CONTEXT_OPEN (R303, R304, R399): a free number opens with a well-formed block, under a key of its own (R17; log entry 118); else the management
path refuses. -/
def execContextOpen (blk : Nat) (s : State) : Host.Outcome State Fault Refusal :=
  let c := blockCtx s blk
  .next (if s.dev.ready && contextForm s blk && decide ((contextOf s c).st = .free) then
      setContext { s with freeCtr := s.freeCtr + 1 } c
        { Context.free with st := .opened, key := BitVec.ofNat 512 (Config.freeNat s.freeCtr), blk := blk, bud := effective 0x0FFF (ownBudget s blk) Budget.top, recov := fieldAt s blk 64 4,
                            recovk := fieldAt s blk 96 8, hostbk := bitOf (fieldAt s blk 68 1) 0, backing := fieldAt s blk 72 8,
                            pool := fieldAt s blk 80 8, ngrp := fieldAt s blk 88 2 }
    else s)

/-- HOST_WINDOW_TABLE_REGISTER (R396): the table of an open context, where its image is well formed (R278). -/
def execHostWindowTableRegister (c addr n : Nat) (s : State) : Host.Outcome State Fault Refusal :=
  let tbl := readTable s (paLocal addr) n
  let live := match (contextOf s c).st with | .opened => true | .halted => true | _ => false
  .next (if live && decide (1 ≤ n) && decide (n ≤ 1024) && decide (paPkg addr = s.dev.pkg) && tableWf s tbl then
      markPages (setContext s c { contextOf s c with hostTable := tbl }) c tbl.zipIdx
    else s)

/-- The groups of a context that hold rows. -/
def contextGroups (s : State) (c : Nat) : List Nat := (s.groups.filter (fun e => decide (e.2.ctx = c) && holdsRows e.2)).map (·.1)

/-- CONTEXT_CLOSE (R304, R322, R346): placed groups are pre-empted by force, every group ends, and the context's queues are disabled. -/
def execContextClose (s : State) : Host.Outcome State Fault Refusal :=
  let c := s.cur.arg
  let live := match (contextOf s c).st with | .opened => true | .halted => true | _ => false
  .next (if live then
      let s1 := (contextGroups s c).foldl forcePreempt s
      let s2 := killKernels s1 (liveKernels s1 (fun k => k.ctx == c))
      let s3 := ((s2.queues.filter (fun e => e.2.ctx == c)).map (·.1)).foldl disableQueue s2
      postArg (setContext s3 c { contextOf s3 c with st := .closing }) 0 c .contextFree
    else s)

/-- Every token of a domain goes free (R304). -/
def freeDomain (s : State) (c : Nat) : State :=
  { s with tokens := s.tokens.map (fun e =>
      if e.2.ctx = c ∧ e.2.st ≠ .free then (e.1, { Token.free with gen := nextTokGen e.2.gen }) else e) }

/-- CONTEXT_FREE (R304): with no group placed and no job live, the domain's tokens go free, its barriers count no more (R353), and the
number is released with the frames of its pages. -/
def execContextFree (s : State) : Host.Outcome State Fault Refusal :=
  let c := s.cur.arg
  .next (if (contextOf s c).st ≠ .closing then s
    else if !(contextGroups s c).isEmpty || s.jobs.any (fun e => decide (e.2.ctx = c)) then postArg s 1 c .contextFree
    else
      let s1 := freeDomain s c
      let ended (k : Kernel) : Bool := decide (k.ctx = c) && (k.st == .complete || k.st == .faulted)
      { s1 with contexts := s1.contexts.drop c, frames := s1.frames.filter (fun e => e.2.ctx != c || !e.2.others.isEmpty),
                bounce := s1.bounce.filter (fun e => e.ctx != c), kernels := s1.kernels.filter (fun e => !ended e.2),
                groups := s1.groups.filter (fun e => e.2.ctx != c || s1.agenda.any (ofGroup s1 e.1)),
                barriers := s1.barriers.map (fun e => if e.2.ctx = c then (e.1, { e.2 with kern := 0 }) else e) })

end Sys2Proof.Machine
end

