-- ==== Sys2Proof/Machine/Jobs.lean ====
section
/-! DEFINITION. Jobs as they run (R258, R266 to R273): what each kind reads and writes, where its accesses fail or bounce (R267, R281, R285), how a
job starts, parks, faults and completes, and JOB packets (R320). The accesses of a job perform together when it starts, and its run time lies behind
them. -/

namespace Sys2Proof.Machine

/-- The lines that a record's rows of the index vector touch (R148): `n` 32-bit entries. -/
def indexLines (r : ShapeImg) (n : Nat) : List Nat := runLines (recIdx r) (4 * n)

/-- A byte of the lines that a job has read. -/
def bufByte (buf : Sparse (BitVec 512)) (a : Nat) : Nat := bitsOf (buf.getD (a / 64) 0).toNat (8 * (a % 64)) 8

/-- An element of a record as the lines read hold it, by its index tuple: its bits unchanged (R267). -/
def bufElem (buf : Sparse (BitVec 512)) (r : ShapeImg) (t : Nat × Nat × Nat × Nat) : Nat :=
  let a := elemAddr r t.1 t.2.1 t.2.2.1 t.2.2.2
  match elemBits (recFmt r) with
  | 4 => bitsOf (bufByte buf a) (4 * (t.1 % 2)) 4
  | 16 => bufByte buf a + 256 * bufByte buf (a + 1)
  | _ => bufByte buf a

/-- Entry `i` of a record's index vector. -/
def bufIndex (buf : Sparse (BitVec 512)) (r : ShapeImg) (i : Nat) : Nat :=
  (List.range 4).foldl (fun n k => n + bufByte buf (recIdx r + 4 * i + k) * 2 ^ (8 * k)) 0

/-- The index tuple lies within a record. -/
def inRecord (r : ShapeImg) (t : Nat × Nat × Nat × Nat) : Bool :=
  decide (t.1 < recExt r 0) && decide (t.2.1 < recExt r 1) && decide (t.2.2.1 < recExt r 2) && decide (t.2.2.2 < recExt r 3)

/-- An element of a record, or pad where the tuple lies outside (R150, R267). -/
def elemOrPad (buf : Sparse (BitVec 512)) (r : ShapeImg) (t : Nat × Nat × Nat × Nat) : Nat :=
  if inRecord r t then bufElem buf r t else recPad r % 2 ^ elemBits (recFmt r)

/-- The words of 32 bits that a record's elements make up in its order (R269). -/
def packWords (bits : Nat) (l : List Nat) (fuel : Nat) : List Nat :=
  match fuel with
  | 0 => []
  | k + 1 =>
    if l.isEmpty then []
    else ((l.take (32 / bits)).zip (List.range (32 / bits))).foldl (fun n e => n + e.1 * 2 ^ (bits * e.2)) 0 :: packWords bits (l.drop (32 / bits)) k

/-- The elements of such words. -/
def unpackWords (bits : Nat) (l : List Nat) : List Nat := l.flatMap (fun w => (List.range (32 / bits)).map (fun i => bitsOf w (bits * i) bits))

/-- One step of a reduction (R269, R129). -/
def reduceStep (op a b : Nat) : Nat :=
  match op with
  | 0 => (addF32 (BitVec.ofNat 32 a) (BitVec.ofNat 32 b)).toNat
  | 1 => (vMaxF true false a b).1
  | _ => (a + b) % 2 ^ 32

/-- The packages of a collective (R269), in ascending number. -/
def members (k : BitVec 1024) : List Nat := (List.range 16).filter (fun p => bitOf (cardParam k) p)

/-- `n` values of another package's contribution: outside, and free (log entry 3). -/
def outsideVals (s : State) (bits n : Nat) : List Nat × State :=
  ((List.range n).map (fun i => Config.freeNat (s.freeCtr + i) % 2 ^ bits), { s with freeCtr := s.freeCtr + n })

/-- The contributions of a collective's members, this package's own being `own`. -/
def contributions (s : State) (bits : Nat) (own : List Nat) (ps : List Nat) : List (List Nat) × State :=
  match ps with
  | [] => ([], s)
  | p :: t =>
    let (v, s1) := if p = s.dev.pkg then (own, s) else outsideVals s bits own.length
    let (r, s2) := contributions s1 bits own t
    (v :: r, s2)

/-- A reduction of contributions, element by element in the order of the packages (R269). No member gives no result: a free value. -/
def reduceAll (s : State) (op n : Nat) (l : List (List Nat)) : List Nat × State :=
  match l with
  | [] => outsideVals s 32 n
  | a :: t => (t.foldl (fun r c => List.zipWith (reduceStep op) r c) a, s)

/-- The elements that a job of kinds 1 to 6 writes (R260, R267, R269): the index tuple of each in the destination, and its bits. -/
def jobElems (s : State) (k : BitVec 1024) (src dst : ShapeImg) (buf : Sparse (BitVec 512)) : List ((Nat × Nat × Nat × Nat) × Nat) × State :=
  let bits := elemBits (recFmt src)
  let all (r : ShapeImg) : List (Nat × Nat × Nat × Nat) := (List.range (recCount r)).map (recIndex r)
  match cardKind k with
  | 2 => ((all dst).map (fun t => (t, elemOrPad buf src (t.1, bufIndex buf src t.2.1, t.2.2.1, t.2.2.2))), s)
  | 3 => (((all src).map (fun t => ((t.1, bufIndex buf dst t.2.1, t.2.2.1, t.2.2.2), bufElem buf src t))).filter (fun e => inRecord dst e.1), s)
  | 4 =>
    let own := packWords bits ((all src).map (bufElem buf src)) (recCount src)
    let (cs, s1) := contributions s 32 own (members k)
    let (r, s2) := reduceAll s1 (bitsOf (cardParam k) 16 4) own.length cs
    ((all dst).zip (unpackWords bits r), s2)
  | 5 =>
    let (cs, s1) := contributions s bits ((all src).map (bufElem buf src)) (members k)
    ((all dst).zip cs.flatten, s1)
  | 6 => ((all dst).map (fun t => (t, bufElem buf src (t.2.1, t.1, t.2.2.1, t.2.2.2))), s)
  | _ => ((all dst).map (fun t => (t, bufElem buf src t)), s)

/-- An element laid into the lines that a job writes: data and a mask of the bits written, by line. -/
def layElem (dst : ShapeImg) (m : Sparse (Nat × Nat)) (e : (Nat × Nat × Nat × Nat) × Nat) : Sparse (Nat × Nat) :=
  let a := elemAddr dst e.1.1 e.1.2.1 e.1.2.2.1 e.1.2.2.2
  let bits := elemBits (recFmt dst)
  let put (w : Sparse (Nat × Nat)) (b o n x : Nat) : Sparse (Nat × Nat) := w.put (b / 64) (layBits (w.getD (b / 64) (0, 0)) (8 * (b % 64) + o) n x)
  if bits = 4 then put m a (4 * (e.1.1 % 2)) 4 e.2
  else (List.range (bits / 8)).foldl (fun w k => put w (a + k) 0 8 (bitsOf e.2 (8 * k) 8)) m

/-- The lines of its index vector, which a gather or scatter reads first (R267). -/
def jobIndexLines (k : BitVec 1024) (src dst : ShapeImg) : List Nat :=
  match cardKind k with
  | 2 => indexLines src (recExt dst 1)
  | 3 => indexLines dst (recExt src 1)
  | _ => []

/-- The lines of the elements that a record has at some index tuples, in ascending order. -/
def tupleLines (r : ShapeImg) (l : List (Nat × Nat × Nat × Nat)) : List Nat :=
  (l.foldl (fun (m : Sparse Unit) t =>
    let a := elemAddr r t.1 t.2.1 t.2.2.1 t.2.2.2
    (m.put (a / 64) ()).put ((a + (elemBits (recFmt r) - 1) / 8) / 64) ()) []).keys

/-- The lines of its source that a job of kinds 1 to 6 reads, once its index vector is read (R267): all of them, and of a gather those of the rows
that the vector names. -/
def jobDataLines (k : BitVec 1024) (src dst : ShapeImg) (buf : Sparse (BitVec 512)) : List Nat :=
  if cardKind k = 2 then
    tupleLines src ((((List.range (recCount dst)).map (recIndex dst)).map (fun t => (t.1, bufIndex buf src t.2.1, t.2.2.1, t.2.2.2))).filter (inRecord src))
  else recLines src

/-- Every line that a job of kinds 1 to 6 may read: its source's, and those of its index vector. -/
def jobReadLines (k : BitVec 1024) (src dst : ShapeImg) : List Nat := jobIndexLines k src dst ++ recLines src

/-- The run of a line under the job's table. -/
def jobSeg (j : Job) (line : Nat) : Option Seg := (lookup j.tbl (64 * line)).map (fun e => { va := 64 * line, pa := physOf e (64 * line), len := 64 })

/-- What an access of a job finds: the cause of its fault, whether its write bounces, or that it performs. -/
inductive JobFinds where
  | fails (cause sel : Nat)
  | bounces
  | performs
  deriving DecidableEq, Repr

/-- A line of a job's access lies in one of its declared regions of the kind (R266, R267). -/
def inRegions (l : List (Nat × Nat)) (pa : Nat) : Bool := l.any (fun r => decide (r.1 ≤ pa) && decide (pa + 64 ≤ r.1 + 2 ^ r.2))

/-- The token check of a job's access to a W page, of whichever package, against the card's tokens (R224, R267). -/
def jobToken (s : State) (j : Job) (e : WEntry) (wr : Bool) (pa : Nat) : Option (Nat × Nat) :=
  if weW e then tokenCheck s (groupOf s j.grp) j.toks wr pa 64 else none

/-- What a read of a line finds (R267, R279, R281). -/
def jobReadFinds (s : State) (j : Job) (line : Nat) : JobFinds :=
  match lookup j.tbl (64 * line) with
  | none => .fails 0x03 1
  | some e =>
    let g : Seg := { va := 64 * line, pa := physOf e (64 * line), len := 64 }
    if !weR e then .fails 0x05 1
    else if !inRegions (cardReads j.card) g.pa then .fails 0x05 1
    else if linkLost s (paPkg g.pa) || hostLost s g.pa then .fails 0x32 14
    else match jobToken s j e false g.pa with
      | some x => .fails x.1 11
      | none =>
        match readFinds s j.ctx false g with
        | some x => .fails x.1 (if x.1 = 0x32 then 1 else 13)
        | none => .performs

/-- The pages of a creel-order destination allow its planes to be loaded (R167, R260). -/
def creelPage (e : WEntry) (pa : Nat) : Bool :=
  weX e && (match placeOf (paLocal pa) with | .dram _ _ => decide (baseLinear ≤ paLocal pa) | _ => false)

/-- What a write of a line under a mask of its bits finds (R260, R267, R279, R281, R285, R449): an away or moving page takes it in the bounce buffer. -/
def jobWriteFinds (s : State) (j : Job) (line mask : Nat) : JobFinds :=
  match lookup j.tbl (64 * line) with
  | none => .fails 0x03 2
  | some e =>
    let g : Seg := { va := 64 * line, pa := physOf e (64 * line), len := 64 }
    if !weW e || weC e then .fails 0x05 2
    else if recLayout j.dst = 1 ∧ !creelPage e g.pa then .fails 0x1B 2
    else if !inRegions (cardWrites j.card) g.pa then .fails 0x05 2
    else if linkLost s (paPkg g.pa) then .fails 0x32 14
    else match jobToken s j e true g.pa with
      | some x => .fails x.1 11
      | none =>
        match writeFinds s j.ctx false g (byteMask mask) with
        | some x => if x.1 = 0x04 then .bounces else .fails x.1 (if x.1 = 0x32 then 2 else 13)
        | none => .performs

/-- A job's write marks the entry that covers it dirty (R224). -/
def markJob (s : State) (key : Nat) (j : Job) (pa : Nat) : State :=
  match Sparse.find s.jobs key with
  | some x => { s with jobs := s.jobs.put key { x with toks := x.toks.map (fun h =>
      if h.mode == .own && (checkPoints pa 64).any (heldCovers (groupOf s j.grp) h) then { h with dirty := true } else h) } }
  | none => s

/-- A job's write of a line: to memory, or into the bounce buffer (R285). Another package's memory is outside. -/
def jobWrite (s : State) (key : Nat) (j : Job) (w : Nat × Nat × Nat) : State :=
  match jobSeg j w.1 with
  | none => s
  | some g =>
    if jobWriteFinds s j w.1 w.2.2 = .bounces then
      { markJob s key j g.pa with
        bounce := s.bounce ++ [{ ctx := j.ctx, va := 64 * w.1, data := BitVec.ofNat 512 w.2.1, mask := BitVec.ofNat 512 w.2.2, kern := j.kern }] }
    else if paPkg g.pa = s.dev.pkg then
      putBits (markJob s key j g.pa) (paLocal g.pa) (BitVec.ofNat 512 w.2.1) (BitVec.ofNat 512 w.2.2)
    else markJob s key j g.pa

/-- The bounce buffer takes `n` lines more of a job (R285, R302): 64 MiB in all, and the budgets of its kernel and ancestors in KiB. -/
def bounceRoom (s : State) (j : Job) (n : Nat) : Bool :=
  n == 0 || (decide (s.bounce.length + n ≤ 2 ^ 20) &&
    budgetRoom s j.kern (fun b => 16 * b.bounce) (fun k => (s.bounce.filter (fun e => decide (e.kern = k))).length) n)

/-- The bytes of host memory among a job's lines. -/
def hostBytes (s : State) (j : Job) (lines : List Nat) : Nat := 64 * ((lines.filterMap (jobSeg j)).filter (fun g => inHost s g.pa)).length

/-- The zone of the engine that runs a job (R258, R451). -/
def jobZone (key : Nat) : Nat := key / 64

/-- The hub links that a transfer between two zones passes (R19, R20): none within a stack or over a stack edge. -/
def linksBetween (a b : Nat) : List Nat :=
  if a = b ∨ (edgeLink a b).isSome then [] else [a, b].filter (fun z => decide (z < 8))

/-- The bytes that a job's lines bring over the hub link of each stack. -/
def hubBytes (s : State) (key : Nat) (j : Job) (lines : List Nat) : List (Nat × Nat) :=
  let zs := (lines.filterMap (jobSeg j)).flatMap (fun g => linksBetween (jobZone key) (paZone s g.pa))
  (List.range 8).map (fun z => (z, 64 * (zs.filter (fun y => decide (y = z))).length))

/-- The kc by which what a job reads and writes delays it: the host port and the hub links (R20), and words that are rebuilt (R380). -/
def jobDelay (s : State) (key : Nat) (j : Job) (reads writes : List Nat) : Nat × State :=
  let segs := (reads ++ writes).filterMap (jobSeg j)
  let c := carry s (hostBytes s j reads) (hostBytes s j writes) (hubBytes s key j (reads ++ writes))
  (if segs.any (fun g => decide (paPkg g.pa = s.dev.pkg) && runRebuilds s (paLocal g.pa) 64) then c.1 + 64 else c.1, c.2)

/-- A line is read for a job: its data (R375); another package's is free (log entry 3). -/
def jobRead (s : State) (j : Job) (buf : Sparse (BitVec 512)) (line : Nat) : Sparse (BitVec 512) × State :=
  match jobSeg j line with
  | none => (buf, s)
  | some g => let r := readSegs s [g]; (buf.put line (BitVec.ofNat 512 (leNat r.1)), r.2)

/-- The lines read for a job. -/
def jobReads (s : State) (j : Job) (buf : Sparse (BitVec 512)) (ls : List Nat) : Sparse (BitVec 512) × State :=
  match ls with
  | [] => (buf, s)
  | l :: t => let r := jobRead s j buf l; jobReads r.2 j r.1 t

/-- What running a job's accesses comes to: it runs for some kc more, waits for bounce space with something left to write, or faults at an
address. -/
inductive JobRun where
  | runs (s : State) (d : Nat)
  | parks (s : State) (todo : List (Nat × Nat × Nat))
  | faults (s : State) (cause sel addr : Nat)
  deriving DecidableEq, Repr

/-- The first line of a list at which an access of a job fails. -/
def firstFails (f : Nat → JobFinds) (ls : List Nat) : Option (Nat × Nat × Nat) :=
  ls.findSome? (fun l => match f l with | .fails c x => some (c, x, 64 * l) | _ => none)

/-- A line that a failing access reads or writes in part is uncorrectable: its page is poisoned (R286, R449). -/
def poisonLine (s : State) (j : Job) (cause addr : Nat) : State :=
  if cause = 0x32 then
    match jobSeg j (addr / 64) with
    | some g => if paPkg g.pa = s.dev.pkg then poisonSegs s [g] else s
    | none => s
  else s

/-- A member of a collective is out of reach (R393). -/
def memberLost (s : State) (k : BitVec 1024) : Bool :=
  (cardKind k == 4 || cardKind k == 5) && (members k).any (linkLost s)

/-- A job's writes one by one (R267, R270, R285): one that lands on an away or moving page with the bounce buffer full parks the job, with this write
and those behind it still to do. -/
def jobWrites (s : State) (key : Nat) (j : Job) (d : Nat) (ws : List (Nat × Nat × Nat)) : JobRun :=
  match ws with
  | [] => .runs s d
  | w :: t =>
    match jobWriteFinds s j w.1 w.2.2 with
    | .fails c x => .faults (poisonLine s j c (64 * w.1)) c x (64 * w.1)
    | .bounces => if bounceRoom s j 1 then jobWrites (jobWrite s key j w) key j d t else .parks s (w :: t)
    | .performs => jobWrites (jobWrite s key j w) key j d t

/-- The accesses of a job of kinds 1 to 6 (R267, R269): every read, its index vector first, then every write. A member that a retired link cuts off
faults the job (R393). -/
def runCard (s : State) (key : Nat) (j : Job) : JobRun :=
  let idl := jobIndexLines j.card j.src j.dst
  if memberLost s j.card then .faults s 0x32 14 0
  else match firstFails (jobReadFinds s j) idl with
  | some (c, x, a) => .faults (poisonLine s j c a) c x a
  | none =>
    let q := jobReads s j [] idl
    let ls := jobDataLines j.card j.src j.dst q.1
    match firstFails (jobReadFinds q.2 j) ls with
    | some (c, x, a) => .faults (poisonLine q.2 j c a) c x a
    | none =>
      let r := jobReads q.2 j q.1 ls
      let e := jobElems r.2 j.card j.src j.dst r.1
      let ws := (e.1.foldl (layElem j.dst) []).map (fun w => (w.1, w.2.1, w.2.2))
      let d := jobDelay s key j (idl ++ ls) (ws.map (·.1))
      jobWrites d.2 key j d.1 ws

/-- A lost region shares a byte with a run of package-local bytes (R242). -/
def rangeLost (s : State) (a n : Nat) : Bool :=
  s.tokens.any (fun e => decide (e.1 < 65536) && e.2.st == .lost && runsShare e.2.base (2 ^ e.2.size) a n)

/-- The addresses of hub SRAM's tables, which no job reaches (R221, R348): the bounce buffer, the token table and the barriers. -/
def hubTable (s : State) (pa : Nat) : Bool :=
  decide (paPkg pa = s.dev.pkg) && (match placeOf (paLocal pa) with | .bounce => true | .tokens => true | .barriers => true | _ => false)

/-- A page of a context with W shares bytes with a run of physical memory (R224). -/
def pageW (s : State) (c pa n : Nat) : Bool :=
  let w (e : WEntry) : Bool := weValid e && weW e && decide (paPkg (wePa e) = paPkg pa) && runsShare (paLocal (wePa e)) (pageBytes (weSize e)) (paLocal pa) n
  (contextOf s c).hostTable.any w || s.kernels.any (fun k => decide (k.2.ctx = c) && k.2.table.any w)

/-- The token check of a page move's read or write (R224, R267), with the operand selector. -/
def moveToken (s : State) (j : Job) (wr : Bool) (pa n : Nat) : Option Nat :=
  if pageW s j.ctx pa n then (tokenCheck s (groupOf s j.grp) j.toks wr pa n).map (·.1) else none

/-- What a page move finds that fails it (R221, R224, R267, R375, R393): the cause, the operand selector and the address. -/
def moveFails (s : State) (j : Job) (r w n : Nat) : Option (Nat × Nat × Nat) :=
  let here (a : Nat) : Bool := decide (paPkg a = s.dev.pkg)
  if hubTable s r || hubTable s (r + n - 1) then some (0x05, 1, r)
  else if hubTable s w || hubTable s (w + n - 1) then some (0x05, 2, w)
  else if here r && rangeLost s (paLocal r) n then some (0x0B, 1, r)
  else if here w && rangeLost s (paLocal w) n then some (0x0B, 2, w)
  else if linkLost s (paPkg r) || hostLost s r then some (0x32, 14, r)
  else if linkLost s (paPkg w) then some (0x32, 14, w)
  else match moveToken s j false r n, moveToken s j true w n with
    | some c, _ => some (c, 11, r)
    | none, some c => some (c, 11, w)
    | none, none => if here r && rangeDead s (paLocal r) n then some (0x32, 1, r) else none

/-- The poisoned pages that a move of `n` bytes rewrites whole are resident again (R286). -/
def repairPages (s : State) (a n : Nat) : State :=
  { s with frames := s.frames.map (fun f =>
      if f.2.st = .poisoned ∧ a ≤ f.1 ∧ f.1 + pageBytes f.2.size ≤ a + n then (f.1, { f.2 with st := .resident }) else f) }

/-- A page move (R267, R286): the write region takes the read region's content, and a poisoned page that it rewrites whole is resident again. It
reaches frames by their physical addresses. DESIGN CHOICE: the first read region goes to the first write region, over the smaller of the two sizes,
and 0x05 with selector 0 where one is missing (log entry 146). -/
def runMove (s : State) (j : Job) : JobRun :=
  match cardReads j.card, cardWrites j.card with
  | r :: _, w :: _ =>
    let n := 2 ^ min r.2 w.2
    let src := paLocal r.1
    let dst := paLocal w.1
    let here (a : Nat) : Bool := decide (paPkg a = s.dev.pkg)
    match moveFails s j r.1 w.1 n with
    | some f => .faults (if f.1 = 0x32 ∧ here r.1 then poisonRange s src n else s) f.1 f.2.1 f.2.2
    | none =>
      let d := carryMove s r.1 w.1 n
      let d1 := if here r.1 && rangeRebuilds s src n then d.1 + 64 else d.1
      if !here w.1 then .runs (if here r.1 then readRange d.2 src n else d.2) d1
      else if here r.1 then .runs (repairPages (copyRange d.2 src dst n) dst n) d1
      else .runs (repairPages (fillOutside d.2 dst n) dst n) d1
  | _, _ => .faults s 0x05 0 0

/-- The accesses of a job, or what a parked one has left of them (R270). -/
def runJob (s : State) (key : Nat) (j : Job) : JobRun :=
  if j.st = .parked then jobWrites s key j 0 j.todo else if cardKind j.card = 7 then runMove s j else runCard s key j

/-- The record of a job's fault (R272). -/
def jobRec (s : State) (j : Job) (cause sel addr : Nat) : FaultRec :=
  { pkg := s.dev.pkg, restartable := false, late := true, col := 0, row := if j.kern = 0 then 0 else j.row % 16, stack := j.stack % 8, opsel := sel,
    eng := 3, cause := cause, waddr := j.waddr, pkc := j.pkc, addr := addr, detail := j.agent + cardKind j.card * 2 ^ 32 }

/-- The bank of a job's submitter, if the strand is placed and has not ended. -/
def submitterBank (s : State) (j : Job) : Option Nat :=
  if agKind j.submitter ≠ 0 then none
  else match agentBank s j.submitter with
    | none => none
    | some b =>
      match (strandOf s b).st with
      | .done => none
      | .yielded => none
      | .failed => none
      | _ => some b

/-- The jobs that wait for a job which has gone are ready once nothing else holds them (R253, R270). -/
def freeEdges (s : State) (serial : Nat) : State :=
  (s.jobs.filter (fun e => e.2.edges.contains serial)).foldl (fun st e =>
    match Sparse.find st.jobs e.1 with
    | none => st
    | some j =>
      let l := j.edges.filter (fun x => x != serial)
      if l.isEmpty ∧ j.st = .queued then postJob { st with jobs := st.jobs.put e.1 { j with edges := l, st := .ready } } 0 (.jobStart e.1)
      else { st with jobs := st.jobs.put e.1 { j with edges := l } }) s

/-- A job's slot is released (R270). -/
def dropJob (s : State) (key serial : Nat) : State := freeEdges { s with jobs := s.jobs.drop key } serial

/-- The shares that a job carries leave its submitter's set with it (R239). -/
def dropShares (s : State) (j : Job) : State :=
  (j.toks.filter (fun h => h.mode == .share)).foldl (fun st h => mapHeld st j.submitter (dropEntry h.id)) s

/-- JOB_FAULT (R272, R239): its tokens go as a failed agent's, the record is logged, and the submitting strand takes it if it is placed. -/
def faultJob (s : State) (key : Nat) (j : Job) (cause sel addr : Nat) : State :=
  let r := jobRec s j cause sel addr
  let toks := (match Sparse.find s.jobs key with | some x => x.toks | none => j.toks).filter (fun h => !h.spad)
  let s1 := dropJob (dropShares (failAgent s j.agent toks) j) key j.serial
  match submitterBank s1 j with
  | some b =>
    let c : Ctx := { Ctx.none with bank := b, grp := (strandOf s1 b).grp, tbl := j.tbl }
    takeException (logJobFault s1 b r) b r (bankKc s1 b) c [] none
  | none => logRec s1 2 1 j.tag j.ctx 0 (some r)

/-- The kc for which a refresh slot holds the accesses of a job that are to come (R376). -/
def jobHold (s : State) (j : Job) : Nat :=
  let lines (l : List Nat) : Nat := (l.filterMap (jobSeg j)).foldl (fun m g => max m (slotLeft s g.pa g.len)) 0
  if j.st = .parked then lines (j.todo.map (·.1))
  else if cardKind j.card = 7 then (cardReads j.card ++ cardWrites j.card).foldl (fun m r => max m (slotLeft s r.1 (2 ^ r.2))) 0
  else lines (jobReadLines j.card j.src j.dst ++ recLines j.dst)

/-- A job's accesses run (R270): it goes on to complete after a variable time (log entry 3), waits for bounce space, or faults. -/
def launchJob (s : State) (key : Nat) (j : Job) : State :=
  match runJob s key j with
  | .runs s1 d =>
    let (r, s2) := freeValue s1
    (match Sparse.find s2.jobs key with
     | some x => postHub { s2 with jobs := s2.jobs.put key { x with st := .running, todo := [], held := false } } (1 + d + r) (.jobComplete key)
     | none => s2)
  | .parks s1 l =>
    (match Sparse.find s1.jobs key with
     | some x => postJob { s1 with jobs := s1.jobs.put key { x with st := .parked, todo := l, held := false } } 1 (.jobUnpark key)
     | none => s1)
  | .faults s1 c x a => faultJob s1 key j c x a

/-- The latest perform kc of the submitter's accesses that a job's start waits for is not past (R253): those of its class, up to its packet, of the
strand or of the handler that submitted it. -/
def classHeld (s : State) (j : Job) : Bool :=
  !j.phase && decide (agKind j.submitter = 0) &&
    (match agentBank s j.submitter with
     | some b => decide ((strandOf s b).grp = j.grp) &&
        decide (timeOf s (ctxClk { Ctx.none with bank := b, grp := j.grp, hand := j.hand }) ≤ latestAccess s j.hand b j.pkc (2 ^ cardCls j.card))
     | none => false)

/-- A job's start waits (R253, R268): for the hand-offs of its tokens, and for the submitter's earlier accesses in its class. -/
def startHeld (s : State) (j : Job) : Bool :=
  s.agenda.any (fun e => match e.pay with | .ev (.handoffRelease h) => decide (h.target = j.agent) | _ => false) ||
    classHeld s j

/-- A ready job goes before another of its scheduler (R270). -/
def goesBefore (a b : Job) : Bool :=
  decide (cardPrio b.card < cardPrio a.card) || (decide (cardPrio a.card = cardPrio b.card) && decide (a.serial < b.serial))

/-- The job is the scheduler's choice (R270): no other that could start goes before it, and fewer than 16 run. -/
def chosen (s : State) (key : Nat) (j : Job) : Bool :=
  let mine := s.jobs.filter (fun e => decide (e.1 / 64 = key / 64))
  decide ((mine.filter (fun e => e.2.st == .running)).length < 16) &&
    !mine.any (fun e => e.2.st == .ready && goesBefore e.2 j && !startHeld s e.2)

/-- A job begins to run (R270), its accesses held where a refresh slot holds them (R376). -/
def beginJob (s : State) (key : Nat) (j : Job) : State :=
  if jobHold s j = 0 then launchJob s key j
  else postJob { s with jobs := s.jobs.put key { j with st := .running, held := true } } (jobHold s j) (.jobStart key)

/-- JOB_START (R270, R376): the job runs if it may start and is chosen, or is over its hold; else it is looked at again in the next hub kc. -/
def execJobStart (job : Nat) (s : State) : Host.Outcome State Fault Refusal :=
  .next (match Sparse.find s.jobs job with
    | none => s
    | some j =>
      if j.st = .running ∧ j.held then beginJob s job j
      else if j.st ≠ .ready then s
      else if startHeld s j || !chosen s job j then postJob s 1 (.jobStart job)
      else beginJob s job j)

/-- JOB_UNPARK (R270, R285, R376): the parked job's writes are tried again. -/
def execJobUnpark (job : Nat) (s : State) : Host.Outcome State Fault Refusal :=
  .next (match Sparse.find s.jobs job with
    | none => s
    | some j =>
      if j.st ≠ .parked then s
      else if jobHold s j = 0 then launchJob s job j
      else postJob s (jobHold s j) (.jobUnpark job))

/-- Where a token goes at a job's completion (R271): by its disp, from the zone of the engine that ran the job, with H at the completion kc. -/
def disposeTok (s : State) (key : Nat) (j : Job) (i : Nat) : State :=
  let id := cardTok j.card i
  let t := tokenOf s (tokKey s id)
  let h (k : HandKind) (tgt : Nat) : Handoff :=
    { kind := k, tok := id, giver := j.agent, target := tgt, scope := max (cardScope j.card) (partyScope s j.agent tgt), zone := jobZone key, stamp := s.hkc }
  match heldEntry j.toks id with
  | none => s
  | some x =>
    if x.spad then s
    else if x.mode == .share then mapHeld s j.submitter (onEntry id (fun y => { y with leaving := false }))
    else match cardDisp j.card i with
      | 0 => releaseHandoff s (h .ret j.submitter)
      | 1 => releaseHandoff s (h .pass (cardTarget j.card))
      | _ =>
        let s1 := setToken (mapHeld s j.agent (dropEntry id)) (tokKey s id)
          { t with st := .inFlight, hscope := max (cardScope j.card) (partyScope s j.agent (cardTarget j.card)), target := cardTarget j.card,
                   arrived := false, ret := false }
        postArrival s1 (h .lend (cardTarget j.card))

/-- A job credits its barrier (R271, R355): one of the hub's scheduler at once, one of a stack's when its message reaches the hub. -/
def creditJob (s : State) (key : Nat) (j : Job) : State :=
  let z := jobZone key
  let e : BarEvent := { idx := cardBar j.card, ctx := j.ctx, credit := cardCredit j.card, src := if z = 8 then 200 + key % 64 else 2 + j.row }
  if z = 8 then post s .hub s.hkc 0 e.src 0 Ctx.none (.ev (.barrierEvent e))
  else
    let (a, s1) := arrivalAt s (9 * z + 8) s.hkc (s.hkc + lam s z 8) s.hkc false
    post s1 .hub a 0 e.src 0 Ctx.none (.ev (.barrierEvent e))

/-- The context of a job's follow-on word (R192, R268): `hdr` marks it, and `seed` and `serial` hold the job's agent id and kind (R272). -/
def followOnCtx (j : Job) : Ctx :=
  { Ctx.none with bank := 4096, grp := j.grp, waddr := j.waddr, hdr := 1, nxt := agStack j.submitter * 16 + agRow j.submitter,
                  word := BitVec.ofNat 32 (cardFoword j.card), ra := BitVec.ofNat 64 (cardFoa j.card), rb := BitVec.ofNat 64 (cardFob j.card),
                  seed := BitVec.ofNat 32 j.agent, serial := BitVec.ofNat 32 (cardKind j.card), recs := j.foImg, tbl := [] }

/-- JOB_COMPLETE (R271): tokens, barrier, follow-on word, and the slot is released. -/
def execJobComplete (job : Nat) (s : State) : Host.Outcome State Fault Refusal :=
  .next (match Sparse.find s.jobs job with
    | none => s
    | some j =>
      if j.st ≠ .running then s
      else
        let s1 := (List.range (cardNtok j.card)).foldl (fun st i => disposeTok st job j i) s
        let s2 := creditJob s1 job j
        let s3 := if cardFo j.card then enterFollowOn s2 (followOnCtx j) else s2
        dropJob s3 job j.serial)

/-- A token of a JOB packet's card (R268, R320): held own by the host agent, or as a share that covers only read regions. -/
def hostCarried (s : State) (c : Nat) (k : BitVec 1024) (i : Nat) : Option Nat :=
  let id := cardTok k i
  if !tokCurrent s id then some 0x0C
  else
    match heldEntry (contextOf s c).hostHeld id with
    | none => some 0x06
    | some h =>
      if h.leaving then some 0x06
      else match h.mode with
        | .own => none
        | .lentOut => some 0x06
        | .share => if (cardWrites k).any (regionsMeet (globalOf s h.base, h.size)) then some 0x06 else if cardDisp k i = 0 then none else some 0x0D

/-- The checks of a JOB packet's card (R268, R320): the cause and selector of the first that fails. The host agent has no slots, so that a handle
of another kind than 7 is never current. -/
def jobPacketFail (s : State) (q : Nat) (a : Nat) (k : BitVec 1024) : Option (Nat × Nat) :=
  let x := queueOf s q
  if a % 128 ≠ 0 then some (0x09, 1)
  else if !pinned s x.ctx a 128 then some (0x05, 1)
  else if !cardForm k then some (0x0D, 1)
  else if cardKind k = 7 ∧ !x.priv then some (0x05, 1)
  else if cardKind k ≠ 7 ∨ cardSrc k ≠ 0 ∨ cardDst k ≠ 0 then some (0x0C, 1)
  else if cardFo k then some (0x0D, 1)
  else match (List.range (cardNtok k)).findSome? (hostCarried s x.ctx k) with
    | some 0x0D => some (0x0D, 1)
    | some f => some (f, 11)
    | none => if jobRoom s (q, x.life) x.bud x.ctx ∧ freeSlot s 8 < 64 then none else some (0x08, 1)

/-- JOB (R320): the card is copied and checked, and the job enters the hub's scheduler; a check that fails stops the queue. -/
def execJobPacket (s : State) : Host.Outcome State Fault Refusal :=
  let q := s.cur.arg
  let x := queueOf s q
  let a := fieldAt s (headAddr s q) 8 8
  let k : BitVec 1024 := BitVec.ofNat 1024 (fieldAt s a 0 128)
  .next (match jobPacketFail s q a k with
    | some f => stopQueue s q 3 f.2 f.1 0
    | none =>
      let key := 8 * 64 + freeSlot s 8
      let me := hostAgent s x.ctx
      let ids := (List.range (cardNtok k)).map (cardTok k)
      let toks := ids.filterMap (heldEntry (contextOf s x.ctx).hostHeld)
      let j : Job :=
        { st := .queued, serial := 0, card := k, src := 0, dst := 0, agent := 0, submitter := me, ctx := x.ctx, grp := 2 ^ 20, kern := 0, stack := 8,
          row := 128 + q, waddr := 0, pkc := s.hkc, sched := 8, tbl := (contextOf s x.ctx).hostTable, toks := toks.map jobEntry, edges := [],
          phase := false, foImg := [], todo := [], hand := false, tag := fieldAt s (headAddr s q) 4 4, qlife := x.life, held := false }
      let s1 := enterJob (mapHeld s me (fun l => l.map (fun h => if ids.contains h.id then { h with leaving := true } else h))) key j
      let s2 := (toks.zip (List.range toks.length)).foldl (fun st e =>
        if e.1.mode == .share then st
        else hubHandoff st (if cardDisp k e.2 = 1 then .pass else .lend) e.1.id me (jobAgent s key) (cardScope k)) s1
      parsed s2 q [.job key s.nextJob])

end Sys2Proof.Machine
end

