-- ==== Sys2Proof/Machine/Links.lean ====
section
/-! DEFINITION. The links as the package sees them: flits received and their replays (R387 to R389), the states of a link (R390 to R392),
and what a retired link cuts off (R393). A flit of a stack edge stands for the check of what the agenda has on its way there; one of an edge
link is received from the neighbour (log entry 16). -/

namespace Sys2Proof.Machine

/-- The modules of a link at full width (R392). -/
def linkWidth (l : Nat) : Nat := if l < 8 then 64 else if l = 10 then 1 else 8

/-- The stack edge and the slot on which an entry of the agenda is on its way (R387, R388): a chain partial, or a message between
neighbouring stacks, a hand-off among them. -/
def onEdge (e : Timed) : Option (Nat × Nat) :=
  match e.pay with
  | .ev (.chainPartialArrival p) => if p.row < 16 then none else some (p.row / 16 - 1, edgeSlot (p.row - 16) false)
  | .ev (.messageArrival _) =>
    let a := bankStack e.ctx.pkc
    let b := bankStack e.ctx.bank
    (edgeLink a b).map (fun l => (l, edgeSlot (bankRow e.ctx.pkc) (decide (b < a))))
  | .ev (.handoffArrival h) =>
    let b := match e.clk with | .kern _ z => z | .zone z => z | .hub => 8
    (edgeLink h.zone b).map (fun l => (l, edgeSlot (agRow h.giver) (decide (b < h.zone))))
  | _ => none

/-- The entry is on its way from the hub to a stack (R389): a barrier's notice, a hub's hand-off, or a message between stacks that no edge
joins. -/
def fromHub (z : Nat) (e : Timed) : Bool :=
  match e.pay with
  | .ev (.barrierNotice n) => decide (n.stack = z)
  | .ev (.handoffArrival h) => (e.clk == .zone z || (match e.clk with | .kern _ y => y == z | _ => false)) && decide (h.zone ≠ z) && (edgeLink h.zone z).isNone
  | .ev (.messageArrival _) => decide (bankStack e.ctx.bank = z) && decide (bankStack e.ctx.pkc ≠ z) && (edgeLink (bankStack e.ctx.pkc) z).isNone
  | _ => false

/-- A replay on the wire from the hub to a stack (R389): what is on its way comes 24 kc later. -/
def hubReplay (s : State) (z : Nat) : State :=
  { s with agenda := s.agenda.map (fun e => if fromHub z e then { e with at_ := e.at_ + 24 } else e) }

/-- What is on its way over a stack edge arrives at another time. -/
def moveArrivals (s : State) (f : Nat × Nat → Bool) (g : Nat → Nat) : State :=
  { s with agenda := s.agenda.map (fun e => match onEdge e with | some x => if f x then { e with at_ := g e.at_ } else e | none => e) }

/-- A count that stops at 2^32 − 1 or 2^16 − 1 (R392). -/
def saturate (n m : Nat) : Nat := if m < n then m else n

/-- A link starts to retrain (R390): what it carries is held at the sender. -/
def startRetrain (s : State) (l : Nat) : State :=
  let x := linkOf s l
  let s1 := setLink s l { x with st := .retraining, retr := saturate (x.retr + 1) 0xFFFF, since := s.hkc, fails := 0 }
  postArg (moveArrivals s1 (fun y => y.1 == l) (· + 262144)) 262144 l .retrainTimeout

/-- What one replay adds to a slot's delay (R389). A flit received on the east link travels west. -/
def replayCost (s : State) (l : Nat) : Nat :=
  if l < 8 then 38 else if l = 8 then 2 * latEntry s 82 + 8 else 2 * latEntry s 81 + 8

/-- A receiver asks for a replay (R389, R390): the flit and those behind it in its slot come later; with the sixteenth replay of a frame the
link retrains. A link that retrains has no row for it, and nothing happens (R5). -/
def replay (s : State) (l slot : Nat) : State :=
  let x := linkOf s l
  let d := replayCost s l
  let rest := replayDelay x slot s.hkc
  let y := { x with rply := saturate (x.rply + 1) 0xFFFFFFFF, frameReplays := x.frameReplays + 1, late := x.late.put slot (rest + d, s.hkc) }
  let s1 := moveArrivals s (fun e => e.1 == l && e.2 == slot) (· + d)
  if x.st = .retraining then s
  else if 16 ≤ y.frameReplays then startRetrain (setLink s1 l y) l
  else postArg (setLink s1 l { y with st := .replaying, prev := if x.st = .replaying then x.prev else x.st, since := s.hkc + d }) d l .replayComplete

/-- The stack edge or edge link on which a flit comes in: 0 to 6 eastward and 16 to 22 westward over a stack edge; 8 and 9 the edge links in slot
0, 24 and 25 in slot 1. The wires from the hub to the stacks are 32 and up. -/
def wireOf (n : Nat) : Nat := if n < 16 then n else n - 16

/-- The slot in which a flit came (R387, R388, R391). -/
def slotOfFlit (s : State) (n : Nat) (f : Flit) : Nat :=
  if wireOf n < 8 then edgeSlot (flitRow f) (decide (16 ≤ n))
  else if linkHalf (linkOf s (wireOf n)) then 0
  else n / 16

/-- A hand-off as a flit carries it (log entry 16). -/
def tokenOfPayload (s : State) (f : Flit) : Handoff :=
  let p := f.payload.toNat
  { kind := match bitsOf p 96 2 with | 0 => .lend | 1 => .pass | 2 => .share | _ => .ret
    tok := bitsOf p 0 32, target := bitsOf p 32 32, giver := bitsOf p 64 32, scope := bitsOf p 98 4, zone := 8, stamp := s.hkc }

/-- The guest entry that a hand-off makes (R241): the token as the flit describes it. -/
def guestOfPayload (f : Flit) (h : Handoff) : Token :=
  let p := f.payload.toNat
  { Token.free with
    st := if h.kind = .share then .shared else .inFlight, size := bitsOf p 142 6, base := bitsOf p 102 40 * 4096, gen := tokGen h.tok, holder := h.giver,
    lender := if h.kind = .lend then h.giver else if h.kind = .pass then noAgent else bitsOf p 156 32,
    target := if h.kind = .share then noAgent else h.target, ctx := bitsOf p 148 8, hscope := h.scope }

/-- What has become of a token in another package (R241; log entry 16). -/
def newsIn (s : State) (n : Nat) (h : Handoff) : State :=
  let i := tokKey s h.tok
  let t := tokenOf s i
  if !tokCurrent s h.tok then s
  else match n with
    | 1 => setToken s i { t with st := if t.lender = noAgent then .owned else .lent, holder := h.giver, target := noAgent, arrived := false, ret := false }
    | 2 => setToken s i { t with grants := t.grants.erase h.giver }
    | 3 => releaseShare s i
    | 4 => setToken s i { t with st := .lost, grants := [] }
    | 6 => cancelShare s i
    | _ => orphan s i

/-- The other edge link. -/
def otherEnd (l : Nat) : Nat := if l = 8 then 9 else 8

/-- A token comes in over an edge link (R241, R451): on its way to an agent of this package, or passed on along the line. A token of another
package gets a guest entry. -/
def tokenIn (s0 : State) (l : Nat) (f : Flit) : State :=
  let h := tokenOfPayload s0 f
  let news := bitsOf f.payload.toNat 188 3
  let i := tokKey s0 h.tok
  let s := if news = 0 ∧ agPkg h.target = s0.dev.pkg ∧ 65536 ≤ i ∧ !tokCurrent s0 h.tok then setToken s0 i (guestOfPayload f h) else s0
  let t := tokenOf s i
  if agPkg h.target ≠ s.dev.pkg then sendFlit s (otherEnd l) 0 (flitRow f) 3 (flitStamp f) f.payload.toNat
  else if news ≠ 0 then newsIn s news h
  else if !tokCurrent s h.tok then s
  else
    match h.kind with
    | .share => postArrival (setToken s i { t with grants := if t.grants.contains h.target then t.grants else h.target :: t.grants }) h
    | .ret => postArrival (setToken s i { t with st := .inFlight, target := h.target, arrived := false, ret := true }) h
    | k => postArrival (setToken s i { t with st := .inFlight, target := h.target, arrived := false, ret := false,
                                              lender := if k = .lend then h.giver else noAgent }) h

/-- A `barr` of this package was refused by the hub of another (R349): its strand takes 0x05 as a late fault. -/
def refusedIn (s : State) (p : Nat) : State :=
  let agent := bitsOf p 64 32
  match agentBank s agent with
  | some b =>
    let c := { Ctx.none with bank := b, grp := agGroup agent, pkc := bitsOf p 96 40, waddr := bitsOf p 136 32 }
    hubFault s c (mkRec s c 0x05 12 (bitsOf p 0 12) 0 true false)
  | none => s

/-- A barrier credit comes in over an edge link (R342, R350; log entry 16), or is passed on along the line. -/
def creditIn (s : State) (l : Nat) (f : Flit) : State :=
  let p := f.payload.toNat
  if bitsOf p 12 4 ≠ s.dev.pkg then sendFlit s (otherEnd l) 0 (flitRow f) 4 (flitStamp f) p
  else if bitOf p 177 then refusedIn s p
  else
    let e : BarEvent := { idx := bitsOf p 0 12, ctx := bitsOf p 16 8, credit := bitsOf p 24 40, src := l - 8,
                          back := if bitOf p 176 then p % 2 ^ 176 + 2 ^ 176 else 0 }
    post s .hub s.hkc 0 e.src 0 Ctx.none (.ev (.barrierEvent e))

/-- An acknowledgement of the flits of a slot up to a number, or a request to send them again from it (R389; log entry 16). -/
def ackFlit (s : State) (l slot seq : Nat) (again : Bool) : State :=
  sendFlit s l 0 0 8 s.hkc (seq % 4096 + slot * 2 ^ 12 + if again then 2 ^ 13 else 0)

/-- What is behind a number among the flits of a slot: those up to it are acknowledged. -/
def behind (slot seq : Nat) (l : List (Nat × Flit)) : List (Nat × Flit) :=
  match l.findIdx? (fun e => decide (e.1 = slot) && decide (flitSeq e.2 = seq)) with
  | some i => (l.zipIdx.filter (fun e => !(decide (e.1.1 = slot) && decide (e.2 ≤ i)))).map (·.1)
  | none => l

/-- The neighbour acknowledges a flit, or asks for a replay (R389): then the flits of the slot are sent again in order. -/
def ackIn (s : State) (l : Nat) (f : Flit) : State :=
  let p := f.payload.toNat
  let x := linkOf s l
  let k := bitsOf p 12 1
  let n := bitsOf p 0 12
  if !bitOf p 13 then setLink s l { x with unacked := behind k n x.unacked }
  else
    let left := behind k ((n + 4095) % 4096) x.unacked
    let again := left.filter (fun e => decide (e.1 = k))
    replay { setLink s l { x with unacked := left } with sent := (again.reverse.map (fun e => (l, e.2))) ++ s.sent } l (64 + k)

/-- What a good flit of an edge link does, by its kind (R387): a chain partial goes to the edge buffer of its row; a frame pulse is the package's
where it follows the west (R339). Message lines, job data and realign flits serve groups and jobs of another package's hub, and the spec gives no
payload for them (log entry 16). -/
def takeFlit (s : State) (l : Nat) (f : Flit) : State :=
  if 9 ≤ flitKind f then logRec s 4 1 0 0 l none
  else if l < 8 then s
  else if flitKind f = 1 then (if l = 9 then partialIn s f else s)
  else if flitKind f = 3 then tokenIn s l f
  else if flitKind f = 4 then creditIn s l f
  else if flitKind f = 6 then (if l = 9 then postArg s 0 1 .framePulse else s)
  else if flitKind f = 8 then ackIn s l f
  else s

/-- A flit has its CRC and the number expected next in its slot (R387, R389). -/
def flitGood (x : Link) (slot : Nat) (f : Flit) : Bool :=
  decide (flitCrc f.hdr f.payload = f.crc) && decide (flitSeq f = x.expect.getD slot 0)

/-- A flit is one that its receiver acknowledges (R389): every flit of an edge link but an idle one and an acknowledgement itself. -/
def wantsAck (l : Nat) (f : Flit) : Bool := decide (8 ≤ l) && decide (flitKind f ≠ 0) && decide (flitKind f ≠ 8)

/-- FLIT_RECEIVE (R387, R389): a good flit is taken and acknowledged; any other is replayed, and an edge link asks its neighbour for it. A link
that carries nothing delivers none. -/
def execFlitReceive (link : Nat) (f : Flit) (s : State) : Host.Outcome State Fault Refusal :=
  let l := wireOf link
  let x := linkOf s l
  let k := slotOfFlit s link f
  .next (if 32 ≤ link then (if flitCrc f.hdr f.payload = f.crc then s else hubReplay s (link - 32))
    else if !linkCarries x then s
    else if flitGood x k f then
      let s1 := setLink s l { x with expect := x.expect.put k ((flitSeq f + 1) % 4096) }
      takeFlit (if wantsAck l f then ackFlit s1 l k (flitSeq f) false else s1) l f
    else
      let s1 := replay s l k
      if 8 ≤ l then ackFlit s1 l k (x.expect.getD k 0) true else s1)

/-- REPLAY_COMPLETE (R390): with its last replay over, the link is as it was. -/
def execReplayComplete (s : State) : Host.Outcome State Fault Refusal :=
  let x := linkOf s s.cur.arg
  .next (if x.st = .replaying ∧ x.since ≤ s.hkc then setLink s s.cur.arg { x with st := x.prev } else s)

/-- The lines that a job reads and writes, by their physical addresses, with the regions of a page move. -/
def jobPas (j : Job) : List Nat :=
  if cardKind j.card = 7 then (cardReads j.card ++ cardWrites j.card).map (·.1)
  else (jobReadLines j.card j.src j.dst ++ recLines j.dst).filterMap (fun l => (jobSeg j l).map (·.pa))

/-- The zone in which an address of this package is homed. -/
def homeZone (s : State) (pa : Nat) : Nat := if paPkg pa = s.dev.pkg then placeZone (placeOf (paLocal pa)) else 9

/-- A running job's data crosses a link that goes: a stack edge where a job of one of its stacks reaches the other. -/
def jobCrosses (s : State) (l key : Nat) (j : Job) : Bool :=
  let across (p : Nat) : Bool := decide (p ≠ s.dev.pkg) && decide (linkToward s p = l)
  if l < 8 then (jobPas j).any (fun a => edgeLink (jobZone key) (homeZone s a) == some l)
  else if l = 10 then (jobPas j).any (inHost s)
  else decide (8 ≤ l) && ((jobPas j).any (fun a => across (paPkg a)) || ((cardKind j.card == 4 || cardKind j.card == 5) && (members j.card).any across))

/-- A token that is on its way over a link that goes is orphaned, with a record (R241, R393). -/
def loseToken (s : State) (i : Nat) : State := orphan (logRec s 4 2 0 (tokenOf s i).ctx (tokId s i) none) i

/-- A link goes to retired (R393): what is on its way over it or waits for it is lost and logged, tokens in its custody are orphaned, and running
jobs whose data crosses it fault. -/
def retireLink (s : State) (l : Nat) : State :=
  let x := linkOf s l
  if x.st = .retired then s
  else
    let s0 := setLink s l { x with st := .retired, used := [], outq := [], unacked := [] }
    let s1 := (List.range (x.outq.length + x.unacked.length)).foldl (fun st _ => logRec st 4 2 0 0 l none) s0
    let gone := s1.agenda.filter (fun e => match onEdge e with | some y => y.1 == l | none => false)
    let s2 := gone.foldl (fun st _ => logRec st 4 2 0 0 l none) (dropEntries s1 (fun e => match onEdge e with | some y => y.1 == l | none => false))
    let toks := if 8 ≤ l then (s2.tokens.filter (fun e => e.2.st == .inFlight && decide (e.2.holder = custodyAgent s2 l) && decide (l < 10))).map (·.1)
      else gone.filterMap (fun e => match e.pay with
        | .ev (.handoffArrival h) => if (tokenOf s2 (tokKey s2 h.tok)).st = .inFlight then some (tokKey s2 h.tok) else none
        | _ => none)
    let s3 := toks.foldl (fun st i => loseToken st i) s2
    (s3.jobs.filter (fun e => e.2.st == .running && jobCrosses s3 l e.1 e.2)).foldl (fun st e => faultJob st e.1 e.2 0x32 14 0) s3

/-- LINK_TRAINING_DONE (R390, R391): training or retraining passes with some modules failed, or fails; the third failure in a row retires the
link. What a retraining link held leaves in order. -/
def execLinkTrainingDone (link failed : Nat) (passed : Bool) (s : State) : Host.Outcome State Fault Refusal :=
  let x := linkOf s link
  .next (if x.st ≠ .training ∧ x.st ≠ .retraining then s
    else if passed ∧ failed < linkWidth link then
      let left := retrainHold x s.hkc
      let y := { x with st := if failed = 0 then .up else .degraded, mods := linkWidth link - failed, fails := 0 }
      setLink (moveArrivals s (fun e => e.1 == link) (· - left)) link y
    else if 3 ≤ x.fails + 1 then retireLink s link
    else setLink s link { x with fails := x.fails + 1 })

/-- RETRAIN_TIMEOUT (R390): a link still retraining 262,144 kc after it began is retired. -/
def execRetrainTimeout (s : State) : Host.Outcome State Fault Refusal :=
  let x := linkOf s s.cur.arg
  .next (if x.st = .retraining ∧ x.since + 262144 ≤ s.hkc then retireLink s s.cur.arg else s)

/-- A link that the line has no use for stays down (R21, R390). -/
def staysDown (s : State) (l : Nat) : Bool :=
  decide (l = 7) || (decide (8 ≤ l) && decide (l < 10) && decide (s.part.wired = 0)) || (decide (l = 9) && decide (s.dev.pkg = 0)) || (decide (l = 8) && decide (s.dev.pkg = s.dev.east)) ||
    (decide (l < 8) && !(decide (l % 4 ≠ 3) && stackPresent s l && stackPresent s (l + 1))) || decide (10 < l)

/-- LINK_RETRAIN_REQUEST (R390): a link that is down trains. -/
def execLinkRetrainRequest (s : State) : Host.Outcome State Fault Refusal :=
  let l := s.cur.arg
  .next (if (linkOf s l).st = .down ∧ !staysDown s l then setLink s l { linkOf s l with st := .training, fails := 0 } else s)

/-- LINK_RETIRE_REQUEST (R390, R393). -/
def execLinkRetireRequest (s : State) : Host.Outcome State Fault Refusal := .next (retireLink s s.cur.arg)

/-- LINK_RESET (R393): a retired link is down. -/
def execLinkReset (s : State) : Host.Outcome State Fault Refusal :=
  let l := s.cur.arg
  .next (if (linkOf s l).st = .retired then setLink s l { Link.down with retr := (linkOf s l).retr, rply := (linkOf s l).rply } else s)

/-- LSTAT_RPLY_CLEAR (R4, R392): a one clears its bit of the replay count. -/
def execLstatRplyClear (link : Nat) (ones : BitVec 32) (s : State) : Host.Outcome State Fault Refusal :=
  let x := linkOf s link
  .next (setLink s link { x with rply := (BitVec.ofNat 32 x.rply &&& ~~~ones).toNat })

/-- The code of a link's state (R392). -/
def linkCode (x : LinkState) : Nat :=
  match x with
  | .down => 0 | .training => 1 | .up => 2 | .degraded => 3 | .replaying => 4 | .retraining => 5 | .retired => 6

/-- `lstat` of a link (R392). -/
def lstat (s : State) (l : Nat) : Nat :=
  let x := linkOf s l
  x.retr * 2 ^ 48 + x.rply * 2 ^ 16 + x.mods * 2 ^ 8 + linkCode x.st

end Sys2Proof.Machine
end

