-- ==== Sys2Proof/Machine/Device.lean ====
section
/-! DEFINITION. The device as a whole: host accesses over CXL.mem (R394 to R396, R243, R315), bring-up (R397 to R399), the registers that
management reads (R386, R400, R402), firmware and attestation (R401), temperature (R403, R404), what management does to tokens and barriers
(R236, R347), and stacks taken offline (R289, R290). -/

namespace Sys2Proof.Machine

/-- A host access ends (R396): its status and the bytes of a read. -/
def reply (s : State) (ok : Bool) (bs : List Byte) : State := { s with replies := (ok, bs) :: s.replies }

/-- A host access that fails (R243, R396): an error status, no effect, and a record. -/
def hostFails (s : State) (src c det : Nat) : State := reply (logRec s src 1 0 c det none) false []

/-- The place of an address is commons, of whichever package. -/
def inCommons (pa : Nat) : Bool := match placeOf (paLocal pa) with | .commons _ => true | _ => false

/-- A run of a host access lies where its page allows it (R279, R280, R396): the place exists and may be read, or written. A write to commons is an
exchange, whatever the page (R315). -/
def hostSegOk (s : State) (tbl : List WEntry) (wr : Bool) (g : Seg) : Bool :=
  match lookup tbl g.va with
  | none => false
  | some e => (decide (paPkg g.pa ≠ s.dev.pkg) || placeExists s (paLocal g.pa)) && (if wr then weW e || inCommons g.pa else weR e)

/-- A host write that reaches commons is one aligned write of 8 bytes, and nothing else (R315). -/
def commonsOk (segs : List Seg) : Bool :=
  !segs.any (fun g => inCommons g.pa) || (match segs with | [g] => decide (g.len = 8) && decide (g.pa % 8 = 0) | _ => false)

/-- What the memory finds lets a run of a host access perform (R281, R375, R449). -/
def hostSegFinds (s : State) (c : Nat) (wr : Bool) (g : Seg) : Bool :=
  if wr then (writeFinds s c false g (2 ^ g.len - 1)).isNone else (readFinds s c false g).isNone

/-- The token check of a run of a host access to a W page (R224, R243). -/
def hostTokenOk (s : State) (held : List HeldTok) (tbl : List WEntry) (wr : Bool) (g : Seg) : Bool :=
  match lookup tbl g.va with
  | none => false
  | some e => !weW e || (tokenCheck s Group.blank held wr g.pa g.len).isNone

/-- The bytes of a host write stored run by run; another package's memory is outside. -/
def hostStore (s : State) (l : List Seg) (bs : List Byte) : State :=
  match l with
  | [] => s
  | g :: t => hostStore (if paPkg g.pa = s.dev.pkg then storeBytes s (paLocal g.pa) (bs.take g.len) else s) t (bs.drop g.len)

/-- The host agent's entries that a write of its covers are dirty (R224). -/
def markHost (s : State) (c : Nat) (l : List Seg) : State :=
  let x := contextOf s c
  setContext s c { x with hostHeld := x.hostHeld.map (fun h =>
    if h.mode == .own && l.any (fun g => (checkPoints g.pa g.len).any (heldCovers Group.blank h)) then { h with dirty := true } else h) }

/-- The host port takes accesses (R390, R399). -/
def hostPortOpen (s : State) : Bool := s.dev.ready && linkCarries (linkOf s 10)

/-- The kc for which a refresh slot holds a host access (R376). -/
def hostHold (s : State) (segs : List Seg) : Nat := segs.foldl (fun m g => max m (slotLeft s g.pa g.len)) 0

/-- A host access that its checks have let through (R396) performs, or fails by what the memory finds, with the pages of what it finds dead
poisoned (R286, R449). -/
def hostPerforms (s : State) (c : Nat) (a : HostAcc) (segs : List Seg) : State :=
  if !segs.all (hostSegFinds s c a.wr) then hostFails (segs.foldl (fun st g => poisonPiece st (!a.wr) (wholeRun g)) s) 4 c a.off
  else if a.wr then reply (hostStore (markHost s c segs) segs a.data) true []
  else let r := readSegs s segs; reply r.2 true r.1

/-- HOST_MEM_ACCESS (R396): the offset names the context and the address; the access is translated by the context's host window table and
performs, or fails. A write to commons is an exchange (R315), and a refresh slot holds an access until it is over (R376). -/
def execHostMemAccess (a : HostAcc) (s : State) : Host.Outcome State Fault Refusal :=
  let c := bitsOf a.off 40 8
  let va := bitsOf a.off 0 40
  let x := contextOf s c
  let live := match x.st with | .opened => true | .halted => true | _ => false
  let segs := segsOf x.hostTable (a.len + 1) va a.len
  let whole := decide ((segs.foldl (fun n g => n + g.len) 0) = a.len) && (!a.wr || decide (a.data.length = a.len))
  .next (if !hostPortOpen s then hostFails s 4 c a.off
    else if !live || !whole || !segs.all (hostSegOk s x.hostTable a.wr) || (a.wr && !commonsOk segs) then hostFails s 4 c a.off
    else if !segs.all (hostTokenOk s x.hostHeld x.hostTable a.wr) then hostFails s 3 c a.off
    else if hostHold s segs = 0 then hostPerforms s c a segs
    else postHub s (hostHold s segs) (.hostMemAccess a))

/-- PACKAGE_NUMBER_SET (R398): the side-band sets the package number and the line's extent for the next bring-up. -/
def execPackageNumberSet (n east : Nat) (s : State) : Host.Outcome State Fault Refusal :=
  .next { s with dev := { s.dev with pkgSet := some (n, east) } }

/-- A link as training leaves it at bring-up, some of its modules having failed (R390, R397): up at full width, degraded, or retired. -/
def trainedLink (l failed : Nat) : Link :=
  if linkWidth l ≤ failed then { Link.down with st := .retired }
  else { Link.down with st := if failed = 0 then .up else .degraded, mods := linkWidth l - failed }

/-- The links after bring-up (R21, R390, R397): those that join something have trained (log entry 7). -/
def trainedLinks (s : State) : Sparse Link :=
  (List.range 11).foldl (fun m l => if staysDown s l then m else m.put l (trainedLink l (s.part.train.getD l 0))) []

/-- The package before bring-up: nothing runs, and its memories are cleared (R397 step 3). What the part, the firmware banks, the side-band's
settings, host memory and the outside world hold stays. -/
def coldState (s : State) : State :=
  { State.reset with
    seq := s.seq, freeCtr := s.freeCtr, inputs := s.inputs, agenda := [], part := s.part, mem := s.mem.filter (fun e => decide (baseHost ≤ e.1)),
    dev := { Device.off with fwA := s.dev.fwA, fwB := s.dev.fwB, fwAok := s.dev.fwAok, fwBok := s.dev.fwBok, pkgSet := s.dev.pkgSet },
    msix := s.msix, sent := s.sent, replies := s.replies }

/-- A step of bring-up fails after step `n` passed (R397): the main side stays held, and a record is written. -/
def bringUpFails (s : State) (n : Nat) : State :=
  logRec { s with dev := { s.dev with fail := true, step := n } } 5 3 0 0 0 none

/-- The edge link `l` trains at bring-up (R390, R397). -/
def edgeTrains (p : Part) (l : Nat) : Bool := decide (p.wired ≠ 0) && decide (p.train.getD l 0 < linkWidth l)

/-- The number of the west neighbour, as the trained west link passes it (R398). -/
def westNumber (p : Part) : Option Nat := if edgeTrains p 9 then p.west else none

/-- The package's number and the extent of its line (R21, R398): what the side-band has set, or what the trained links pass along; a package
whose west link stays down is number 0, and one without neighbours a line of its own. -/
def packageNumber (p : Part) (d : Device) : Nat × Nat :=
  match d.pkgSet with
  | some (n, e) => (n, max n e)
  | none =>
    let n := match westNumber p with | some w => w + 1 | none => 0
    (n, max n (p.extent.getD n))

/-- Step 2 of bring-up fails (R398): a number above 15, or one that a linked neighbour has too. -/
def numberFails (p : Part) (d : Device) : Bool :=
  let n := packageNumber p d
  decide (15 < n.1) || decide (15 < n.2) || westNumber p == some n.1 || (edgeTrains p 8 && p.neast == some n.1)

/-- Step 1 of bring-up fails (R397): a stack that is not harvested fails training. -/
def stackFails (p : Part) : Bool := decide (p.badStacks &&& ~~~p.harvest ≠ 0)

/-- The package at the end of bring-up (R397): every zone starts its first frame, and the frame pulse follows. -/
def warmState (s : State) (bankB : Bool) : State :=
  let n := packageNumber s.part s.dev
  let s1 := { s with dev := { s.dev with powered := true, ready := true, step := 4, fwbank := bankB, pkg := n.1, east := n.2 } }
  let s2 := { s1 with links := trainedLinks s1 }
  (liveStacks s2).foldl openSlots (postHub s2 Config.pulseKc .framePulse)

/-- POWER_UP (R397, R398): the steps of bring-up in order. -/
def execPowerUp (s : State) : Host.Outcome State Fault Refusal :=
  let c := coldState s
  .next (if !c.dev.fwAok ∧ !c.dev.fwBok then bringUpFails c 0
    else if stackFails c.part then bringUpFails { c with dev := { c.dev with fwbank := !c.dev.fwAok } } 0
    else if numberFails c.part c.dev then bringUpFails { c with dev := { c.dev with fwbank := !c.dev.fwAok } } 1
    else warmState c (!c.dev.fwAok))

/-- FIRMWARE_UPDATE (R401): the image goes into the bank that is not running, and is verified. -/
def execFirmwareUpdate (image sig : List Byte) (s : State) : Host.Outcome State Fault Refusal :=
  let ok := Config.verifies image sig
  .next { s with dev := if s.dev.fwbank then { s.dev with fwA := image, fwAok := ok } else { s.dev with fwB := image, fwBok := ok } }

/-- The bytes of the fuse values. -/
def fuseBytes (p : Part) : List Byte :=
  let flag (b : Bool) : Byte := if b then 1 else 0
  [p.harvest, flag p.srh, flag p.pairedOk, flag p.bankOk, flag p.sealedOk, BitVec.ofNat 8 p.wired]

/-- The bytes of the latency table (R341). -/
def latencyBytes (s : State) : List Byte := (List.range 83).flatMap (fun i => leBytes 4 (latEntry s i + jitEntry s i * 2 ^ 16))

/-- MEASUREMENT_REQUEST (R401): the digests of the running image, the fuses and the latency table. -/
def execMeasurementRequest (s : State) : Host.Outcome State Fault Refusal :=
  let image := if s.dev.fwbank then s.dev.fwB else s.dev.fwA
  .next { s with dev := { s.dev with measured := [Config.digest image, Config.digest (fuseBytes s.part), Config.digest (latencyBytes s)] } }

/-- `DEVSTAT` (R400). -/
def devstat (s : State) : Nat :=
  let d := s.dev
  let flag (b : Bool) (n : Nat) : Nat := if b then 2 ^ n else 0
  d.pkg * 2 ^ 28 + flag d.thold 7 + flag d.fail 6 + flag d.fwbank 5 + d.step * 2 + flag d.ready 0

/-- The features of the capability list, by id, with their field words (R402). -/
def capabilities (s : State) : List (Nat × Nat) :=
  (1, s.part.harvest.toNat + s.part.wired * 2 ^ 8 + s.dev.pkg * 2 ^ 12) :: (if s.part.bankOk then [(2, 1024)] else []) ++
    (if s.part.pairedOk then [(3, 0)] else []) ++ (if s.part.sealedOk then [(4, 256)] else []) ++ (if s.part.srh then [(5, 0)] else [])

/-- The capability list's words from an offset on (R402). -/
def capWords (off : Nat) (l : List (Nat × Nat)) : List Nat :=
  match l with
  | [] => []
  | (id, w) :: t => ((if t.isEmpty then 0 else off + 8) * 2 ^ 20 + 2 ^ 16 + id) :: w :: capWords (off + 8) t

/-- ELOG_RD_WRITE (R386). -/
def execElogRdWrite (slot : Nat) (s : State) : Host.Outcome State Fault Refusal := .next { s with elogRd := slot % 32768 }

/-- ELOG_LOST_CLEAR (R4, R386): a one clears its bit. -/
def execElogLostClear (ones : BitVec 32) (s : State) : Host.Outcome State Fault Refusal :=
  .next { s with elogLost := (BitVec.ofNat 32 s.elogLost &&& ~~~ones).toNat }

/-- A sensor's reading: a stack's, or the hub's, number 8 (R403). -/
def setHot (s : State) (n : Nat) (h : Bool) : State :=
  if n < 8 then setStack s n { stackOf s n with hot := h } else { s with dev := { s.dev with hubHot := h } }

/-- TEMPERATURE_HIGH (R404): no further wave is released. -/
def execTemperatureHigh (s : State) : Host.Outcome State Fault Refusal :=
  let s1 := setHot s s.cur.arg true
  .next (if s.dev.thold then s1 else logRec { s1 with dev := { s1.dev with thold := true } } 5 1 0 0 s.cur.arg none)

/-- Every sensor reads 90 °C or below (R404). -/
def allCool (s : State) : Bool := !s.dev.hubHot && (liveStacks s).all (fun z => !(stackOf s z).hot)

/-- TEMPERATURE_NORMAL (R404): with the last sensor that reads 90 °C or below, release resumes. -/
def execTemperatureNormal (s : State) : Host.Outcome State Fault Refusal :=
  let s1 := setHot s s.cur.arg false
  .next (if s.dev.thold ∧ allCool s1 then postHub { s1 with dev := { s1.dev with thold := false } } 0 .placeWave else s1)

/-- The management processor as an agent (R220). -/
def managementAgent (s : State) : Nat := s.dev.pkg * 2 ^ 28 + 3 * 2 ^ 25

/-- MANAGEMENT_PATH_TKMINT (R236): as `tkmint` or `tkmint.new`, with management as the caller. The new id is the answer; a mint that a strand would
fault on is answered with that cause and has no other effect (log entry 15). -/
def execManagementPathTkmint (fresh : Bool) (val : Dword) (s : State) : Host.Outcome State Fault Refusal :=
  let id := val.toNat % 2 ^ 32
  let t := tokenOf s (tokKey s id)
  .next (if fresh then
      (let (e, s1) := freeEntry s
       match regionOf s val, e, tokRoom s 0 with
       | none, _, _ => reply s false [0x05]
       | some (base, z), some i, true =>
         let s2 := mintNew s1 i base z 0 (managementAgent s)
         reply s2 true (leBytes 8 (tokId s2 i))
       | some _, _, _ => reply s false [0x08])
    else if !tokCurrent s id ∨ tokHome id ≠ s.dev.pkg then reply s false [0x0C]
    else if t.st = .lost ∨ t.st = .orphaned then
      (let s1 := mintAgain s (tokKey s id) (managementAgent s)
       reply s1 true (leBytes 8 (tokId s1 (tokKey s id))))
    else reply s false [0x05])

/-- MANAGEMENT_PATH_BARRIER_ARM (R347, R353). -/
def execManagementPathBarrierArm (m : BarmMsg) (s : State) : Host.Outcome State Fault Refusal :=
  let n : BarmMsg := { m with free := false, idx := m.idx % 4096, n := m.n % 2 ^ 16, bytes := m.bytes % 2 ^ 40, ctr := m.ctr % 2 ^ 22, kern := 0 }
  if n.idx = 0 then .next s else execBarmArrival n { s with cur := Ctx.none }

/-- MANAGEMENT_PATH_BARRIER_FREE (R347, R354): the barrier's waiters fault as its notices reach them. -/
def execManagementPathBarrierFree (idx : Nat) (s : State) : Host.Outcome State Fault Refusal :=
  if idx % 4096 = 0 then .next s
  else execBarmArrival { free := true, idx := idx % 4096, ctx := 0, kern := 0, n := 0, bytes := 0, sig := false, ctr := 0 } { s with cur := Ctx.none }

/-- The frame in which the page of a context's entry lies, or into which it is moving, if it has one here. -/
def frameOf (s : State) (c : Nat) (e : WEntry) : Option Nat :=
  if weRes e = 1 then none
  else if weRes e = 2 then (s.pages.find? (fun j => decide (j.2.ctx = c) && decide (j.2.va = weVa e))).map (fun j => j.2.frame)
  else if paPkg (wePa e) = s.dev.pkg then some (paLocal (wePa e))
  else none

/-- The frames to which offlines move what lies at a frame, one after another (R289): the last of them. -/
def lastFrame (s : State) (n a : Nat) : Nat :=
  match n with
  | 0 => a
  | k + 1 =>
    match frameAt s a with
    | some (_, f) => (match f.toward with | some d => lastFrame s k d | none => a)
    | none => a

/-- A package-local address lies in the DRAM of stack `z`, by the bank-linear window. Pages of the interleaved window lie on every stack and have no
home (log entry 95). -/
def dramOf (z a : Nat) : Bool := isDram a && decide (baseLinear ≤ a) && decide ((a - baseLinear) / 0x1000000000 = z)

/-- An entry names a DRAM page homed on stack `z` of this package, or on its way into it (R289). DESIGN CHOICE: pages of its scratchpads and its SRAM,
for which no other stack has frames, are not among the page frames that an offline evacuates (log entry 147). -/
def homedOn (s : State) (c z : Nat) (e : WEntry) : Bool :=
  weValid e && (match frameOf s c e with
    | some a => dramOf z a || dramOf z (lastFrame s 64 a)
    | none => false)

/-- An entry names a page of stack `z`'s scratchpads or SRAM. -/
def sramOn (s : State) (z : Nat) (e : WEntry) : Bool :=
  weValid e && decide (paPkg (wePa e) = s.dev.pkg) &&
    (match placeOf (paLocal (wePa e)) with | .spad c _ => decide (c / 128 = z) | .sram y _ => decide (y = z) | _ => false)

/-- An entry put into its place by virtual address, unless its page is listed. -/
def insertPage (e : WEntry) (l : List WEntry) : List WEntry :=
  match l with
  | [] => [e]
  | x :: t => if weVa e < weVa x then e :: x :: t else if weVa e = weVa x then x :: t else x :: insertPage e t

/-- The pages of a context that `f` picks, by ascending virtual address (R289): those of its kernels' tables and of its host table. -/
def ctxPages (s : State) (c : Nat) (f : WEntry → Bool) : List WEntry :=
  let all := ((s.kernels.filter (fun k => decide (k.2.ctx = c))).flatMap (fun k => k.2.table)) ++ (contextOf s c).hostTable
  (all.filter f).foldl (fun l e => insertPage e l) []

/-- The pages of a context homed on a stack (R289). -/
def homedPages (s : State) (c z : Nat) : List WEntry := ctxPages s c (homedOn s c z)

/-- A page's entry changes in the table of every kernel that maps it, by a shoot-down (R287, R289). -/
def remap (s : State) (c va : Nat) (f : WEntry → WEntry) : State :=
  let ks := s.kernels.filter (fun k => decide (k.2.ctx = c) && k.2.st != .complete && k.2.st != .faulted)
  ks.foldl (fun st k =>
    let i := k.2.table.findIdx (fun e => weValid e && decide (weVa e = va))
    match k.2.table.drop i with
    | e :: _ => postHub st 0 (.shootdownPost k.1 [{ idx := i, ent := f e }])
    | [] => st) s

/-- The DRAM budget of a context has room for `n` bytes more of frames (R289, R302). -/
def dramRoom (s : State) (c n : Nat) : Bool :=
  decide (ceilDiv ((s.frames.filter (fun e => e.2.ctx == c && e.2.given)).foldl (fun m e => m + pageBytes e.2.size) n) 0x100000 ≤ (contextOf s c).bud.dram)

/-- The first live stack with a free frame of a size, other than `z` (R289). -/
def frameElsewhere (s : State) (z size : Nat) (l : List Nat) : Option Nat × State :=
  match l with
  | [] => (none, s)
  | y :: t =>
    if y = z ∨ !(stackOf s y).online then frameElsewhere s z size t
    else
      let r := findFrame s y size
      match r.1 with
      | some a => (some a, r.2)
      | none => frameElsewhere r.2 z size t

/-- The record of the frame of a context's page, with its address; a frame of which the memory has none holds the page alone. -/
def recordOf (s : State) (c : Nat) (e : WEntry) : Nat × PageFrame :=
  let src := paLocal (wePa e)
  match frameAt s src with
  | some x => x
  | none => (src, PageFrame.of c (weVa e) (weSize e) .resident (weP e) s.hkc ((ctxTable s c (weVa e)).findIdx (fun x => weMaps x (weVa e))))

/-- No kernel's shoot-down is to come for a page: its frame's content moves at once (R289). -/
def unmapped (s : State) (c va : Nat) : Bool :=
  !s.kernels.any (fun k => decide (k.2.ctx = c) && k.2.st != .complete && k.2.st != .faulted && k.2.table.any (fun e => weValid e && decide (weVa e = va)))

/-- The content of a frame is to go to a free frame `dst`, or to host memory there (R289): its record says so, and the frame is taken. -/
def setToward (s : State) (x : Nat × PageFrame) (dst : Nat) : State :=
  let s1 := { s with frames := s.frames.put x.1 { x.2 with toward := some dst } }
  if isDram dst then { s1 with frames := s1.frames.put dst { x.2 with st := .moving, toward := none } } else s1

/-- A page starts to move, and `f` puts its new place into its entries (R289): where no shoot-down is to come, its content moves at once. -/
def startEvac (s : State) (c : Nat) (e : WEntry) (dst : Nat) (f : WEntry → WEntry) : State :=
  let x := recordOf s c e
  let s2 := setToward s x dst
  remap (if unmapped s2 c (weVa e) then finishMove s2 x.1 dst x.2 else s2) c (weVa e) f

/-- A page that an earlier offline is moving into the stack moves on from there (R289), which `f` puts into its entries behind the first change. -/
def extendEvac (s : State) (c : Nat) (e : WEntry) (at_ dst : Nat) (f : WEntry → WEntry) : State :=
  match frameAt s at_ with
  | some x => remap (setToward s x dst) c (weVa e) f
  | none => s

/-- The backing address of a context's page in this package's host memory, if it has one (R303). -/
def hostBacking (s : State) (c : Nat) (e : WEntry) : Option Nat :=
  let a := paLocal (backingAt s c (recordOf s c e).2.idx).2
  if (contextOf s c).hostbk && decide (baseHost ≤ a) then some a else none

/-- A page on its way into a frame of the stack goes into another instead (R289). -/
def redirect (s : State) (c : Nat) (e : WEntry) (dst : Nat) : State :=
  match s.pages.find? (fun j => decide (j.2.ctx = c) && decide (j.2.va = weVa e)) with
  | none => s
  | some (n, j) =>
    match Sparse.find s.frames j.frame with
    | some f => { s with pages := s.pages.put n { j with frame := dst }, frames := (s.frames.drop j.frame).put dst f }
    | none => s

/-- The place that an offline finds for a page (R289): the frame `a` where the budget has room for it (`room`), else the backing copy in host memory,
which a poisoned page does not reach (R286) and which leaves no malformed entry. -/
def evacPlace (s : State) (c : Nat) (e : WEntry) (f : PageFrame) (a : Option Nat) (room : Bool) : Option (Nat × (WEntry → WEntry)) :=
  match a, room with
  | some d, true => some (d, fun y => withFrame y (globalOf s d))
  | _, _ =>
    match hostBacking s c e with
    | some b => if weWf s (toHost e) ∧ f.st ≠ .poisoned then some (b, toHost) else none
    | none => none

/-- One page of an offline request: the state with its move under way, or none where it can go nowhere (R289). One that leaves the stack already is
named where it goes. -/
def evacuate (s : State) (c z : Nat) (e : WEntry) : Option State :=
  let x := recordOf s c e
  let fin := lastFrame s 64 x.1
  let r := frameElsewhere s z (weSize e) (liveStacks s)
  let p := evacPlace r.2 c e x.2 r.1 (x.2.given || dramRoom r.2 c (pageBytes (weSize e)))
  if weRes e = 2 then r.1.map (redirect r.2 c e)
  else match x.2.toward with
    | none => p.map (fun q => startEvac r.2 c e q.1 q.2)
    | some _ =>
      if dramOf z fin then p.map (fun q => extendEvac r.2 c e fin q.1 q.2)
      else some (remap s c (weVa e) (if isDram fin then (fun y => withFrame y (globalOf s fin)) else toHost))

/-- Pages in order, up to the first that can go nowhere: whether all went (R289). -/
def evacuateAll (s : State) (z : Nat) (l : List (Nat × WEntry)) : Bool × State :=
  match l with
  | [] => (true, s)
  | (c, e) :: t =>
    match evacuate s c z e with
    | some s1 => evacuateAll s1 z t
    | none => (false, s)

/-- The pages of every context homed on a stack (R289). -/
def allHomed (s : State) (z : Nat) : List (Nat × WEntry) :=
  (List.range 256).flatMap (fun c => (homedPages s c z).map (fun e => (c, e)))

/-- Placement on a stack stops, and its placed groups are pre-empted (R289, R310). -/
def closeStack (s : State) (z : Nat) : State :=
  let s1 := setStack s z { stackOf s z with online := false }
  ((s1.groups.filter (fun g => holdsRows g.2 && g.2.zones.any (fun y => decide (y.z = z)))).map (·.1)).foldl forcePreempt s1

/-- STACK_OFFLINE (R289): the stack's pages are evacuated, or the request is refused and the stack stays in service. -/
def execStackOffline (s : State) : Host.Outcome State Fault Refusal :=
  let z := s.cur.arg
  .next (if !stackPresent s z then s
    else
      let s1 := closeStack s z
      let r := evacuateAll s1 z (allHomed s1 z)
      if r.1 then r.2 else setStack r.2 z { stackOf r.2 z with online := true })

/-- The records of a frame, and of those that offlines move its content to, go to lost (R290). -/
def loseFrames (s : State) (n a : Nat) : State :=
  match n with
  | 0 => s
  | k + 1 =>
    match frameAt s a with
    | none => s
    | some (b, f) =>
      let s1 := { s with frames := s.frames.put b { f with st := .lost, toward := none } }
      match f.toward with
      | some d => loseFrames s1 k d
      | none => s1

/-- A page that is not evacuated goes to lost, with the tokens whose regions hold a part of it (R290, R239). -/
def losePage (s : State) (c : Nat) (e : WEntry) : State :=
  let a := (frameOf s c e).getD (paLocal (wePa e))
  let n := pageBytes (weSize e)
  let s1 := match frameAt s a with
    | some _ => loseFrames s 64 a
    | none => { s with frames := s.frames.put a (PageFrame.of c (weVa e) (weSize e) .lost (weP e) s.hkc 0) }
  (s1.tokens.filter (fun t => decide (t.1 < 65536) && regionMeets s1 t.1 a (Nat.log2 n) && t.2.st != .lost)).foldl
    (fun st t => setToken st t.1 { t.2 with st := .lost, grants := [] }) s1

/-- Every page of a stack (R290): those that an offline evacuates, and those of its scratchpads and its SRAM. -/
def allPages (s : State) (z : Nat) : List (Nat × WEntry) :=
  (List.range 256).flatMap (fun c => (ctxPages s c (fun e => homedOn s c z e || sramOn s z e)).map (fun e => (c, e)))

/-- FORCED_OFFLINE (R290): nothing is refused; what is not evacuated is lost. -/
def execForcedOffline (s : State) : Host.Outcome State Fault Refusal :=
  let z := s.cur.arg
  .next (if !stackPresent s z then s
    else
      let s1 := closeStack s z
      (allPages s1 z).foldl (fun st p => losePage st p.1 p.2) s1)

end Sys2Proof.Machine
end

