-- ==== Sys2Proof/Machine/Vec.lean ====
section
/-! DEFINITION. The V engine's arithmetic, compare, logic, lane-moving and conversion words (R125 to R140, R143). A word reads its
vector sources at its engine's kc and its result lands after its latency. -/

namespace Sys2Proof.Machine

/-- A guarded V word with a lane-by-lane result (R116, R128): `f` gives lane `l` and its flags. -/
def vecWord (s : State) (g : BitVec 4) (lat : Nat) (d : BitVec 6) (nw : BitVec 1) (f : State → Nat → Nat × BitVec 8) :
    Host.Outcome State Fault Refusal :=
  runWord s g (fun s => let r := lanesOf (f s); vecLater s lat d nw r.1 r.2)

/-- A binary operation on the FP32 values of a lane (R129). -/
def onF32 (op : Fmt → Bool → Nat → Nat → Nat × BitVec 8) (a b : BitVec 6) (s : State) (l : Nat) : Nat × BitVec 8 :=
  op fp32 s.cur.ftz (lane (srcV s a) l).toNat (lane (srcV s b) l).toNat

/-- A binary operation on both BF16 elements of a lane (R129). -/
def onBf16 (op : Fmt → Bool → Nat → Nat → Nat × BitVec 8) (a b : BitVec 6) (s : State) (l : Nat) : Nat × BitVec 8 :=
  let x := lane (srcV s a) l
  let y := lane (srcV s b) l
  let lo := op bf16 s.cur.ftz (half0 x).toNat (half0 y).toNat
  let hi := op bf16 s.cur.ftz (half1 x).toNat (half1 y).toNat
  (halves lo.1 hi.1, lo.2 ||| hi.2)

/-- The latencies of the floating-point words (R128). -/
def fpLat : Nat := 4
def transLat : Nat := 8

/-- `vfadd.f32` (R129, R36). -/
def execVfaddF32 (g : BitVec 4) (d a b : BitVec 6) (n : BitVec 1) (s : State) : Host.Outcome State Fault Refusal :=
  vecWord s g fpLat d n (onF32 vAddF a b)

/-- `vfadd.bf16` (R129, R36). -/
def execVfaddBf16 (g : BitVec 4) (d a b : BitVec 6) (n : BitVec 1) (s : State) : Host.Outcome State Fault Refusal :=
  vecWord s g fpLat d n (onBf16 vAddF a b)

/-- `vfsub.f32` (R129, R36). -/
def execVfsubF32 (g : BitVec 4) (d a b : BitVec 6) (n : BitVec 1) (s : State) : Host.Outcome State Fault Refusal :=
  vecWord s g fpLat d n (onF32 vSubF a b)

/-- `vfsub.bf16` (R129, R36). -/
def execVfsubBf16 (g : BitVec 4) (d a b : BitVec 6) (n : BitVec 1) (s : State) : Host.Outcome State Fault Refusal :=
  vecWord s g fpLat d n (onBf16 vSubF a b)

/-- `vfmul.f32` (R129, R36). -/
def execVfmulF32 (g : BitVec 4) (d a b : BitVec 6) (n : BitVec 1) (s : State) : Host.Outcome State Fault Refusal :=
  vecWord s g fpLat d n (onF32 vMulF a b)

/-- `vfmul.bf16` (R129, R36). -/
def execVfmulBf16 (g : BitVec 4) (d a b : BitVec 6) (n : BitVec 1) (s : State) : Host.Outcome State Fault Refusal :=
  vecWord s g fpLat d n (onBf16 vMulF a b)

/-- `vfma.f32`: the addend is the destination as R126 reads it; one rounding (R129). -/
def execVfmaF32 (g : BitVec 4) (d a b : BitVec 6) (n : BitVec 1) (s : State) : Host.Outcome State Fault Refusal :=
  vecWord s g fpLat d n (fun s l => vFmaF fp32 s.cur.ftz (lane (srcV s a) l).toNat (lane (srcV s b) l).toNat (lane (destV s d n) l).toNat)

/-- Both BF16 elements of a fused multiply-add (R129). -/
def fmaBf16 (a b d : BitVec 6) (n : BitVec 1) (s : State) (l : Nat) : Nat × BitVec 8 :=
  let x := lane (srcV s a) l
  let y := lane (srcV s b) l
  let z := lane (destV s d n) l
  let lo := vFmaF bf16 s.cur.ftz (half0 x).toNat (half0 y).toNat (half0 z).toNat
  let hi := vFmaF bf16 s.cur.ftz (half1 x).toNat (half1 y).toNat (half1 z).toNat
  (halves lo.1 hi.1, lo.2 ||| hi.2)

/-- `vfma.bf16` (R129). -/
def execVfmaBf16 (g : BitVec 4) (d a b : BitVec 6) (n : BitVec 1) (s : State) : Host.Outcome State Fault Refusal :=
  vecWord s g fpLat d n (fmaBf16 a b d n)

/-- `vfmax.f32` (R129). -/
def execVfmaxF32 (g : BitVec 4) (d a b : BitVec 6) (n : BitVec 1) (s : State) : Host.Outcome State Fault Refusal :=
  vecWord s g fpLat d n (onF32 (fun _ => vMaxF true) a b)

/-- `vfmin.f32` (R129). -/
def execVfminF32 (g : BitVec 4) (d a b : BitVec 6) (n : BitVec 1) (s : State) : Host.Outcome State Fault Refusal :=
  vecWord s g fpLat d n (onF32 (fun _ => vMaxF false) a b)

/-- `vfrcp` (R130, R38). -/
def execVfrcp (g : BitVec 4) (d a : BitVec 6) (n : BitVec 1) (s : State) : Host.Outcome State Fault Refusal :=
  vecWord s g transLat d n (fun s l => vRcpF s.cur.ftz (lane (srcV s a) l).toNat)

/-- `vfrsq` (R130, R38). -/
def execVfrsq (g : BitVec 4) (d a : BitVec 6) (n : BitVec 1) (s : State) : Host.Outcome State Fault Refusal :=
  vecWord s g transLat d n (fun s l => vRsqF s.cur.ftz (lane (srcV s a) l).toNat)

/-- `vfexp2` (R130, R38). -/
def execVfexp2 (g : BitVec 4) (d a : BitVec 6) (n : BitVec 1) (s : State) : Host.Outcome State Fault Refusal :=
  vecWord s g transLat d n (fun s l => vExp2F s.cur.ftz (lane (srcV s a) l).toNat)

/-- A floating-point compare (R131): mask d lands 1 kc later, with V where an ordered compare meets a NaN. -/
def fcmpWord (s : State) (g : BitVec 4) (d a b : BitVec 6) (cc : Nat) : Host.Outcome State Fault Refusal :=
  runWord s g (fun s =>
    let r := (List.range 128).map (fun l => vCmpF cc s.cur.ftz (lane (srcV s a) l).toNat (lane (srcV s b) l).toNat)
    maskLater s d (ofMaskBits (fun l => (r.getD l (false, 0)).1)) (r.foldl (fun f x => f ||| x.2) 0))

/-- An integer compare of the lanes (R131). -/
def icmpWord (s : State) (g : BitVec 4) (d a b : BitVec 6) (f : Word → Word → Bool) : Host.Outcome State Fault Refusal :=
  runWord s g (fun s => maskLater s d (ofMaskBits (fun l => f (lane (srcV s a) l) (lane (srcV s b) l))) 0)

/-- `vfcmp.eq` (R131). -/
def execVfcmpEq (g : BitVec 4) (d a b : BitVec 6) (s : State) : Host.Outcome State Fault Refusal :=
  fcmpWord s g d a b 0

/-- `vfcmp.lt` (R131). -/
def execVfcmpLt (g : BitVec 4) (d a b : BitVec 6) (s : State) : Host.Outcome State Fault Refusal :=
  fcmpWord s g d a b 1

/-- `vfcmp.le` (R131). -/
def execVfcmpLe (g : BitVec 4) (d a b : BitVec 6) (s : State) : Host.Outcome State Fault Refusal :=
  fcmpWord s g d a b 2

/-- `vcmp.eq` (R131). -/
def execVcmpEq (g : BitVec 4) (d a b : BitVec 6) (s : State) : Host.Outcome State Fault Refusal :=
  icmpWord s g d a b (fun x y => x == y)

/-- `vcmp.lt`: as signed (R131). -/
def execVcmpLt (g : BitVec 4) (d a b : BitVec 6) (s : State) : Host.Outcome State Fault Refusal :=
  icmpWord s g d a b (fun x y => BitVec.slt x y)

/-- `vcmp.ltu`: as unsigned (R131). -/
def execVcmpLtu (g : BitVec 4) (d a b : BitVec 6) (s : State) : Host.Outcome State Fault Refusal :=
  icmpWord s g d a b (fun x y => BitVec.ult x y)

/-- A mask word (R132): it reads its masks at its engine's kc, and its result lands 1 kc later. -/
def maskWord (s : State) (g : BitVec 4) (d : BitVec 6) (f : State → Mask) : Host.Outcome State Fault Refusal :=
  runWord s g (fun s => maskLater s d (f s) 0)

/-- `kand` (R132). -/
def execKand (g : BitVec 4) (d a b : BitVec 6) (s : State) : Host.Outcome State Fault Refusal :=
  maskWord s g d (fun s => srcK s a &&& srcK s b)

/-- `kor` (R132). -/
def execKor (g : BitVec 4) (d a b : BitVec 6) (s : State) : Host.Outcome State Fault Refusal :=
  maskWord s g d (fun s => srcK s a ||| srcK s b)

/-- `knot` (R132). -/
def execKnot (g : BitVec 4) (d a : BitVec 6) (s : State) : Host.Outcome State Fault Refusal :=
  maskWord s g d (fun s => ~~~(srcK s a))

/-- `vany` (R132): predicate d is visible to C words 5 kc after the engine's issue. -/
def execVany (g : BitVec 4) (d a : BitVec 6) (s : State) : Host.Outcome State Fault Refusal :=
  runWord s g (fun s => landLater s 5 (.regs [.p d.toNat (decide (srcK s a ≠ 0))]) 0)

/-- An integer or logic word (R133): lane by lane, 1 kc, no flag. -/
def vecIntWord (s : State) (g : BitVec 4) (d a b : BitVec 6) (n : BitVec 1) (f : Word → Word → Word) : Host.Outcome State Fault Refusal :=
  vecWord s g 1 d n (fun s l => ((f (lane (srcV s a) l) (lane (srcV s b) l)).toNat, 0))

/-- `vadd.i32` (R133). -/
def execVaddI32 (g : BitVec 4) (d a b : BitVec 6) (n : BitVec 1) (s : State) : Host.Outcome State Fault Refusal :=
  vecIntWord s g d a b n (fun x y => x + y)

/-- `vadd.i16` (R133). -/
def execVaddI16 (g : BitVec 4) (d a b : BitVec 6) (n : BitVec 1) (s : State) : Host.Outcome State Fault Refusal :=
  vecIntWord s g d a b n (fun x y => (half1 x + half1 y) ++ (half0 x + half0 y))

/-- `vsub.i32` (R133). -/
def execVsubI32 (g : BitVec 4) (d a b : BitVec 6) (n : BitVec 1) (s : State) : Host.Outcome State Fault Refusal :=
  vecIntWord s g d a b n (fun x y => x - y)

/-- `vmul.i32` (R133). -/
def execVmulI32 (g : BitVec 4) (d a b : BitVec 6) (n : BitVec 1) (s : State) : Host.Outcome State Fault Refusal :=
  vecIntWord s g d a b n (fun x y => x * y)

/-- `vand` (R133). -/
def execVand (g : BitVec 4) (d a b : BitVec 6) (n : BitVec 1) (s : State) : Host.Outcome State Fault Refusal :=
  vecIntWord s g d a b n (fun x y => x &&& y)

/-- `vor` (R133). -/
def execVor (g : BitVec 4) (d a b : BitVec 6) (n : BitVec 1) (s : State) : Host.Outcome State Fault Refusal :=
  vecIntWord s g d a b n (fun x y => x ||| y)

/-- `vxor` (R133). -/
def execVxor (g : BitVec 4) (d a b : BitVec 6) (n : BitVec 1) (s : State) : Host.Outcome State Fault Refusal :=
  vecIntWord s g d a b n (fun x y => x ^^^ y)

/-- `vshl` (R133). -/
def execVshl (g : BitVec 4) (d a b : BitVec 6) (n : BitVec 1) (s : State) : Host.Outcome State Fault Refusal :=
  vecIntWord s g d a b n (fun x y => x <<< (y.toNat % 32))

/-- `vshr` (R133). -/
def execVshr (g : BitVec 4) (d a b : BitVec 6) (n : BitVec 1) (s : State) : Host.Outcome State Fault Refusal :=
  vecIntWord s g d a b n (fun x y => x >>> (y.toNat % 32))

/-- `vshra` (R133). -/
def execVshra (g : BitVec 4) (d a b : BitVec 6) (n : BitVec 1) (s : State) : Host.Outcome State Fault Refusal :=
  vecIntWord s g d a b n (fun x y => BitVec.sshiftRight x (y.toNat % 32))

/-- `vmin.i32` (R133). -/
def execVminI32 (g : BitVec 4) (d a b : BitVec 6) (n : BitVec 1) (s : State) : Host.Outcome State Fault Refusal :=
  vecIntWord s g d a b n (fun x y => if x.toInt ≤ y.toInt then x else y)

/-- `vmax.i32` (R133). -/
def execVmaxI32 (g : BitVec 4) (d a b : BitVec 6) (n : BitVec 1) (s : State) : Host.Outcome State Fault Refusal :=
  vecIntWord s g d a b n (fun x y => if x.toInt ≤ y.toInt then y else x)

/-- One bit of `vlut3` (R134): the table's bit at the index that the three inputs form. -/
def lutBit (table : Nat) (x y z : Bool) : Nat :=
  if bitOf table ((if x then 4 else 0) + (if y then 2 else 0) + (if z then 1 else 0)) then 1 else 0

/-- A lane of `vlut3`. -/
def lutLane (table : Nat) (x y z : Word) : Nat :=
  (List.range 32).foldl (fun acc i => acc + lutBit table (x.getLsbD i) (y.getLsbD i) (z.getLsbD i) * 2 ^ i) 0

/-- `vlut3` (R134): the table stands in the prefix. -/
def execVlut3 (g : BitVec 4) (d a b : BitVec 6) (n : BitVec 1) (s : State) : Host.Outcome State Fault Refusal :=
  vecWord s g 1 d n (fun s l => (lutLane (curPre s % 256) (lane (srcV s a) l) (lane (srcV s b) l) (lane (destV s d n) l), 0))

/-- The partner lane of `vfsh` (R135). -/
def partnerLane (p l : Nat) : Nat :=
  match p with
  | 0 => l
  | 1 => (l + 127) % 128
  | 2 => (l + 1) % 128
  | _ => if l % 2 = 0 then l + 1 else l - 1

/-- A lane of `vfsh` (R135). -/
def funnel (right : Bool) (n x y : Nat) : Nat :=
  if right then (y * 2 ^ 32 + x) / 2 ^ n % 2 ^ 32 else (x * 2 ^ 32 + y) * 2 ^ n / 2 ^ 32 % 2 ^ 32

/-- `vfsh` (R135). -/
def execVfsh (g : BitVec 4) (d a b : BitVec 6) (n : BitVec 1) (s : State) : Host.Outcome State Fault Refusal :=
  vecWord s g 1 d n (fun s l =>
    let p := curPre s
    (funnel (bitOf p 5) (p % 32) (lane (srcV s a) l).toNat (lane (srcV s b) (partnerLane (bitsOf p 6 2) l)).toNat, 0))

/-- `vmov` (R136). -/
def execVmov (g : BitVec 4) (d a : BitVec 6) (n : BitVec 1) (s : State) : Host.Outcome State Fault Refusal :=
  vecWord s g 1 d n (fun s l => ((lane (srcV s a) l).toNat, 0))

/-- `vbcast` (R136): the low 32 bits of ss, read at issue. -/
def execVbcast (g : BitVec 4) (d : BitVec 6) (_ss : BitVec 5) (s : State) : Host.Outcome State Fault Refusal :=
  vecWord s g 1 d 0 (fun s _ => (s.cur.ra.toNat % 2 ^ 32, 0))

/-- `vperm` (R136). -/
def execVperm (g : BitVec 4) (d a b : BitVec 6) (n : BitVec 1) (s : State) : Host.Outcome State Fault Refusal :=
  vecWord s g 3 d n (fun s l => ((lane (srcV s a) ((lane (srcV s b) l).toNat % 128)).toNat, 0))

/-- `vsel` (R136): `k0` chooses. -/
def execVsel (g : BitVec 4) (d a b : BitVec 6) (n : BitVec 1) (s : State) : Host.Outcome State Fault Refusal :=
  vecWord s g 1 d n (fun s l => ((if (maskOf (curStrand s) 0).getLsbD l then lane (srcV s a) l else lane (srcV s b) l).toNat, 0))

/-- The count and segment of `vrot` (R137): n = imm6 and 128 lanes, or both from the prefix. -/
def rotArgs (pre : List (BitVec 24)) (i : BitVec 6) : Nat × Nat :=
  match pre with
  | [] => (i.toNat, 7)
  | p :: _ => (p.toNat % 128, bitsOf p.toNat 7 3)

/-- The source lane of lane `l` under a rotation by `n` in segments of 2^g lanes (R137). -/
def rotLane (n g l : Nat) : Nat := l / 2 ^ g * 2 ^ g + (l % 2 ^ g + 2 ^ g - n % 2 ^ g) % 2 ^ g

/-- `vrot` (R137). -/
def execVrot (g : BitVec 4) (d a i : BitVec 6) (n : BitVec 1) (s : State) : Host.Outcome State Fault Refusal :=
  vecWord s g 1 d n (fun s l => let r := rotArgs s.cur.pre i; ((lane (srcV s a) (rotLane r.1 r.2 l)).toNat, 0))

/-- The SRH hash for a source lane (R44, R45). -/
def srhHash (c : Ctx) (l : Nat) : Nat := srhMix (c.seed.toNat ^^^ ((l + 128 * c.serial.toNat) % 2 ^ 32))

/-- A narrowing of a lane's FP32 value in the mode sampled at dispatch (R41 to R47). -/
def narrowLane (c : Ctx) (f : Fmt) (l : Nat) (x : Word) : Nat × BitVec 8 := vNarrow f c.vrm.toNat (srhHash c l) c.ftz x.toNat

/-- `vcvt.bf16.f32` (R138). -/
def execVcvtBf16F32 (g : BitVec 4) (d a b : BitVec 6) (n : BitVec 1) (s : State) : Host.Outcome State Fault Refusal :=
  vecWord s g 2 d n (fun s l =>
    let lo := narrowLane s.cur bf16 l (lane (srcV s a) l)
    let hi := narrowLane s.cur bf16 l (lane (srcV s b) l)
    (halves lo.1 hi.1, lo.2 ||| hi.2))

/-- An exact widening to FP32 (R41): no flag. -/
def widen (f : Fmt) (ftz : Bool) (x : Nat) : Nat := (roundFv fp32 0 0 (vin f ftz x)).1

/-- `vcvt.f32.bf16` (R138): the element that h names. -/
def execVcvtF32Bf16 (g : BitVec 4) (d a : BitVec 6) (h n : BitVec 1) (s : State) : Host.Outcome State Fault Refusal :=
  vecWord s g 2 d n (fun s l =>
    let x := lane (srcV s a) l
    (widen bf16 s.cur.ftz (if h = 1 then half1 x else half0 x).toNat, 0))

/-- `vcvt.f32.i32` (R138, R43). -/
def execVcvtF32I32 (g : BitVec 4) (d a : BitVec 6) (n : BitVec 1) (s : State) : Host.Outcome State Fault Refusal :=
  vecWord s g 2 d n (fun s l => vFromInt s.cur.vrm.toNat (srhHash s.cur l) (lane (srcV s a) l).toNat)

/-- `vcvt.i32.f32` (R138, R43). -/
def execVcvtI32F32 (g : BitVec 4) (d a : BitVec 6) (n : BitVec 1) (s : State) : Host.Outcome State Fault Refusal :=
  vecWord s g 2 d n (fun s l => vToInt s.cur.vrm.toNat (srhHash s.cur l) s.cur.ftz (lane (srcV s a) l).toNat)

/-- `vcvt.e4m3.f32` (R138): 128 codes into quarter q, the other lanes as the destination reads. -/
def execVcvtE4m3F32 (g : BitVec 4) (d a : BitVec 6) (q : BitVec 2) (n : BitVec 1) (s : State) : Host.Outcome State Fault Refusal :=
  vecWord s g 2 d n (fun s l =>
    if l / 32 = q.toNat then
      let r := (List.range 4).map (fun i => let e := 4 * (l % 32) + i; narrowLane s.cur e4m3 e (lane (srcV s a) e))
      (leNat (r.map (fun x => BitVec.ofNat 8 x.1)), r.foldl (fun f x => f ||| x.2) 0)
    else ((lane (destV s d n) l).toNat, 0))

/-- `vcvt.f32.e4m3` (R138): exact, subnormal codes included, whatever `vftz` (R39). -/
def execVcvtF32E4m3 (g : BitVec 4) (d a : BitVec 6) (q : BitVec 2) (n : BitVec 1) (s : State) : Host.Outcome State Fault Refusal :=
  vecWord s g 2 d n (fun s l =>
    (widen e4m3 false (bitsOf (lane (srcV s a) (32 * q.toNat + l / 4)).toNat (8 * (l % 4)) 8), 0))

/-- The magnitude of a lane as its FP32 pattern without sign (R139): an infinity counts as the largest finite value, and under
`vftz` a subnormal as zero (R39). -/
def magBits (ftz : Bool) (x : Word) : Nat :=
  let m := x.toNat % 2 ^ 31
  if m = 0x7F800000 then 0x7F7FFFFF else if ftz ∧ m < 2 ^ 23 then 0 else m

/-- The lowest lane with the greatest magnitude (R139). -/
def outlier (mags : List Nat) : Nat := mags.findIdx (fun m => decide (m = mags.foldl max 0))

/-- The greatest magnitude of the lanes other than `o`. -/
def secondMag (mags : List Nat) (o : Nat) : Nat := (listSet mags o 0).foldl max 0

/-- Basis / 2^k ≤ 6 for a positive finite FP32 pattern and k = i − 127. -/
def scaleFits (basis i : Nat) : Bool :=
  match fpVal fp32 basis with
  | .fin _ m e => decide (m * 2 ^ (e + 300).toNat ≤ 6 * 2 ^ (i + 173))
  | _ => false

/-- The scale byte of a block (R139): k + 127 for the smallest k from −127 to 127 that fits. -/
def scaleByte (basis : Nat) : Nat :=
  match firstFrom (scaleFits basis) 0 255 with
  | some i => i
  | none => 254

/-- A lane's value divided exactly by 2^k, k = scale − 127. -/
def divScale (ftz : Bool) (x : Word) (scale : Nat) : Fv :=
  match vin fp32 ftz x.toNat with
  | .fin s m e => .fin s m (e - ((scale : Int) - 127))
  | v => v

/-- The element code of a lane in the regular grid (R139, R41): zero has one code. -/
def gridCode (c : Ctx) (l : Nat) (x : Word) (scale : Nat) : Nat × BitVec 8 :=
  let r := vout e2m1 c.ftz (roundFv e2m1 c.vrm.toNat (srhHash c l) (divScale c.ftz x scale))
  (if r.1 % 8 = 0 then 0 else r.1, r.2)

/-- The block that `vqnt.e2m1` makes of a vector (R139): 128 codes, the scale and special bytes, and the flags. -/
def quantise (c : Ctx) (a : Vec) : List Nat × Nat × Nat × BitVec 8 :=
  let xs := (List.range 128).map (lane a)
  if xs.any (fun x => isNan (fpVal fp32 x.toNat)) then (List.replicate 128 0, 255, 0, 0)
  else
    let mags := xs.map (magBits c.ftz)
    let o := outlier mags
    let m1 := mags.getD o 0
    let m2 := secondMag mags o
    if m1 = 0 then (List.replicate 128 0, 127, 0, 0)
    else
      let scale := scaleByte (if m2 = 0 then m1 else m2)
      let sp := vout e4m3 c.ftz (roundFv e4m3 c.vrm.toNat (srhHash c o) (divScale c.ftz (lane a o) scale))
      let cs := (List.range 128).map (fun l => if l = o then (8, sp.2) else gridCode c l (lane a l) scale)
      (cs.map (·.1), scale, sp.1, cs.foldl (fun f x => f ||| x.2) 0)

/-- Eight E2M1 codes in a lane, two to a byte (R27). -/
def packCodes (cs : List Nat) (i : Nat) : Nat := (List.range 8).foldl (fun acc j => acc + cs.getD (8 * i + j) 0 * 16 ^ j) 0

/-- `vqnt.e2m1` (R139): lanes 16q to 16q + 15 receive the block, lane 64 + q its header, the other lanes stay. -/
def execVqntE2m1 (g : BitVec 4) (d a : BitVec 6) (q : BitVec 2) (n : BitVec 1) (s : State) : Host.Outcome State Fault Refusal :=
  runWord s g (fun s =>
    let r := quantise s.cur (srcV s a)
    let old := destV s d n
    let x := ofLanes (fun l =>
      if l / 16 = q.toNat then BitVec.ofNat 32 (packCodes r.1 (l % 16))
      else if l = 64 + q.toNat then BitVec.ofNat 32 (r.2.1 + 256 * r.2.2.1)
      else lane old l)
    vecLater s 6 d n x r.2.2.2)

/-- The value of an E2M1 code under a header (R26, R140): FP32, with the flags of a flush. -/
def dequantise (ftz : Bool) (hdr code : Nat) : Nat × BitVec 8 :=
  let scale := hdr % 256
  if scale = 255 then (fpNan fp32, 0)
  else
    match (if code = 8 then fpVal e4m3 (hdr / 256 % 256) else fpVal e2m1 code) with
    | .fin sg m e =>
      let r := (roundFin fp32 0 0 sg m (e + (scale : Int) - 127)).1
      if ftz && isSub fp32 r then (fpSign fp32 sg, flagU ||| flagX) else (r, 0)
    | .inf sg => (fpInf fp32 sg, 0)
    | .nan => (fpNan fp32, 0)

/-- `vdqnt.e2m1` (R140). -/
def execVdqntE2m1 (g : BitVec 4) (d a : BitVec 6) (q : BitVec 2) (n : BitVec 1) (s : State) : Host.Outcome State Fault Refusal :=
  vecWord s g 2 d n (fun s l =>
    let x := srcV s a
    dequantise s.cur.ftz (bitsOf (lane x (64 + q.toNat)).toNat 0 16) (bitsOf (lane x (16 * q.toNat + l / 8)).toNat (4 * (l % 8)) 4))

/-- One level of a reduction tree (R143): neighbours are combined. -/
def redLevel (op : Nat → Nat → Nat × BitVec 8) (l : List Nat) : List Nat × BitVec 8 :=
  match l with
  | x :: y :: t => let r := op x y; let u := redLevel op t; (r.1 :: u.1, r.2 ||| u.2)
  | t => (t, 0)

/-- A reduction tree of `g` levels. -/
def redTree (op : Nat → Nat → Nat × BitVec 8) (g : Nat) (l : List Nat) : List Nat × BitVec 8 :=
  match g with
  | 0 => (l, 0)
  | k + 1 => let r := redLevel op l; let u := redTree op k r.1; (u.1, r.2 ||| u.2)

/-- A reduction word (R143): every lane of a segment of 2^g lanes receives the segment's result. -/
def redWord (s : State) (g : BitVec 4) (d a : BitVec 6) (sg : BitVec 3) (n : BitVec 1) (op : Bool → Nat → Nat → Nat × BitVec 8) :
    Host.Outcome State Fault Refusal :=
  runWord s g (fun s =>
    let r := redTree (op s.cur.ftz) sg.toNat ((List.range 128).map (fun l => (lane (srcV s a) l).toNat))
    vecLater s 6 d n (ofLanes (fun l => BitVec.ofNat 32 (r.1.getD (l / 2 ^ sg.toNat) 0))) r.2)

/-- `vred.add` (R143). -/
def execVredAdd (g : BitVec 4) (d a : BitVec 6) (sg : BitVec 3) (n : BitVec 1) (s : State) : Host.Outcome State Fault Refusal :=
  redWord s g d a sg n (vAddF fp32)

/-- `vred.max` (R143). -/
def execVredMax (g : BitVec 4) (d a : BitVec 6) (sg : BitVec 3) (n : BitVec 1) (s : State) : Host.Outcome State Fault Refusal :=
  redWord s g d a sg n (vMaxF true)

end Sys2Proof.Machine
end

