-- ==== Sys2Proof/Machine/Dispatch.lean ====
section
/-! DEFINITION. One arm per constructor of `Instr`: each a direct call of its meaning. -/

namespace Sys2Proof.Machine

/-- The effect of one instruction (R53 to R404, each meaning by its own rules). -/
def exec (i : Instr) (s : State) : Host.Outcome State Fault Refusal :=
  match i with
  | .packetHeader a b c => Sys2Proof.Machine.execPacketHeader a b c s
  | .add a b c d => Sys2Proof.Machine.execAdd a b c d s
  | .sub a b c d => Sys2Proof.Machine.execSub a b c d s
  | .and a b c d => Sys2Proof.Machine.execAnd a b c d s
  | .or a b c d => Sys2Proof.Machine.execOr a b c d s
  | .xor a b c d => Sys2Proof.Machine.execXor a b c d s
  | .shl a b c d => Sys2Proof.Machine.execShl a b c d s
  | .shr a b c d => Sys2Proof.Machine.execShr a b c d s
  | .shra a b c d => Sys2Proof.Machine.execShra a b c d s
  | .min a b c d => Sys2Proof.Machine.execMin a b c d s
  | .max a b c d => Sys2Proof.Machine.execMax a b c d s
  | .clz a b c => Sys2Proof.Machine.execClz a b c s
  | .popc a b c => Sys2Proof.Machine.execPopc a b c s
  | .mul a b c d => Sys2Proof.Machine.execMul a b c d s
  | .mulh a b c d => Sys2Proof.Machine.execMulh a b c d s
  | .mulhu a b c d => Sys2Proof.Machine.execMulhu a b c d s
  | .div a b c d => Sys2Proof.Machine.execDiv a b c d s
  | .divu a b c d => Sys2Proof.Machine.execDivu a b c d s
  | .rem a b c d => Sys2Proof.Machine.execRem a b c d s
  | .remu a b c d => Sys2Proof.Machine.execRemu a b c d s
  | .cmpEq a b c d => Sys2Proof.Machine.execCmpEq a b c d s
  | .cmpLt a b c d => Sys2Proof.Machine.execCmpLt a b c d s
  | .cmpLtu a b c d => Sys2Proof.Machine.execCmpLtu a b c d s
  | .cmpLe a b c d => Sys2Proof.Machine.execCmpLe a b c d s
  | .cmpLeu a b c d => Sys2Proof.Machine.execCmpLeu a b c d s
  | .pand a b c d => Sys2Proof.Machine.execPand a b c d s
  | .por a b c d => Sys2Proof.Machine.execPor a b c d s
  | .pxor a b c d => Sys2Proof.Machine.execPxor a b c d s
  | .pandn a b c d => Sys2Proof.Machine.execPandn a b c d s
  | .jr a b c => Sys2Proof.Machine.execJr a b c s
  | .addi a b c d => Sys2Proof.Machine.execAddi a b c d s
  | .andi a b c d => Sys2Proof.Machine.execAndi a b c d s
  | .ori a b c d => Sys2Proof.Machine.execOri a b c d s
  | .xori a b c d => Sys2Proof.Machine.execXori a b c d s
  | .shli a b c d => Sys2Proof.Machine.execShli a b c d s
  | .shri a b c d => Sys2Proof.Machine.execShri a b c d s
  | .shrai a b c d => Sys2Proof.Machine.execShrai a b c d s
  | .cmpiEq a b c d => Sys2Proof.Machine.execCmpiEq a b c d s
  | .cmpiLt a b c d => Sys2Proof.Machine.execCmpiLt a b c d s
  | .cmpiLtu a b c d => Sys2Proof.Machine.execCmpiLtu a b c d s
  | .br a b => Sys2Proof.Machine.execBr a b s
  | .call a b => Sys2Proof.Machine.execCall a b s
  | .loop a b => Sys2Proof.Machine.execLoop a b s
  | .loopi a b => Sys2Proof.Machine.execLoopi a b s
  | .ldB a b c d e => Sys2Proof.Machine.execLdB a b c d e s
  | .ldBu a b c d e => Sys2Proof.Machine.execLdBu a b c d e s
  | .ldH a b c d e => Sys2Proof.Machine.execLdH a b c d e s
  | .ldHu a b c d e => Sys2Proof.Machine.execLdHu a b c d e s
  | .ldW a b c d e => Sys2Proof.Machine.execLdW a b c d e s
  | .ldWu a b c d e => Sys2Proof.Machine.execLdWu a b c d e s
  | .ldD a b c d e => Sys2Proof.Machine.execLdD a b c d e s
  | .stB a b c d e => Sys2Proof.Machine.execStB a b c d e s
  | .stH a b c d e => Sys2Proof.Machine.execStH a b c d e s
  | .stW a b c d e => Sys2Proof.Machine.execStW a b c d e s
  | .stD a b c d e => Sys2Proof.Machine.execStD a b c d e s
  | .amoAdd a b c d e => Sys2Proof.Machine.execAmoAdd a b c d e s
  | .amoAnd a b c d e => Sys2Proof.Machine.execAmoAnd a b c d e s
  | .amoOr a b c d e => Sys2Proof.Machine.execAmoOr a b c d e s
  | .amoMax a b c d e => Sys2Proof.Machine.execAmoMax a b c d e s
  | .amoSwap a b c d e => Sys2Proof.Machine.execAmoSwap a b c d e s
  | .amoCas a b c d e => Sys2Proof.Machine.execAmoCas a b c d e s
  | .csrr a b c => Sys2Proof.Machine.execCsrr a b c s
  | .csrw a b c => Sys2Proof.Machine.execCsrw a b c s
  | .csrs a b c => Sys2Proof.Machine.execCsrs a b c s
  | .csrc a b c => Sys2Proof.Machine.execCsrc a b c s
  | .trapEnd a => Sys2Proof.Machine.execTrapEnd a s
  | .trapService a b => Sys2Proof.Machine.execTrapService a b s
  | .tfence a => Sys2Proof.Machine.execTfence a s
  | .vfaddF32 a b c d e => Sys2Proof.Machine.execVfaddF32 a b c d e s
  | .vfaddBf16 a b c d e => Sys2Proof.Machine.execVfaddBf16 a b c d e s
  | .vfsubF32 a b c d e => Sys2Proof.Machine.execVfsubF32 a b c d e s
  | .vfsubBf16 a b c d e => Sys2Proof.Machine.execVfsubBf16 a b c d e s
  | .vfmulF32 a b c d e => Sys2Proof.Machine.execVfmulF32 a b c d e s
  | .vfmulBf16 a b c d e => Sys2Proof.Machine.execVfmulBf16 a b c d e s
  | .vfmaF32 a b c d e => Sys2Proof.Machine.execVfmaF32 a b c d e s
  | .vfmaBf16 a b c d e => Sys2Proof.Machine.execVfmaBf16 a b c d e s
  | .vfmaxF32 a b c d e => Sys2Proof.Machine.execVfmaxF32 a b c d e s
  | .vfminF32 a b c d e => Sys2Proof.Machine.execVfminF32 a b c d e s
  | .vfrcp a b c d => Sys2Proof.Machine.execVfrcp a b c d s
  | .vfrsq a b c d => Sys2Proof.Machine.execVfrsq a b c d s
  | .vfexp2 a b c d => Sys2Proof.Machine.execVfexp2 a b c d s
  | .vfcmpEq a b c d => Sys2Proof.Machine.execVfcmpEq a b c d s
  | .vfcmpLt a b c d => Sys2Proof.Machine.execVfcmpLt a b c d s
  | .vfcmpLe a b c d => Sys2Proof.Machine.execVfcmpLe a b c d s
  | .vaddI32 a b c d e => Sys2Proof.Machine.execVaddI32 a b c d e s
  | .vaddI16 a b c d e => Sys2Proof.Machine.execVaddI16 a b c d e s
  | .vsubI32 a b c d e => Sys2Proof.Machine.execVsubI32 a b c d e s
  | .vmulI32 a b c d e => Sys2Proof.Machine.execVmulI32 a b c d e s
  | .vand a b c d e => Sys2Proof.Machine.execVand a b c d e s
  | .vor a b c d e => Sys2Proof.Machine.execVor a b c d e s
  | .vxor a b c d e => Sys2Proof.Machine.execVxor a b c d e s
  | .vshl a b c d e => Sys2Proof.Machine.execVshl a b c d e s
  | .vshr a b c d e => Sys2Proof.Machine.execVshr a b c d e s
  | .vshra a b c d e => Sys2Proof.Machine.execVshra a b c d e s
  | .vminI32 a b c d e => Sys2Proof.Machine.execVminI32 a b c d e s
  | .vmaxI32 a b c d e => Sys2Proof.Machine.execVmaxI32 a b c d e s
  | .vlut3 a b c d e => Sys2Proof.Machine.execVlut3 a b c d e s
  | .vfsh a b c d e => Sys2Proof.Machine.execVfsh a b c d e s
  | .vcmpEq a b c d => Sys2Proof.Machine.execVcmpEq a b c d s
  | .vcmpLt a b c d => Sys2Proof.Machine.execVcmpLt a b c d s
  | .vcmpLtu a b c d => Sys2Proof.Machine.execVcmpLtu a b c d s
  | .vcvtBf16F32 a b c d e => Sys2Proof.Machine.execVcvtBf16F32 a b c d e s
  | .vcvtF32Bf16 a b c d e => Sys2Proof.Machine.execVcvtF32Bf16 a b c d e s
  | .vcvtF32I32 a b c d => Sys2Proof.Machine.execVcvtF32I32 a b c d s
  | .vcvtI32F32 a b c d => Sys2Proof.Machine.execVcvtI32F32 a b c d s
  | .vcvtE4m3F32 a b c d e => Sys2Proof.Machine.execVcvtE4m3F32 a b c d e s
  | .vcvtF32E4m3 a b c d e => Sys2Proof.Machine.execVcvtF32E4m3 a b c d e s
  | .vqntE2m1 a b c d e => Sys2Proof.Machine.execVqntE2m1 a b c d e s
  | .vdqntE2m1 a b c d e => Sys2Proof.Machine.execVdqntE2m1 a b c d e s
  | .vmov a b c d => Sys2Proof.Machine.execVmov a b c d s
  | .vbcast a b c => Sys2Proof.Machine.execVbcast a b c s
  | .vrot a b c d e => Sys2Proof.Machine.execVrot a b c d e s
  | .vperm a b c d e => Sys2Proof.Machine.execVperm a b c d e s
  | .vsel a b c d e => Sys2Proof.Machine.execVsel a b c d e s
  | .vld a b c d e => Sys2Proof.Machine.execVld a b c d e s
  | .vst a b c d e => Sys2Proof.Machine.execVst a b c d e s
  | .vldg a b c d e => Sys2Proof.Machine.execVldg a b c d e s
  | .vredAdd a b c d e => Sys2Proof.Machine.execVredAdd a b c d e s
  | .vredMax a b c d e => Sys2Proof.Machine.execVredMax a b c d e s
  | .vany a b c => Sys2Proof.Machine.execVany a b c s
  | .vpush a b c => Sys2Proof.Machine.execVpush a b c s
  | .vpushBal a b c => Sys2Proof.Machine.execVpushBal a b c s
  | .vpop a b c d e => Sys2Proof.Machine.execVpop a b c d e s
  | .kand a b c d => Sys2Proof.Machine.execKand a b c d s
  | .kor a b c d => Sys2Proof.Machine.execKor a b c d s
  | .knot a b c => Sys2Proof.Machine.execKnot a b c s
  | .mload a b c d => Sys2Proof.Machine.execMload a b c d s
  | .mloadt a b c d => Sys2Proof.Machine.execMloadt a b c d s
  | .mmulE2m1 a b c d e f g => Sys2Proof.Machine.execMmulE2m1 a b c d e f g s
  | .mmulE4m3 a b c d e f g => Sys2Proof.Machine.execMmulE4m3 a b c d e f g s
  | .mmulE5m2 a b c d e f g => Sys2Proof.Machine.execMmulE5m2 a b c d e f g s
  | .mmulI8 a b c d e f g => Sys2Proof.Machine.execMmulI8 a b c d e f g s
  | .mmulBf16 a b c d e f g => Sys2Proof.Machine.execMmulBf16 a b c d e f g s
  | .mmulF16 a b c d e f g => Sys2Proof.Machine.execMmulF16 a b c d e f g s
  | .mmulg a b c d e f g h => Sys2Proof.Machine.execMmulg a b c d e f g h s
  | .mgrp a b c d e f g h => Sys2Proof.Machine.execMgrp a b c d e f g h s
  | .mconv a b c d e f g h => Sys2Proof.Machine.execMconv a b c d e f g h s
  | .mscl a b c d e => Sys2Proof.Machine.execMscl a b c d e s
  | .mdrainF32 a b c d e f => Sys2Proof.Machine.execMdrainF32 a b c d e f s
  | .mdrainBf16 a b c d e f => Sys2Proof.Machine.execMdrainBf16 a b c d e f s
  | .mzero a b => Sys2Proof.Machine.execMzero a b s
  | .mmode a b c => Sys2Proof.Machine.execMmode a b c s
  | .ckloc a b c => Sys2Proof.Machine.execCkloc a b c s
  | .ckfix a b => Sys2Proof.Machine.execCkfix a b s
  | .ckinj a b c => Sys2Proof.Machine.execCkinj a b c s
  | .ckrd a b c d => Sys2Proof.Machine.execCkrd a b c d s
  | .mrty a b => Sys2Proof.Machine.execMrty a b s
  | .xcopy a b c d e => Sys2Proof.Machine.execXcopy a b c d e s
  | .xsend a b c d => Sys2Proof.Machine.execXsend a b c d s
  | .xrecv a b c d e => Sys2Proof.Machine.execXrecv a b c d e s
  | .xjob a b c => Sys2Proof.Machine.execXjob a b c s
  | .xjobf a b c => Sys2Proof.Machine.execXjobf a b c s
  | .fence a b c => Sys2Proof.Machine.execFence a b c s
  | .tklend a b c d => Sys2Proof.Machine.execTklend a b c d s
  | .tklendPass a b c d => Sys2Proof.Machine.execTklendPass a b c d s
  | .tkshare a b c d => Sys2Proof.Machine.execTkshare a b c d s
  | .tkshareRv a b c d => Sys2Proof.Machine.execTkshareRv a b c d s
  | .tktake a b c d => Sys2Proof.Machine.execTktake a b c d s
  | .tktakeSh a b c d => Sys2Proof.Machine.execTktakeSh a b c d s
  | .tkret a b c => Sys2Proof.Machine.execTkret a b c s
  | .tkretSh a b c => Sys2Proof.Machine.execTkretSh a b c s
  | .tksplit a b c => Sys2Proof.Machine.execTksplit a b c s
  | .tkjoin a b c => Sys2Proof.Machine.execTkjoin a b c s
  | .tkqry a b c d => Sys2Proof.Machine.execTkqry a b c d s
  | .tkqryBase a b c d => Sys2Proof.Machine.execTkqryBase a b c d s
  | .tkqryAg a b c d => Sys2Proof.Machine.execTkqryAg a b c d s
  | .tkmint a b c => Sys2Proof.Machine.execTkmint a b c s
  | .tkmintNew a b c => Sys2Proof.Machine.execTkmintNew a b c s
  | .barm a b c => Sys2Proof.Machine.execBarm a b c s
  | .barmFree a b => Sys2Proof.Machine.execBarmFree a b s
  | .barr a b c => Sys2Proof.Machine.execBarr a b c s
  | .barrQ a b c d => Sys2Proof.Machine.execBarrQ a b c d s
  | .bwait a b c d => Sys2Proof.Machine.execBwait a b c d s
  | .realign a b c d => Sys2Proof.Machine.execRealign a b c d s
  | .srdef a b c => Sys2Proof.Machine.execSrdef a b c s
  | .srkill a b => Sys2Proof.Machine.execSrkill a b s
  | .badd a b c d e f => Sys2Proof.Machine.execBadd a b c d e f s
  | .bsub a b c d e f => Sys2Proof.Machine.execBsub a b c d e f s
  | .bmul a b c d e f => Sys2Proof.Machine.execBmul a b c d e f s
  | .bmac a b c d e f => Sys2Proof.Machine.execBmac a b c d e f s
  | .bcmp a b c d e f => Sys2Proof.Machine.execBcmp a b c d e f s
  | .blog a b c d e => Sys2Proof.Machine.execBlog a b c d e s
  | .bsum a b c d e => Sys2Proof.Machine.execBsum a b c d e s
  | .looseWaitEnd a => Sys2Proof.Machine.execLooseWaitEnd a s
  | .mQueueIssue a b => Sys2Proof.Machine.execMQueueIssue a b s
  | .bQueueIssue a => Sys2Proof.Machine.execBQueueIssue a s
  | .resultLand a => Sys2Proof.Machine.execResultLand a s
  | .accessPerform a => Sys2Proof.Machine.execAccessPerform a s
  | .pagerRelease a => Sys2Proof.Machine.execPagerRelease a s
  | .bankedOutReturn a => Sys2Proof.Machine.execBankedOutReturn a s
  | .freezeRelease a => Sys2Proof.Machine.execFreezeRelease a s
  | .interruptTaken a => Sys2Proof.Machine.execInterruptTaken a s
  | .interruptTimerExpiry a => Sys2Proof.Machine.execInterruptTimerExpiry a s
  | .phaseRestart a => Sys2Proof.Machine.execPhaseRestart a s
  | .queueEnable a => Sys2Proof.Machine.execQueueEnable a s
  | .queueRestart a b => Sys2Proof.Machine.execQueueRestart a b s
  | .contextOpen a => Sys2Proof.Machine.execContextOpen a s
  | .waveRelease a => Sys2Proof.Machine.execWaveRelease a s
  | .kernelComplete a => Sys2Proof.Machine.execKernelComplete a s
  | .yieldRequestPost a b => Sys2Proof.Machine.execYieldRequestPost a b s
  | .yieldRequestArm a b c => Sys2Proof.Machine.execYieldRequestArm a b c s
  | .yieldDeadlineExpiry a => Sys2Proof.Machine.execYieldDeadlineExpiry a s
  | .shootdownPost a b => Sys2Proof.Machine.execShootdownPost a b s
  | .shootdownAck a b => Sys2Proof.Machine.execShootdownAck a b s
  | .shootdownUpdate a => Sys2Proof.Machine.execShootdownUpdate a s
  | .timerArm a b => Sys2Proof.Machine.execTimerArm a b s
  | .runtimeMessagePost a b => Sys2Proof.Machine.execRuntimeMessagePost a b s
  | .hostWindowTableRegister a b c => Sys2Proof.Machine.execHostWindowTableRegister a b c s
  | .realignStop a b => Sys2Proof.Machine.execRealignStop a b s
  | .realignRelease a => Sys2Proof.Machine.execRealignRelease a s
  | .realignTimeout a => Sys2Proof.Machine.execRealignTimeout a s
  | .handoffRelease a => Sys2Proof.Machine.execHandoffRelease a s
  | .handoffArrival a => Sys2Proof.Machine.execHandoffArrival a s
  | .tktakeTimeout a b => Sys2Proof.Machine.execTktakeTimeout a b s
  | .jobStart a => Sys2Proof.Machine.execJobStart a s
  | .jobUnpark a => Sys2Proof.Machine.execJobUnpark a s
  | .jobComplete a => Sys2Proof.Machine.execJobComplete a s
  | .messageArrival a => Sys2Proof.Machine.execMessageArrival a s
  | .xrecvTimeout a => Sys2Proof.Machine.execXrecvTimeout a s
  | .orphanMessageTimeout a b => Sys2Proof.Machine.execOrphanMessageTimeout a b s
  | .chainPartialArrival a => Sys2Proof.Machine.execChainPartialArrival a s
  | .barmArrival a => Sys2Proof.Machine.execBarmArrival a s
  | .barrierEvent a => Sys2Proof.Machine.execBarrierEvent a s
  | .barrierNotice a => Sys2Proof.Machine.execBarrierNotice a s
  | .bwaitDeadline a b => Sys2Proof.Machine.execBwaitDeadline a b s
  | .flitReceive a b => Sys2Proof.Machine.execFlitReceive a b s
  | .linkTrainingDone a b c => Sys2Proof.Machine.execLinkTrainingDone a b c s
  | .lstatRplyClear a b => Sys2Proof.Machine.execLstatRplyClear a b s
  | .hostMemAccess a => Sys2Proof.Machine.execHostMemAccess a s
  | .packageNumberSet a b => Sys2Proof.Machine.execPackageNumberSet a b s
  | .firmwareUpdate a b => Sys2Proof.Machine.execFirmwareUpdate a b s
  | .elogRdWrite a => Sys2Proof.Machine.execElogRdWrite a s
  | .elogLostClear a => Sys2Proof.Machine.execElogLostClear a s
  | .managementPathTkmint a b => Sys2Proof.Machine.execManagementPathTkmint a b s
  | .managementPathBarrierArm a => Sys2Proof.Machine.execManagementPathBarrierArm a s
  | .managementPathBarrierFree a => Sys2Proof.Machine.execManagementPathBarrierFree a s
  | .rett => Sys2Proof.Machine.execRett s
  | .node0 => Sys2Proof.Machine.execNode0 s
  | .node1 => Sys2Proof.Machine.execNode1 s
  | .node2 => Sys2Proof.Machine.execNode2 s
  | .yield => Sys2Proof.Machine.execYield s
  | .checkerMismatch => Sys2Proof.Machine.execCheckerMismatch s
  | .refreshSlot => Sys2Proof.Machine.execRefreshSlot s
  | .frameEnd => Sys2Proof.Machine.execFrameEnd s
  | .framePulse => Sys2Proof.Machine.execFramePulse s
  | .launch => Sys2Proof.Machine.execLaunch s
  | .fencePacket => Sys2Proof.Machine.execFencePacket s
  | .fencePoll => Sys2Proof.Machine.execFencePoll s
  | .signal => Sys2Proof.Machine.execSignal s
  | .jobPacket => Sys2Proof.Machine.execJobPacket s
  | .tokenMint => Sys2Proof.Machine.execTokenMint s
  | .tokenLend => Sys2Proof.Machine.execTokenLend s
  | .tokenPass => Sys2Proof.Machine.execTokenPass s
  | .tokenReturn => Sys2Proof.Machine.execTokenReturn s
  | .nop => Sys2Proof.Machine.execNop s
  | .queueLevelAging => Sys2Proof.Machine.execQueueLevelAging s
  | .queueDisable => Sys2Proof.Machine.execQueueDisable s
  | .contextClose => Sys2Proof.Machine.execContextClose s
  | .contextFree => Sys2Proof.Machine.execContextFree s
  | .placeWave => Sys2Proof.Machine.execPlaceWave s
  | .gateRequest => Sys2Proof.Machine.execGateRequest s
  | .drainingQuiet => Sys2Proof.Machine.execDrainingQuiet s
  | .gateCounterExpiry => Sys2Proof.Machine.execGateCounterExpiry s
  | .wakeRequest => Sys2Proof.Machine.execWakeRequest s
  | .wakeComplete => Sys2Proof.Machine.execWakeComplete s
  | .stackOffline => Sys2Proof.Machine.execStackOffline s
  | .forcedOffline => Sys2Proof.Machine.execForcedOffline s
  | .debuggerHalt => Sys2Proof.Machine.execDebuggerHalt s
  | .debuggerResume => Sys2Proof.Machine.execDebuggerResume s
  | .coreCountClear => Sys2Proof.Machine.execCoreCountClear s
  | .replayComplete => Sys2Proof.Machine.execReplayComplete s
  | .retrainTimeout => Sys2Proof.Machine.execRetrainTimeout s
  | .linkRetrainRequest => Sys2Proof.Machine.execLinkRetrainRequest s
  | .linkRetireRequest => Sys2Proof.Machine.execLinkRetireRequest s
  | .linkReset => Sys2Proof.Machine.execLinkReset s
  | .powerUp => Sys2Proof.Machine.execPowerUp s
  | .measurementRequest => Sys2Proof.Machine.execMeasurementRequest s
  | .temperatureHigh => Sys2Proof.Machine.execTemperatureHigh s
  | .temperatureNormal => Sys2Proof.Machine.execTemperatureNormal s
  | .malformedPacket => Sys2Proof.Machine.execMalformedPacket s

end Sys2Proof.Machine
end

