-- ==== Sys2Proof/Machine/Due.lean ====
section
/-! DEFINITION. What happens next (R6, R8, R107, R113, R351, R357, R364): which entry of the agenda is due, in which order the entries of one kc
take place, what an entry does, and the queue scheduler's turn (R323, R324). Entries of one kc go in this order: what finishes under drain
semantics (R369), arrivals, what faults in this kc, then everything else phase by phase. -/

namespace Sys2Proof.Machine

/-- A clock runs: kernel time stands in a frame gap, and in a zone that has stopped (R338, R343). -/
def clockRuns (s : State) (c : Clk) : Bool :=
  match c with
  | .kern g z => (gzone (groupOf s g) z).go && decide ((stackOf s z).f < Config.frameKc)
  | _ => true

/-- The time of an entry has come. -/
def entryDue (s : State) (e : Timed) : Bool := decide (e.at_ ≤ timeOf s e.clk) && clockRuns s e.clk

/-- The entry belongs to a strand whose handler runs or is about to, or whose page the pager brings in: a strand takes one fault at a freeze, and
what it had besides is raised again after `rett` or the page's arrival (R357, R283). -/
def strandTrapped (s : State) (e : Timed) : Bool :=
  s.banks.any (fun x => x.2.trap && ofBank x.1 e) || s.pages.any (fun j => (j.2.banks ++ j.2.drained).any (fun b => ofBank b e))

/-- The entry stands at the kc in which its zone has just stopped for a freeze: of such entries only those that fault take place (R364). -/
def stoppedNow (s : State) (e : Timed) : Bool :=
  match e.clk with
  | .kern g z =>
    let y := gzone (groupOf s g) z
    !y.go && decide (y.stopH = s.hkc) && !y.reported && decide (e.at_ ≤ y.kc) && !strandTrapped s e
  | _ => false

/-- The entry is an operation of a word (R364) rather than something that arrives at a unit. -/
def ofWord (e : Timed) : Bool :=
  match e.pay with
  | .fetch _ => true
  | .word _ => true
  | .enter _ _ => true
  | .stop _ _ => false
  | .leave _ => true
  | .ev (.resultLand _) => true
  | .ev (.accessPerform _) => true
  | .ev (.handoffRelease _) => true
  | .ev (.interruptTaken _) => true
  | .ev _ => false

/-- The entry arrives: something from outside its unit, or an event of the hub. -/
def isArrival (e : Timed) : Bool := decide (e.ph = 0) && !ofWord e

/-- A list of numbers comes before another. -/
def keyLt (a b : List Nat) : Bool :=
  match a, b with
  | x :: s, y :: t => if x < y then true else if y < x then false else keyLt s t
  | [], _ :: _ => true
  | _, [] => false

/-- An entry takes its place in a list by key. -/
def insertKey (k : Timed → List Nat) (e : Timed) (l : List Timed) : List Timed :=
  match l with
  | [] => [e]
  | x :: t => if keyLt (k e) (k x) then e :: x :: t else x :: insertKey k e t

/-- The first entry of a list by key. -/
def firstBy (k : Timed → List Nat) (l : List Timed) : Option Timed :=
  l.foldl (fun m e => match m with
    | none => some e
    | some x => if keyLt (k e) (k x) then some e else m) none

/-- The kc by which a landing is placed: that at which its word issued; `srdef` and `srkill` that reach a slot in one kc go by row (R159). -/
def landArg (e : Timed) : Nat :=
  match e.pay with
  | .ev (.resultLand l) => (match l.kind with | .srdef _ _ _ => e.at_ | .srkill _ => e.at_ | _ => e.ctx.arg)
  | _ => e.ctx.arg

/-- The place of an entry among those of one kc that nothing sets apart: by phase; landings and words of the S engine by the kc at which they
issued. -/
def plainKey (e : Timed) : List Nat := [e.ph, if e.ph = 0 then landArg e else 0, e.row, e.eng, e.seq]

/-- The state without an entry of its agenda. -/
def without (s : State) (e : Timed) : State := { s with agenda := s.agenda.filter (fun x => x.seq != e.seq) }

/-- The executing of an entry's instruction in a state: the state after it and without it, or the same where it does not go on. -/
def ran (s : State) (e : Timed) : State :=
  let s1 := { without s e with cur := e.ctx }
  match (match e.pay with
    | .word w => (match decode w with | .ok i => exec i s1 | .error _ => .next s)
    | .ev i => exec i s1
    | _ => .next s : Host.Outcome State Fault Refusal) with
  | .next t => t
  | _ => s

/-- The landing of an `srkill` whose handle is stale (R159). -/
def killFault (s : State) (e : Timed) (l : Landing) : Bool :=
  match l.kind with
  | .srkill h => killStale s e.ctx.bank h
  | _ => false

/-- What lands in this kc, and the S words that execute in it, as the packet and the words of bank `b` find them (R63, R65): also the slots that other
strands of its group define or free in its stack (R157). -/
def bankView (s : State) (b : Nat) : State :=
  let mine (l : Landing) : Bool := match l.kind with | .srdef _ _ _ => true | .srkill _ => true | _ => false
  let l := s.agenda.filter (fun e => decide (e.ph = 0) && entryDue s e && (match e.pay with
    | .ev (.resultLand x) => decide (e.ctx.bank = b) || (mine x && decide (e.ctx.grp = (strandOf s b).grp) && decide (bankStack e.ctx.bank = bankStack b))
    | .word _ => decide (e.ctx.bank = b)
    | _ => false))
  (l.foldl (fun m e => insertKey plainKey e m) []).foldl (fun st e => if (match e.pay with | .ev (.resultLand x) => killFault st e x | _ => false) then st else ran st e) s

/-- The place of a stream word among those of one kc (R147): pops, then pushes, by row. -/
def streamRank (e : Timed) : Option (List Nat) :=
  match e.pay with
  | .word w =>
    (match decode w with
     | .ok (.vpop _ _ _ _ _) => some [0, e.row, e.seq]
     | .ok (.vpush _ _ _) => some [1, e.row, e.seq]
     | .ok (.vpushBal _ _ _) => some [1, e.row, e.seq]
     | _ => none)
  | _ => none

/-- What a push of this kc finds (R119, R147): what lands in it, its row pair's pops, and the pushes of the lower row. -/
def pushView (s : State) (e : Timed) : State :=
  let before (x : Timed) : Bool :=
    match streamRank x, streamRank e with
    | some a, some b => keyLt a b
    | _, _ => false
  let l := s.agenda.filter (fun x => entryDue s x && decide (bankRow x.ctx.bank / 2 = bankRow e.ctx.bank / 2) && before x)
  let key (x : Timed) : List Nat := (streamRank x).getD []
  (l.foldl (fun m x => insertKey key x m) []).foldl ran (bankView (bankView s e.ctx.bank) (pairedBank s e.ctx.bank))

/-- By how much a push of this kc does not fit (R144): 0 where it fits. -/
def pushOver (s : State) (e : Timed) : Nat :=
  let c := e.ctx
  let excess (g : BitVec 4) (q : Nat) (a : BitVec 6) (bal : Bool) : Nat :=
    let v := { pushView s e with cur := c }
    if g.toNat = 0 ∨ c.preds.getLsbD g.toNat then pushExcess v c.bank q bal (pickLanes (maskOf (curStrand v) 0) (srcV v a)).length else 0
  match e.pay with
  | .word w =>
    (match decode w with
     | .ok (.vpush g d a) => excess g d.toNat a false
     | .ok (.vpushBal g d a) => excess g d.toNat a true
     | _ => 0)
  | _ => 0

/-- The vector registers and latches that a V word reads at its engine (R71, R119, R126): the selector of the operand and the number, latches
from 48. -/
def vecReads (s : State) (c : Ctx) (w : Word) : List (Nat × Nat) :=
  let x := w.toNat
  let op := wordOp w
  let d := bitsOf x 13 6
  let a := (1, bitsOf x 7 6)
  let b := (2, bitsOf x 1 6)
  let old := (3, if bitOf x 0 then 48 + (4 * c.unit + timeOf s (ctxClk c) % 4) else d)
  if wordEng w ≠ 1 then []
  else if op = 0x07 ∨ op = 0x08 ∨ op = 0x1D then [a, b, old]
  else if op = 0x26 ∨ op = 0x28 then [a, old]
  else if op = 0x30 then [(3, d)]
  else if op ≤ 0x0A ∨ (0x0E ≤ op ∧ op ≤ 0x22) ∨ op = 0x2D ∨ op = 0x2E then [a, b]
  else if op = 0x2B ∨ op = 0x2F ∨ op = 0x34 ∨ 0x36 ≤ op then []
  else [a]

/-- A vector register or latch that the word reads and that fails its parity (R127, R380): its selector, and whether it cannot be rebuilt; one
that cannot comes first. -/
def vecFails (s : State) (c : Ctx) (w : Word) : Option (Nat × Bool) :=
  let t := strandOf s c.bank
  let on := wordGuard w = 0 ∨ c.preds.getLsbD (wordGuard w)
  let l := if on then (vecReads s c w).flatMap (fun e => (failsIn t.vbad [e.2]).map (fun x => (e.1, wordDead t.vbad 48 x))) else []
  match l.find? (fun e => e.2) with
  | some e => some e
  | none => l.head?

/-- The failing sources of a V word are rebuilt (R380). -/
def healVec (s : State) (c : Ctx) (w : Word) : State := rebuildVec s c.bank ((vecReads s c w).map (·.2))

/-- A word at its engine with its instruction: what it reads passes its parity and it executes, or a vector source is rebuilt under a freeze
with no trap, or cannot be, which is its late fault (R127, R380). `bad` is what its sources show. A handler's word goes on at once. -/
def runVector (s : State) (w : Word) (i : Instr) (bad : Option (Nat × Bool)) : Host.Outcome State Fault Refusal :=
  match bad with
  | none => exec i s
  | some (sel, true) => .next (lateFault s 2 (.word w) (mkRec s s.cur 0x32 sel 0 0 true false) [])
  | some (_, false) =>
    let s1 := healVec s s.cur w
    if s.cur.hand ∨ s.cur.drain then exec i s1
    else .next (endStop (freezeGroup (post s1 (ctxClk s.cur) (now s) 2 (bankRow s.cur.bank) (engineRank 1) s.cur (.word w)) s.cur.grp
      (bankStack s.cur.bank) .rebuild) s.cur.grp (bankStack s.cur.bank) .rebuild)

/-- A word that faults at its engine: a receive that meets a message which does not fit (R264), or whose buffer fails its parity (R380). -/
def wordFaults (s : State) (c : Ctx) (w : Word) : Bool :=
  let on (g : BitVec 4) : Bool := decide (g.toNat = 0) || c.preds.getLsbD g.toNat
  match decode w with
  | .ok (.xrecv g _ _ _ _) =>
    on g && (match Sparse.find (strandOf s c.bank).chans (recvChan c) with
      | some x => chanBad s c.bank (recvChan c) || !fits { c with word := w } x.msg
      | none => false)
  | _ => false

/-- A hand-off to an agent reaches it in this kc (R231, R451). -/
def handComing (s : State) (id agent : Nat) (share : Bool) : Bool :=
  s.agenda.any (fun e => entryDue s e && (match e.pay with
    | .ev (.handoffRelease h) => decide (h.tok = id) && decide (h.target = agent) && ((h.kind == .share) == share)
    | .ev (.handoffArrival h) => decide (h.tok = id) && decide (h.target = agent) && ((h.kind == .share) == share)
    | _ => false))

/-- The strand of bank `b` as a fault of this kc finds it: as it was before a stop of this kc. -/
def asBefore (s : State) (e : Timed) (b : Nat) : State :=
  if stoppedNow s e then setStrand s b (thawStrand (strandOf s b)) else s

/-- The age of a fault (R357): the kc of its packet, the place of its engine, and that of its word. -/
def ageOf (c : Ctx) (w : Word) : List Nat := [c.pkc, engineRank (wordEng w), c.waddr]

/-- The age of an interrupt (R357): it comes behind every fault of its kc. -/
def interruptAge (s : State) (b : Nat) : List Nat := [bankKc s b, 9, 0]

/-- What the sources of a V word show, with the results that land in this kc (R119, R127, R450). -/
def sourcesBad (s : State) (c : Ctx) (w : Word) : Option (Nat × Bool) := vecFails (bankView s c.bank) c w

/-- The entry faults in this kc, or makes its group stand for a word that is rebuilt (R357, R364, R380): the age of the word at fault. -/
def dueFault (s : State) (e : Timed) : Option (List Nat) :=
  let c := e.ctx
  let old (f : Bool) : Option (List Nat) := if f then some (ageOf c c.word) else none
  match e.pay with
  | .fetch b =>
    let v := asBefore (bankView s b) e b
    (match fetchFault v b with
     | some x => some (ageOf x.1 x.1.word)
     | none =>
       if fetchInterrupt v b then some (interruptAge s b)
       else if !stoppedNow s e && !(strandOf s b).trap && fetchReady v b && fetchLame v b then some [bankKc s b, 0, (strandOf s b).cp]
       else none)
  | .enter _ r => some [r.pkc, engineRank r.eng, r.waddr]
  | .stop _ _ => none
  | .leave _ => none
  | .word w => old (wordFaults s c w || decide (pushOver s e ≠ 0) || (match sourcesBad s c w with | some (_, dead) => dead || (!c.hand && !c.drain) | none => false))
  | .ev (.accessPerform a) =>
    if stepDead s c a ∨ (accessHole s c a).isSome then none
    else old (accessRebuilds s c a && !c.hand || (!cacheHit s c a && (performFault s c a).isSome))
  | .ev (.resultLand l) => old (killFault s e l || (landRebuilds s c l && !c.hand && !c.drain))
  | .ev (.mQueueIssue r _) =>
    (match headWord (rowOf s r) c with
     | some q => old (mMayIssue s q.word c (rowOf s r) (timeOf s (ctxClk c)) && (rectFault s q (timeOf s (ctxClk c))).isSome)
     | none => none)
  | .ev (.tktakeTimeout id share) =>
    old (!handArrived s id (bankAgent s c.bank) share && !handComing s id (bankAgent s c.bank) share)
  | .ev (.xrecvTimeout _) => old true
  | .ev (.orphanMessageTimeout ch n) => if (orphanAt s c.bank ch n).isSome then some [bankKc s c.bank, 2, 0] else none
  | .ev (.interruptTaken b) => if (dueInterrupt (strandOf s b)).isSome && !fetchGone s b then some (interruptAge s b) else none
  | .ev (.bwaitDeadline i n) => old (!deadlineMet s c i n)
  | .ev (.realignTimeout b) => old (realignLate s b)
  | .ev (.messageArrival m) =>
    (match meets s m with
     | .orphan b => if bankRuns s b then some [bankKc s b, 2, 0] else none
     | .taken _ _ x => if fits x.ctx m then none else some (ageOf x.ctx x.word)
     | _ => none)
  | .ev (.chainPartialArrival p) => (edgeFault s p).map (fun x => [x.2.pkc, engineRank 2, x.2.waddr])
  | .ev _ => none

/-- The groups whose yield deadline expires in this kc (R309). -/
def expiring (s : State) : List Nat :=
  s.agenda.filterMap (fun e => match e.pay with
    | .ev (.yieldDeadlineExpiry g) => if entryDue s e && deadlineOver s e.ctx then some g else none
    | _ => none)

/-- A packet of bank `b` that yields in this kc (R113, R309). -/
def fetchYields (s : State) (b : Nat) : Bool :=
  match decode (BitVec.ofNat 32 (imageWord s (bankStack b) (bankGroup s b).kern ((strandOf s b).cp + 4))) with
  | .ok .yield => (fetchFault (bankView s b) b).isNone
  | .ok .node2 => (strandOf s b).yreq.getLsbD 0 && (fetchFault (bankView s b) b).isNone
  | _ => false

/-- The expiry of its group's deadline keeps an entry back (R309, R310): of the kc of an expiry only a yield takes place, and a hand-off
whose H it is. -/
def keptBack (s : State) (gs : List Nat) (e : Timed) : Bool :=
  gs.any (ofGroup s · e) && (match e.pay with
    | .ev (.yieldDeadlineExpiry _) => false
    | .ev (.handoffRelease _) => false
    | .fetch b => !fetchYields s b
    | .word w => (match decode w with | .ok .yield => false | .ok .node2 => false | _ => true)
    | _ => true)

/-- A strand's end in this kc, in a group of which nothing faults in it: the group may complete in the kc in which another is killed (R334). -/
def endsClean (s : State) (e : Timed) : Bool :=
  (match e.pay with | .word w => (match decode w with | .ok (.trapEnd _) => true | _ => false) | _ => false) &&
    !s.agenda.any (fun x => entryDue s x && decide (x.ctx.grp = e.ctx.grp) && (dueFault s x).isSome)

/-- The place of an entry that is due among all that are. What finishes under drain semantics goes oldest word first, vector results in the order
of their units (R369). -/
def dueKey (s : State) (e : Timed) : List Nat :=
  if e.ctx.drain then [0, e.ctx.pkc, engineRank (wordEng e.ctx.word), if wordEng e.ctx.word = 1 then e.ctx.unit else 0, e.ctx.waddr, e.seq]
  else match dueFault s e with
    | some k => 2 :: k ++ [e.seq]
    | none => if isArrival e then [1, e.row, e.seq] else if endsClean s e then [1, 1024, e.row, e.seq] else 3 :: plainKey e

/-- The entry may take place now. -/
def mayGo (s : State) (gs : List Nat) (e : Timed) : Bool :=
  (entryDue s e || (stoppedNow s e && (dueFault s e).isSome)) && !keptBack s gs e

/-- The entry of the agenda that takes place next, if one is due. -/
def nextDue (s : State) : Option Timed :=
  let gs := expiring s
  firstBy (dueKey s) (s.agenda.filter (mayGo s gs))

/-- A fetch that is due: its packet faults with what validation finds (R65), an interrupt is taken (R370), or it is fetched and its header
executes. -/
def runFetch (s : State) (e : Timed) (b : Nat) : Host.Outcome State Fault Refusal :=
  let s1 := { without s e with cur := e.ctx }
  let v := asBefore (bankView s b) e b
  match fetchFault v b with
  | some (c, f) => .next (dispatchFault s1 b c f)
  | none =>
    if fetchInterrupt v b then exec (.interruptTaken b) (refetch s1 b 0)
    else match fetchPacket s1 b with
      | .done t => .next t
      | .run i t => exec i t

/-- What an entry of the agenda does. -/
def runEntry (s : State) (e : Timed) : Host.Outcome State Fault Refusal :=
  let s1 := { without s e with cur := e.ctx }
  match e.pay with
  | .fetch b => runFetch s e b
  | .word w =>
    (match decode w with
     | .ok i =>
       if pushOver s e = 0 ∨ (sourcesBad s e.ctx w).isSome then runVector s1 w i (sourcesBad s e.ctx w) else .next (pushFault s1 (pushOver s e))
     | .error _ => .next s1)
  | .ev i => exec i s1
  | .enter b r => .next (takeException s1 b r (bankKc s1 b) e.ctx [] none)
  | .stop g z => .next (stopZone s1 g z)
  | .leave g =>
    .next (if (groupOf s1 g).st ≠ .yielding then s1
      else if allStrands s1 g (fun y => y == .done || y == .yielded) then leaveWhenDone s1 g
      else post s1 .hub (s1.hkc + 1) 5 0 0 s1.cur (.leave g))

/-- A packet of a queue before its head has not been performed, as of the last turn (R316, R324). -/
def earlierOpen (x : Queue) : Bool := !x.pend.isEmpty || !x.fence.isEmpty

/-- The head packet of a queue waits for every packet before it (R316, R319). -/
def headOrd (s : State) (q : Nat) : Bool := decide (fieldAt s (headAddr s q) 0 1 = 3) || bitOf (fieldAt s (headAddr s q) 1 1) 0

/-- The queue has a packet to parse (R314). -/
def hasHead (x : Queue) : Bool := decide (x.ci < x.pi)

/-- Whether a queue is held by its head, as the turn finds it (R322). -/
def heldNow (s : State) (q : Nat) : State :=
  let x := queueOf s q
  let wait := hasHead x && headOrd s q && earlierOpen x
  match x.st with
  | .idle => if wait then putQueue s q { x with st := .held } else s
  | .held => if wait then s else putQueue s q { x with st := .idle }
  | _ => s

/-- A queue's head may be parsed (R322, R323): a refresh slot (R376) or a word that is rebuilt (R380) holds up the reading of its ring. -/
def eligible (s : State) (q : Nat) : Bool :=
  let x := queueOf s q
  hasHead x && decide (x.busy ≤ s.hkc) && decide (slotLeft s (headAddr s q) 64 = 0) && (match x.st with
    | .idle => true
    | .suspended => decide (fieldAt s (headAddr s q) 0 1 = 1) && decide (fieldAt s (headAddr s q) 8 8 = (contextOf s x.ctx).recovk) &&
        decide ((contextOf s x.ctx).recovk ≠ 0) && !(headOrd s q && earlierOpen x)
    | _ => false)

/-- The head of a queue has become eligible: its level starts, and its waiting is counted (R323). -/
def startWaiting (s : State) (q : Nat) : State :=
  let x := queueOf s q
  if eligible s q && x.since.isNone then
    post (setQueue s q { x with since := some s.hkc, level := x.bud.prio }) .hub (s.hkc + 2 ^ 20) 0 0 0 { Ctx.none with arg := q, pkc := s.hkc }
      (.ev .queueLevelAging)
  else s

/-- The queue that wins the turn (R323): of the highest level, the first after the one served last at that level. -/
def winner (s : State) : Option Nat :=
  let l := (s.queues.filter (fun e => eligible s e.1)).map (fun e => (e.1, e.2.level))
  let top := l.foldl (fun m e => max m e.2) 0
  let at_ := (l.filter (fun e => decide (e.2 = top))).map (·.1)
  let last := Sparse.find s.lastServed top
  match (at_.find? (fun q => match last with | some n => decide (n < q) | none => true)), at_ with
  | some q, _ => some q
  | none, q :: _ => some q
  | none, [] => none

/-- The instruction of the packet at the head of a queue (R316, R321). -/
def packetInstr (s : State) (q : Nat) : Instr :=
  let p := headAddr s q
  if !packetForm s p then .malformedPacket
  else match fieldAt s p 0 1 with
    | 1 => .launch
    | 2 => .fencePacket
    | 3 => .signal
    | 4 => .jobPacket
    | 5 => (match fieldAt s p 2 1 with | 0 => .tokenMint | 1 => .tokenLend | 2 => .tokenPass | _ => .tokenReturn)
    | _ => .nop

/-- A queue as the next turn will see it (R324): the producer index and the packets not performed, as of the end of this kc. -/
def lookAhead (s : State) (q : Nat) : State :=
  let x := queueOf s q
  if x.st = .disabled then s
  else setQueue s q { x with pi := readNat s (paLocal x.bell) 8, pend := x.pend.filter (fun p => !performed s p), fence := x.fence.filter (fun e => !e.2.isEmpty) }

/-- A queue whose producer index is out of range (R314). -/
def overflowed (s : State) : Option Nat :=
  (s.queues.find? (fun e => (match e.2.st with | .idle => true | .held => true | .fenced => true | _ => false) && overflow e.2)).map (·.1)

/-- The scheduler's turn of a hub kc (R323): one packet of one queue is parsed. -/
def takeTurn (s : State) : Host.Outcome State Fault Refusal :=
  let qs := s.queues.keys
  match overflowed s with
  | some q => exec .malformedPacket { s with cur := { Ctx.none with arg := q } }
  | none =>
    let s1 := qs.foldl startWaiting (qs.foldl heldNow s)
    match winner s1 with
    | none => .next { s1 with turned := true }
    | some q =>
      let x := queueOf s1 q
      let i := packetInstr s1 q
      let p := paLocal (headAddr s1 q)
      if runRebuilds s1 p 64 then .next { setQueue (afterRead s1 p 64) q { x with busy := s1.hkc + 64 } with turned := true } else
      let s2 := setQueue { s1 with lastServed := s1.lastServed.put x.level q } q { x with level := x.bud.prio }
      exec i { s2 with turned := true, cur := { Ctx.none with arg := q } }

/-- Something that the outside world does (log entry 7): the host, the management path, the debugger, the neighbours, the sensors, the
scheduler's choice to pre-empt (R309), and a mismatch that a checker core finds (R93). -/
def fromOutside (i : Instr) : Bool :=
  match i with
  | .queueEnable _ => true
  | .queueRestart _ _ => true
  | .queueDisable => true
  | .contextOpen _ => true
  | .contextClose => true
  | .shootdownPost _ _ => true
  | .yieldRequestPost _ _ => true
  | .timerArm _ _ => true
  | .runtimeMessagePost _ _ => true
  | .hostWindowTableRegister _ _ _ => true
  | .hostMemAccess _ => true
  | .flitReceive _ _ => true
  | .linkTrainingDone _ _ _ => true
  | .linkRetrainRequest => true
  | .linkRetireRequest => true
  | .linkReset => true
  | .lstatRplyClear _ _ => true
  | .packageNumberSet _ _ => true
  | .firmwareUpdate _ _ => true
  | .measurementRequest => true
  | .powerUp => true
  | .elogRdWrite _ => true
  | .elogLostClear _ => true
  | .managementPathTkmint _ _ => true
  | .managementPathBarrierArm _ => true
  | .managementPathBarrierFree _ => true
  | .stackOffline => true
  | .forcedOffline => true
  | .temperatureHigh => true
  | .temperatureNormal => true
  | .debuggerHalt => true
  | .debuggerResume => true
  | .checkerMismatch => true
  | .coreCountClear => true
  | _ => false

/-- What the side-band port does while the main side is held (R397, R399): bring-up, the package number, firmware, measurements and the log. -/
def sideBand (i : Instr) : Bool :=
  match i with
  | .packageNumberSet _ _ => true
  | .firmwareUpdate _ _ => true
  | .measurementRequest => true
  | .powerUp => true
  | .elogRdWrite _ => true
  | .elogLostClear _ => true
  | .hostMemAccess _ => true
  | _ => false

/-- An input that comes after the turn of its kc (R324): a queue is disabled. -/
def afterTurn (s : State) (i : Instr) : Bool := s.dev.ready && !s.turned && (match i with | .queueDisable => true | _ => false)

/-- What takes place where nothing comes from outside: the next entry that is due, the scheduler's turn, or the next hub kc. -/
def advance (s : State) : Host.Outcome State Fault Refusal :=
  match nextDue s with
  | some e => runEntry s e
  | none => if s.dev.ready && !s.turned then takeTurn s else .next (tick (s.queues.keys.foldl lookAhead s))

/-- The next thing of the outside world takes place, with the number of what it acts on. Before the package is ready, the main side is held (R397):
a host access only fails (R399). -/
def takeInput (s : State) (n : Nat) (i : Instr) (rest : List (Nat × Instr)) : Host.Outcome State Fault Refusal :=
  if afterTurn s i then advance s else
  let s1 := { s with inputs := rest }
  if fromOutside i && (s.dev.ready || sideBand i) then exec i { s1 with cur := { Ctx.none with arg := n } } else .next s1

/-- A group and a kernel for a word placed by hand (log entry 7). -/
def loadGroup : Group :=
  { Group.blank with st := .running, kern := 1, mode := 0, rR := 1, rS := 1, inst := 1,
                     zones := [{ z := 0, kc := 0, go := true, stopN := 0, stopH := 0, resN := none, reported := false }] }

def loadKernel : Kernel :=
  { Kernel.blank with st := .running, code := 0, csize := 0x1000, usev := true, usem := true, useb := true, gx := 1, gy := 1, gz := 1, nextL := 1 }

/-- The context of a word placed by hand: bank 0, every predicate true, and a packet that has just issued. -/
def loadCtx (s : State) (w : Word) : Ctx :=
  { Ctx.none with bank := 0, grp := 1, pkc := bankKc s 0, arg := bankKc s 0, waddr := 4, hdr := 0, nxt := 8, word := w }

/-- The package runs: it has come up, or comes up now (R397). -/
def broughtUp (s : State) : State :=
  if s.dev.powered then s
  else match execPowerUp s with
    | .next t => t
    | _ => s

/-- The state in which bank 0 runs a strand of group 1, whose image holds a header and the word behind it. -/
def loadStrand (s : State) (h w : Nat) : State :=
  let s1 := setKernel (setGroup (broughtUp s) 1 loadGroup) 1 loadKernel
  let st := stackOf s1 0
  let s2 := setStack s1 0 { st with images := st.images.put 1 { base := 0, size := 0x1000 }, f := if st.f < Config.frameKc then st.f else 0 }
  let s3 := setStrand s2 0 { Strand.empty with st := .running, prev := .running, grp := 1 }
  let s4 := setRow s3 0 { Row.empty with pwr := .on }
  writeNat (writeNat s4 (imemAddr 0 0) 4 h) (imemAddr 0 4) 4 w

/-- The word goes to an engine: it decodes, and is no packet header (R59, R66). -/
def isEngineWord (w : Nat) : Bool :=
  match decode (BitVec.ofNat 32 w) with
  | .ok (.packetHeader _ _ _) => false
  | .ok _ => true
  | .error _ => false

/-- The word is a packet header (R59). -/
def isHeaderWord (w : Nat) : Bool :=
  match decode (BitVec.ofNat 32 w) with
  | .ok (.packetHeader _ _ _) => true
  | _ => false

/-- The state in which an instruction is the very next thing to take place (log entry 7): an engine word as a word of its packet, already at
its engine; a header as the packet that bank 0 fetches; and what is neither as the one word of that packet. -/
def placeWord (s : State) (w : Nat) : State :=
  let s1 := if isHeaderWord w then loadStrand s w 0 else loadStrand s 0xC0002000 w
  let s2 := { s1 with inputs := [], agenda := s1.agenda.filter (fun e => !entryDue s1 e) }
  let c := loadCtx s2 (BitVec.ofNat 32 w)
  if isEngineWord w then post s2 (.kern 1 0) (bankKc s2 0) 2 0 (engineRank (wordEng c.word)) c (.word c.word)
  else post s2 (.kern 1 0) (bankKc s2 0) 1 0 0 c (.fetch 0)

end Sys2Proof.Machine
end

