-- ==== Sys2Proof/Machine/Step.lean ====
section
/-! DEFINITION. One step of the machine: what the outside world does next, or else the entry of the agenda that is due, the queue
scheduler's turn, or the hub's next kc. -/

namespace Sys2Proof.Machine

/-- One step (R5, R6): an atomic step of the spec takes place, or the hub's clock goes on. -/
def step (s : State) : Host.Outcome State Fault Refusal :=
  match s.inputs with
  | (n, i) :: rest => takeInput s n i rest
  | [] => advance s

/-- The state in which the very next step runs the instruction whose word is `w`; the spec's opcode table numbers no bits of an event, so
only 32-bit words are placed (log entry 7). -/
def State.withFetchWord (s : State) (nbits w : Nat) : State := if nbits = 32 then placeWord s (w % 2 ^ 32) else s

end Sys2Proof.Machine
end

