-- ==== Sys2Proof/Safety.lean ====
section
/-! DEFINITION. What claims about the machine are stated in: the guard field of a word, which parts of the state an instruction leaves
alone, and the invariant that every step keeps. -/

namespace Sys2Proof.Machine

/-- The guard field G of a word that has one (R57, R72). -/
def guardField (i : Instr) : Option (BitVec 4) :=
  match i with
  | .add g _ _ _ => some g
  | .sub g _ _ _ => some g
  | .and g _ _ _ => some g
  | .or g _ _ _ => some g
  | .xor g _ _ _ => some g
  | .shl g _ _ _ => some g
  | .shr g _ _ _ => some g
  | .shra g _ _ _ => some g
  | .min g _ _ _ => some g
  | .max g _ _ _ => some g
  | .clz g _ _ => some g
  | .popc g _ _ => some g
  | .mul g _ _ _ => some g
  | .mulh g _ _ _ => some g
  | .mulhu g _ _ _ => some g
  | .div g _ _ _ => some g
  | .divu g _ _ _ => some g
  | .rem g _ _ _ => some g
  | .remu g _ _ _ => some g
  | .cmpEq g _ _ _ => some g
  | .cmpLt g _ _ _ => some g
  | .cmpLtu g _ _ _ => some g
  | .cmpLe g _ _ _ => some g
  | .cmpLeu g _ _ _ => some g
  | .pand g _ _ _ => some g
  | .por g _ _ _ => some g
  | .pxor g _ _ _ => some g
  | .pandn g _ _ _ => some g
  | .jr g _ _ => some g
  | .addi g _ _ _ => some g
  | .andi g _ _ _ => some g
  | .ori g _ _ _ => some g
  | .xori g _ _ _ => some g
  | .shli g _ _ _ => some g
  | .shri g _ _ _ => some g
  | .shrai g _ _ _ => some g
  | .cmpiEq g _ _ _ => some g
  | .cmpiLt g _ _ _ => some g
  | .cmpiLtu g _ _ _ => some g
  | .br g _ => some g
  | .call g _ => some g
  | .ldB g _ _ _ _ => some g
  | .ldBu g _ _ _ _ => some g
  | .ldH g _ _ _ _ => some g
  | .ldHu g _ _ _ _ => some g
  | .ldW g _ _ _ _ => some g
  | .ldWu g _ _ _ _ => some g
  | .ldD g _ _ _ _ => some g
  | .stB g _ _ _ _ => some g
  | .stH g _ _ _ _ => some g
  | .stW g _ _ _ _ => some g
  | .stD g _ _ _ _ => some g
  | .amoAdd g _ _ _ _ => some g
  | .amoAnd g _ _ _ _ => some g
  | .amoOr g _ _ _ _ => some g
  | .amoMax g _ _ _ _ => some g
  | .amoSwap g _ _ _ _ => some g
  | .amoCas g _ _ _ _ => some g
  | .csrr g _ _ => some g
  | .csrw g _ _ => some g
  | .csrs g _ _ => some g
  | .csrc g _ _ => some g
  | .trapEnd g => some g
  | .trapService g _ => some g
  | .tfence g => some g
  | .vfaddF32 g _ _ _ _ => some g
  | .vfaddBf16 g _ _ _ _ => some g
  | .vfsubF32 g _ _ _ _ => some g
  | .vfsubBf16 g _ _ _ _ => some g
  | .vfmulF32 g _ _ _ _ => some g
  | .vfmulBf16 g _ _ _ _ => some g
  | .vfmaF32 g _ _ _ _ => some g
  | .vfmaBf16 g _ _ _ _ => some g
  | .vfmaxF32 g _ _ _ _ => some g
  | .vfminF32 g _ _ _ _ => some g
  | .vfrcp g _ _ _ => some g
  | .vfrsq g _ _ _ => some g
  | .vfexp2 g _ _ _ => some g
  | .vfcmpEq g _ _ _ => some g
  | .vfcmpLt g _ _ _ => some g
  | .vfcmpLe g _ _ _ => some g
  | .vaddI32 g _ _ _ _ => some g
  | .vaddI16 g _ _ _ _ => some g
  | .vsubI32 g _ _ _ _ => some g
  | .vmulI32 g _ _ _ _ => some g
  | .vand g _ _ _ _ => some g
  | .vor g _ _ _ _ => some g
  | .vxor g _ _ _ _ => some g
  | .vshl g _ _ _ _ => some g
  | .vshr g _ _ _ _ => some g
  | .vshra g _ _ _ _ => some g
  | .vminI32 g _ _ _ _ => some g
  | .vmaxI32 g _ _ _ _ => some g
  | .vlut3 g _ _ _ _ => some g
  | .vfsh g _ _ _ _ => some g
  | .vcmpEq g _ _ _ => some g
  | .vcmpLt g _ _ _ => some g
  | .vcmpLtu g _ _ _ => some g
  | .vcvtBf16F32 g _ _ _ _ => some g
  | .vcvtF32Bf16 g _ _ _ _ => some g
  | .vcvtF32I32 g _ _ _ => some g
  | .vcvtI32F32 g _ _ _ => some g
  | .vcvtE4m3F32 g _ _ _ _ => some g
  | .vcvtF32E4m3 g _ _ _ _ => some g
  | .vqntE2m1 g _ _ _ _ => some g
  | .vdqntE2m1 g _ _ _ _ => some g
  | .vmov g _ _ _ => some g
  | .vbcast g _ _ => some g
  | .vrot g _ _ _ _ => some g
  | .vperm g _ _ _ _ => some g
  | .vsel g _ _ _ _ => some g
  | .vld g _ _ _ _ => some g
  | .vst g _ _ _ _ => some g
  | .vldg g _ _ _ _ => some g
  | .vredAdd g _ _ _ _ => some g
  | .vredMax g _ _ _ _ => some g
  | .vany g _ _ => some g
  | .vpush g _ _ => some g
  | .vpushBal g _ _ => some g
  | .vpop g _ _ _ _ => some g
  | .kand g _ _ _ => some g
  | .kor g _ _ _ => some g
  | .knot g _ _ => some g
  | .mload g _ _ _ => some g
  | .mloadt g _ _ _ => some g
  | .mmulE2m1 g _ _ _ _ _ _ => some g
  | .mmulE4m3 g _ _ _ _ _ _ => some g
  | .mmulE5m2 g _ _ _ _ _ _ => some g
  | .mmulI8 g _ _ _ _ _ _ => some g
  | .mmulBf16 g _ _ _ _ _ _ => some g
  | .mmulF16 g _ _ _ _ _ _ => some g
  | .mmulg g _ _ _ _ _ _ _ => some g
  | .mgrp g _ _ _ _ _ _ _ => some g
  | .mconv g _ _ _ _ _ _ _ => some g
  | .mscl g _ _ _ _ => some g
  | .mdrainF32 g _ _ _ _ _ => some g
  | .mdrainBf16 g _ _ _ _ _ => some g
  | .mzero g _ => some g
  | .mmode g _ _ => some g
  | .ckloc g _ _ => some g
  | .ckfix g _ => some g
  | .ckinj g _ _ => some g
  | .ckrd g _ _ _ => some g
  | .mrty g _ => some g
  | .xcopy g _ _ _ _ => some g
  | .xsend g _ _ _ => some g
  | .xrecv g _ _ _ _ => some g
  | .xjob g _ _ => some g
  | .xjobf g _ _ => some g
  | .fence g _ _ => some g
  | .tklend g _ _ _ => some g
  | .tklendPass g _ _ _ => some g
  | .tkshare g _ _ _ => some g
  | .tkshareRv g _ _ _ => some g
  | .tktake g _ _ _ => some g
  | .tktakeSh g _ _ _ => some g
  | .tkret g _ _ => some g
  | .tkretSh g _ _ => some g
  | .tksplit g _ _ => some g
  | .tkjoin g _ _ => some g
  | .tkqry g _ _ _ => some g
  | .tkqryBase g _ _ _ => some g
  | .tkqryAg g _ _ _ => some g
  | .tkmint g _ _ => some g
  | .tkmintNew g _ _ => some g
  | .barm g _ _ => some g
  | .barmFree g _ => some g
  | .barr g _ _ => some g
  | .barrQ g _ _ _ => some g
  | .bwait g _ _ _ => some g
  | .realign g _ _ _ => some g
  | .srdef g _ _ => some g
  | .srkill g _ => some g
  | .badd g _ _ _ _ _ => some g
  | .bsub g _ _ _ _ _ => some g
  | .bmul g _ _ _ _ _ => some g
  | .bmac g _ _ _ _ _ => some g
  | .bcmp g _ _ _ _ _ => some g
  | .blog g _ _ _ _ => some g
  | .bsum g _ _ _ _ => some g
  | _ => none

/-- A row of the opcode table that has an encoding: a code word. -/
def isCodeWord (i : Instr) : Bool := (encode i).length == 1

/-- Every byte of memory reads as before. -/
def SameMemory (s t : State) : Prop := ∀ a, readByte t a = readByte s a

/-- Nothing but the agenda has changed, its order counter and the counter of free choices with it: no register, no memory, no
queue, no engine. -/
def OnlyAgenda (s t : State) : Prop := t = { s with agenda := t.agenda, seq := t.seq, freeCtr := t.freeCtr }

/-- Nothing has changed but the agenda and the strand of bank `b`. -/
def OnlyBank (s t : State) (b : Nat) : Prop :=
  t = { s with agenda := t.agenda, seq := t.seq, freeCtr := t.freeCtr, banks := t.banks } ∧ ∀ j, j ≠ b → strandOf t j = strandOf s j

/-- Nothing has changed but the agenda and row `r`'s engines. -/
def OnlyRow (s t : State) (r : Nat) : Prop :=
  t = { s with agenda := t.agenda, seq := t.seq, freeCtr := t.freeCtr, rows := t.rows } ∧ ∀ j, j ≠ r → rowOf t j = rowOf s j

/-- Nothing has changed but the agenda, the strand of bank `b` and the engines of its row. -/
def OnlyBankRow (s t : State) (b : Nat) : Prop :=
  t = { s with agenda := t.agenda, seq := t.seq, freeCtr := t.freeCtr, banks := t.banks, rows := t.rows } ∧
    (∀ j, j ≠ b → strandOf t j = strandOf s j) ∧ ∀ j, j ≠ bankRow b → rowOf t j = rowOf s j

/-- Nothing has changed but the agenda and barrier `i`. -/
def OnlyBarrier (s t : State) (i : Nat) : Prop :=
  t = { s with agenda := t.agenda, seq := t.seq, freeCtr := t.freeCtr, barriers := t.barriers } ∧ ∀ j, j ≠ i → barrierOf t j = barrierOf s j

/-- Of a row, only what the words of its M, X and B engines work on has changed: the engines' times, creels, tiles and words in progress. -/
def OnlyEngines (x y : Row) : Prop :=
  y = { x with res := y.res, creels := y.creels, tiles := y.tiles, macros := y.macros, nextMacro := y.nextMacro, xBusy := y.xBusy }

/-- The executing word has posted an event for `n` kc from now on its clock, with its own context; no entry of the agenda has gone. -/
def Posts (s t : State) (n : Nat) (i : Instr) : Prop :=
  s.agenda <+: t.agenda ∧ ∃ e ∈ t.agenda, e.clk = ctxClk s.cur ∧ e.at_ = now s + n ∧ e.ctx = s.cur ∧ e.pay = .ev i

/-- A step of macro word `id` (R193): its kind and position, the runs that it reaches, whether it writes, its operand selector, its ordering class
(R244), and the byte masks under which it writes its runs (none: whole). -/
def stepEventIn (id cls idx : Nat) (runs : List Nat) (len : Nat) (wr : Bool) (sel order : Nat) (masks : List Nat) : Instr :=
  .accessPerform { op := .step id (stepNo cls idx), va := runs.headD 0, pa := 0, len := if runs.isEmpty then 0 else len, cls := order, lag := 0,
                   more := runs.tail, wr := wr, sel := sel, masks := masks }

/-- A step in ordering class 0, as those of M and B words (R244), that reads its runs or writes them whole. -/
def stepEvent (id cls idx : Nat) (runs : List Nat) (len : Nat) (wr : Bool) (sel : Nat) : Instr := stepEventIn id cls idx runs len wr sel 0 []

/-- The registers that the words of a strand compute with: scalar registers, predicates, vector registers, latches, masks, streams. -/
def SameRegisters (t u : Strand) : Prop :=
  u.s = t.s ∧ u.p = t.p ∧ u.v = t.v ∧ u.x = t.x ∧ u.k = t.k ∧ u.q = t.q

/-- Memory without a flipped bit or a marked SRAM word, and with its host port: reads and writes of it are plain. -/
def Flawless (s : State) : Prop := s.flips = [] ∧ s.sramBad = [] ∧ (linkOf s 10).st ≠ .retired

/-- The bytes of a queue's block that the hub writes: its state and its consumer index (R313, R314). -/
def blockCells (x : Queue) : List Nat := paLocal (x.blk + 75) :: (List.range 8).map (fun i => paLocal (x.blk + 88) + i)

/-- Nothing has changed but the agenda, queue `q`, and the bytes of its block that the hub writes. -/
def OnlyQueue (s t : State) (q : Nat) : Prop :=
  t = { s with agenda := t.agenda, seq := t.seq, freeCtr := t.freeCtr, queues := t.queues, mem := t.mem } ∧
    (∀ j, j ≠ q → queueOf t j = queueOf s j) ∧
    ∀ a, (∀ c ∈ blockCells (queueOf s q), homeAddr a ≠ homeAddr c) → readByte t a = readByte s a

/-- Queue `q` has stopped (R322) at the packet at its head, and an error-log record of source 6 says why (R454): its detail names the queue, the
reason, the selector, the cause and the check. Nothing that runs has changed. -/
def StopsQueue (s t : State) (q reason sel cause chk : Nat) : Prop :=
  let x := queueOf s q
  queueOf t q = { x with st := .stopped, since := none } ∧ (∀ j, j ≠ q → queueOf t j = queueOf s j) ∧ t.banks = s.banks ∧ t.rows = s.rows ∧
    t.groups = s.groups ∧ t.kernels = s.kernels ∧ t.jobs = s.jobs ∧ t.tokens = s.tokens ∧ t.barriers = s.barriers ∧ t.agenda = s.agenda ∧
    ((s.elogWr + 1) % 32768 ≠ s.elogRd → ∃ r, Sparse.find t.elog s.elogWr = some r ∧ r.src = 6 ∧ r.sev = 3 ∧
      r.tag = fieldAt s (headAddr s q) 4 4 ∧ r.ctx = x.ctx ∧
      r.det = q + reason * 2 ^ 8 + sel * 2 ^ 11 + cause * 2 ^ 16 + chk * 2 ^ 24 + x.ci % 2 ^ 32 * 2 ^ 32)

/-- The invariant: memory is in its one canonical form. -/
def State.Inv (s : State) : Prop := Memory.wf s.mem = true

end Sys2Proof.Machine
end

