-- ==== Sys2Proof/Certificates/Slice0/Obligations.lean ====
section
/-! DEFINITION. The statements for the provers, in the order of the spec: encodings, registers and memory, the machine's step, the words of each
engine, taking a fault and returning from one, and the part's events. A statement about a word holds for the word at its engine, with the
context that its packet gave it (`State.cur`). -/

open Sys2Proof Sys2Proof.Machine

/-! ## Encodings (R55 to R75) -/

/-- Decoding what the encoder writes gives the instruction back: every well-formed code word, every operand at every value its encoding admits (R55,
R56, R69 to R75). -/
def Obligations.DecodeOfEncodeGivesTheWordBack : Prop :=  ∀ (i : Instr) (w : Word), i.wf = true → encode i = [w] → decode w = .ok i

/-- A word has one meaning: what decodes is well formed, and its encoding is that word and no other (R66: every field a word does not use is zero). -/
def Obligations.DecodedWordIsItsOwnEncoding : Prop :=  ∀ (w : Word) (i : Instr), decode w = .ok i → i.wf = true ∧ encode i = [w]

/-- The words of R66 that no instruction has: engine field 111, op 0x00 of the C, V, M, X and B engines, the prefix (R60), a guarded header, and the
all-zero word. -/
def Obligations.UnassignedWordsAreRefused : Prop :=  (∀ w : Word, bitsAt w.toNat 29 3 = 7 → decode w = .error .reservedEngine) ∧
  (∀ w : Word, (bitsAt w.toNat 29 3 ≤ 3 ∨ bitsAt w.toNat 29 3 = 5) → bitsAt w.toNat 19 6 = 0 → decode w = .error .unassignedOp) ∧
  (∀ w : Word, bitsAt w.toNat 29 3 = 6 → bitsAt w.toNat 25 4 = 0 → bitsAt w.toNat 24 1 = 1 → decode w = .error .prefixWord) ∧
  (∀ w : Word, bitsAt w.toNat 29 3 = 6 → bitsAt w.toNat 25 4 ≠ 0 → decode w = .error .guardForbidden) ∧
  decode 0 = .error .unassignedOp

/-- Words written out from the spec's encoding tables (R55 to R75), one or more of each engine. -/
def Obligations.WordsOfTheTablesDecode : Prop :=  decode 0xC0052007 = .ok (.packetHeader 5 1 7) ∧
  decode 0x02084430 = .ok (.add 1 1 2 3) ∧
  decode 0x004147FF = .ok (.addi 0 5 3 0x1FF) ∧
  decode 0x00A7FFFF = .ok (.br 0 0x7FFFF) ∧
  decode 0x0119D05F = .ok (.stD 0 7 8 2 31) ∧
  decode 0x0180C040 = .ok (.csrr 0 3 0x10) ∧
  decode 0x20082107 = .ok (.vfaddF32 0 1 2 3 1) ∧
  decode 0x401B190C = .ok (.mmulE2m1 0 1 17 18 1 1 0) ∧
  decode 0x60090A67 = .ok (.xcopy 0 4 5 6 7) ∧
  decode 0x80312501 = .ok (.tktakeSh 0 2 9 4) ∧
  decode 0xA0084431 = .ok (.badd 0 1 2 3 0 1) ∧
  decode 0x80300000 = .error .fieldRange

/-! ## Registers, memory, the invariant -/

/-- Scalar registers and predicates (R85): `s0` reads as zero and a write to it is dropped; `p0` reads as true and is never written; any other
register holds what was written last, and no write touches another. What a register write of a result leaves: each kind of register takes its value,
no other register changes (R85, R116). The registers at a strand's start, restart or resume (R86, R118, R204, R205): `s1` to `s7` as given, every
other scalar register, predicate, vector register, latch, mask, stream, channel and the loop stack empty or zero, `cktol` at its reset values, control
at `cp`. That registers with no stated reset value begin at zero is the model's choice (log entry 2). -/
def Obligations.RegistersHoldWhatIsWritten : Prop :=
  (((∀ (t : Strand) (r q : Nat) (v : Dword), sreg (setSreg t r v) q = if q = 0 then 0 else if q = r then v else sreg t q) ∧
  (∀ (t : Strand) (i j : Nat) (v : Bool), i < 16 → predOf (setPred t i v) j = if j = 0 then true else if j = i then v else predOf t j) ∧
  (∀ (t : Strand) (v : Dword), setSreg t 0 v = t) ∧ (∀ (t : Strand) (v : Bool), setPred t 0 v = t)) ∧
  (∀ (t : Strand),
    (∀ r v q, sreg (writeReg t (.s r v)) q = if q = 0 then 0 else if q = r then v else sreg t q) ∧
    (∀ r v, (writeReg t (.s r v)).p = t.p ∧ (writeReg t (.s r v)).v = t.v ∧ (writeReg t (.s r v)).x = t.x ∧ (writeReg t (.s r v)).k = t.k) ∧
    (∀ r x q, q < 48 → vecOf (writeReg t (.v r x)) q = if q = r then x else vecOf t q) ∧
    (∀ r x q, 48 ≤ q → vecOf (writeReg t (.x r x)) q = if q - 48 = r then x else vecOf t q) ∧
    (∀ r x q, maskOf (writeReg t (.k r x)) q = if q = r then x else maskOf t q) ∧
    (∀ r x, (writeReg t (.v r x)).s = t.s ∧ (writeReg t (.v r x)).p = t.p ∧ (writeReg t (.v r x)).k = t.k ∧ (writeReg t (.v r x)).x = t.x) ∧
    (∀ r x, (writeReg t (.k r x)).s = t.s ∧ (writeReg t (.k r x)).p = t.p ∧ (writeReg t (.k r x)).v = t.v ∧ (writeReg t (.k r x)).x = t.x))) ∧
  (∀ (t : Strand) (cp : Nat) (v : List Dword) (r : Nat), v.length = 7 →
    sreg (atStart t cp v) r = (if 1 ≤ r ∧ r ≤ 7 then v.getD (r - 1) 0 else 0) ∧
    (∀ i, predOf (atStart t cp v) i = decide (i = 0)) ∧
    (atStart t cp v).cp = cp ∧ (∀ n, vecOf (atStart t cp v) n = 0) ∧ (∀ n, maskOf (atStart t cp v) n = 0) ∧
    (∀ n, streamOf (atStart t cp v) n = []) ∧ (atStart t cp v).loops = [] ∧ (atStart t cp v).chans = [] ∧
    (atStart t cp v).aflags = 0 ∧ (atStart t cp v).aen = 0 ∧ (atStart t cp v).vrm = 0 ∧ (atStart t cp v).seed = 0 ∧
    (atStart t cp v).serial = 0 ∧ (atStart t cp v).ie = false ∧ (atStart t cp v).trap = false ∧ (atStart t cp v).vftz = false ∧
    (atStart t cp v).cktol = [0xE804, 0xE804, 0xE804, 0x0000, 0xE808, 0xE808] ∧
    (atStart t cp v).held = t.held ∧ (atStart t cp v).ckret = t.ckret)

/-- A read of memory after a write: the bytes written read back, every other address reads as before; the two DRAM windows name one memory, so that
addresses with one home are one byte (R275). The memory is canonical, which `MemoryStaysCanonical` keeps. The interleaved DRAM window is the bank-
linear one in another order (R275): a line lies in one cell, and the bytes of a line stand together. -/
def Obligations.MemoryReadsWhatIsWritten : Prop :=  ((∀ (s : State) (a x : Nat) (b : Byte), s.Inv → readByte (writeByte s a b) x = if homeAddr x = homeAddr a then b else readByte s x) ∧
  (∀ (s : State) (a x : Nat) (bs : List Byte), (∀ i, i < bs.length → homeAddr x ≠ homeAddr (a + i)) → readByte (writeBytes s a bs) x = readByte s x) ∧
  (∀ (s : State) (a : Nat) (bs : List Byte), s.Inv → (∀ i j, i < bs.length → j < bs.length → homeAddr (a + i) = homeAddr (a + j) → i = j) →
    readBytes (writeBytes s a bs) a bs.length = bs) ∧
  (∀ (s : State) (a : Nat) (bs : List Byte), writeBytes s a bs = { s with mem := (writeBytes s a bs).mem })) ∧
  ((∀ a, a < 0x008000000000 → homeAddr a = baseLinear + (a / 64 % 1024) * 0x20000000 + (a / 65536 * 64 + a % 64)) ∧
  (∀ a, 0x008000000000 ≤ a → homeAddr a = a) ∧ (∀ a, homeAddr (homeAddr a) = homeAddr a) ∧
  (∀ a b, a < 0x008000000000 → b < 0x008000000000 → homeAddr a = homeAddr b → a = b))

/-- Memory is canonical at power-on: the form is the model's own (log entry 1), of the memory map of R274. -/
def Obligations.MemoryIsCanonicalAtReset : Prop := State.reset.Inv

/-- Every step keeps memory in its one canonical form: whatever the step runs, equal memories stay equal data. The form is the model's own (log entry
1), of the memory map of R274. -/
def Obligations.MemoryStaysCanonical : Prop := ∀ s t : State, s.Inv → step s = .next t → t.Inv

/-- The package at power-on (R397, R400): not powered, not ready, nothing placed, no queue, context, kernel, job or token, and bring-up due first.
What the model chooses of it is log entries 2 and 7. -/
def Obligations.PowerOnState : Prop :=  State.reset.dev.powered = false ∧ State.reset.dev.ready = false ∧ State.reset.dev.fail = false ∧ State.reset.dev.step = 0 ∧
  (∀ b, (strandOf State.reset b).st = .unloaded) ∧ (∀ q, (queueOf State.reset q).st = .disabled) ∧ (∀ c, (contextOf State.reset c).st = .free) ∧
  (∀ i, (tokenOf State.reset i).st = .free) ∧ (∀ i, (barrierOf State.reset i).state = 0) ∧ (∀ l, (linkOf State.reset l).st = .down) ∧
  State.reset.jobs = [] ∧ State.reset.kernels = [] ∧ State.reset.elog = [] ∧ step State.reset = exec .powerUp { State.reset with agenda := [] }

/-! ## The machine's step -/

/-- A step runs what is due: the entry of the agenda that comes next leaves it, its context becomes the context of the word that executes, and its
word, as decoded, or its event executes. A word whose vector sources all pass their parity (R127, R380) and which pushes no more than its stream takes
(R144) executes so; a push that does not fit, its sources good, takes its fault instead, and one with a bad source is rebuilt or faults (`runVector`).
A word that decodes to nothing is dropped; its packet has faulted at its header (R65). With nothing due the
queue scheduler takes its turn once a kc, and the clock goes on, each queue's producer index and packets looked at for the next turn (R324). What the
outside world does next takes place before anything else, as the event it is, with the number of what it acts on (log entry 7), but that a queue is
disabled after the turn of its kc (R324), and that before the package is ready only the side-band port acts and host accesses fail (R397, R399). A
fetch takes its packet's fault, else an interrupt that is due (R357, R370), else it runs the header at the strand's `cp` in its kernel's code image
(R55, R59). -/
def Obligations.StepRunsTheInstructionThatIsDue : Prop :=
  ((∀ (s : State), s.inputs = [] →
    (∀ e w i, nextDue s = some e → e.pay = .word w → decode w = .ok i →
      let u := { without s e with cur := e.ctx }
      let bad := sourcesBad s e.ctx w
      (bad = none → pushOver s e = 0 → step s = exec i u) ∧
      (bad = none → pushOver s e ≠ 0 → step s = .next (pushFault u (pushOver s e))) ∧
      (bad ≠ none → step s = runVector u w i bad)) ∧
    (∀ e w x, nextDue s = some e → e.pay = .word w → decode w = .error x → step s = .next { without s e with cur := e.ctx }) ∧
    (∀ e i, nextDue s = some e → e.pay = .ev i → step s = exec i { without s e with cur := e.ctx }) ∧
    (∀ e b, nextDue s = some e → e.pay = .fetch b →
      let u := { without s e with cur := e.ctx }
      let v := asBefore (bankView s b) e b
      (∀ c f, fetchFault v b = some (c, f) → step s = .next (dispatchFault u b c f)) ∧
      (fetchFault v b = none → fetchInterrupt v b = true → step s = exec (.interruptTaken b) (refetch u b 0)) ∧
      (∀ i t, fetchFault v b = none → fetchInterrupt v b = false → fetchPacket u b = .run i t → step s = exec i t) ∧
      (∀ t, fetchFault v b = none → fetchInterrupt v b = false → fetchPacket u b = .done t → step s = .next t)) ∧
    (nextDue s = none → s.dev.ready = true → s.turned = false → step s = takeTurn s) ∧
    (nextDue s = none → (s.dev.ready = false ∨ s.turned = true) → step s = .next (tick (s.queues.keys.foldl lookAhead s)))) ∧
  (∀ (s : State) (n : Nat) (i : Instr) (rest : List (Nat × Instr)), s.inputs = (n, i) :: rest → fromOutside i = true →
    (i = .queueDisable → s.dev.ready = true → s.turned = true) →
    (s.dev.ready = true ∨ sideBand i = true → step s = exec i { s with inputs := rest, cur := { Ctx.none with arg := n } }) ∧
    (s.dev.ready = false → sideBand i = false → step s = .next { s with inputs := rest }))) ∧
  (∀ (s t : State) (b : Nat) (i : Instr), fetchPacket s b = .run i t →
    t = s ∧ decode (BitVec.ofNat 32 (imageWord s (bankStack b) (bankGroup s b).kern (strandOf s b).cp)) = .ok i ∧ ∃ x y z, i = .packetHeader x y z)

/-- Every instruction has a meaning, and only an access to an address that the memory map (R274) does not have stops the machine. -/
def Obligations.NothingStopsButAccessesToHoles : Prop :=  ∀ (i : Instr) (s : State), (∀ r, exec i s ≠ .refused r) ∧
    (∀ f, exec i s = .fault f → ∃ a pa, i = .accessPerform a ∧ accessHole s s.cur a = some pa ∧ f = .noSuchAddress pa)

/-- A guarded-off word has no effect (R57): every word that has a guard field leaves the whole state as it is, whatever its operands. The guard names
`p0` to `p15` as the packet read them; G = 0 names `p0`, which reads as true (R57). -/
def Obligations.GuardedOffWordsDoNothing : Prop :=  (∀ (i : Instr) (g : BitVec 4) (s : State), guardField i = some g → guardOn s g = false → exec i s = .next s) ∧
  ((∀ s : State, guardOn s 0 = true) ∧ (∀ (s : State) (g : BitVec 4), g ≠ 0 → guardOn s g = s.cur.preds.getLsbD g.toNat))

/-- A result of a word lands `d` kc after the word's kc on the word's clock, with the word's context, before the packets of that kc, and posting it
changes nothing else (R53, R63). RESULT_LAND (R53, R63): the registers of the word's bank receive the values in order and the flags are set, sticky;
no other bank changes, nor its own row but in the core's log of register writes (R371). A register written of which a failing word can be rebuilt
waits for that, under a freeze with no trap, and the result lands after it (R450); a handler's result lands at once. -/
def Obligations.ResultsLandInTheirRegisters : Prop :=  (∀ (s : State) (d : Nat) (k : LandKind) (f : BitVec 8), s.cur.drain = false →
    landLater s d k f = { s with
      agenda := s.agenda ++ [{ clk := ctxClk s.cur, at_ := now s + d, ph := 0, row := bankRow s.cur.bank, eng := engineRank (wordEng s.cur.word), seq := s.seq,
                               ctx := s.cur, pay := .ev (.resultLand { kind := k, flags := f }) }],
      seq := s.seq + 1 }) ∧
  (∀ (s : State) (ws : List RegWr) (f : BitVec 8), (strandOf s s.cur.bank).grp = s.cur.grp →
    let b := s.cur.bank
    let r := bankRow b
    let l : Landing := { kind := .regs ws, flags := f }
    (landRebuilds s s.cur l = false ∨ s.cur.hand = true ∨ s.cur.drain = true →
      ∃ t, exec (.resultLand l) s = .next t ∧
        SameRegisters (writeRegs (strandOf s b) ws) (strandOf t b) ∧
        (strandOf t b).aflags = (strandOf s b).aflags ||| f ∧
        (strandOf t b).cp = (strandOf s b).cp ∧ (strandOf t b).st = (strandOf s b).st ∧ t.agenda = s.agenda ∧ SameMemory s t ∧
        (∀ j, j ≠ b → strandOf t j = strandOf s j) ∧ (∀ j, j ≠ r → rowOf t j = rowOf s j) ∧ rowOf t r = { rowOf s r with wlog := (rowOf t r).wlog } ∧
        (failsIn (strandOf s b).vbad (vecWritesOf ws) = [] → OnlyBankRow s t b)) ∧
    (landRebuilds s s.cur l = true → s.cur.hand = false → s.cur.drain = false →
      ∃ t, exec (.resultLand l) s = .next t ∧ SameRegisters (strandOf s b) (strandOf t b) ∧ SameMemory s t ∧
        (failsIn (strandOf t b).vbad (vecWritesOf ws)).length < (failsIn (strandOf s b).vbad (vecWritesOf ws)).length ∧
        ∃ e ∈ t.agenda, e.clk = ctxClk s.cur ∧ e.at_ = now s ∧ e.ctx = s.cur ∧ e.pay = .ev (.resultLand l)))

/-! ## The C engine: ALU, multiply and divide, compares, control (R94 to R102) -/

/-- The ALU words (R94): each lands its result in `sd` 1 kc later and raises no flag; shifts take the low six bits of their count, an immediate
replaces sb. An immediate (R60): imm9 sign-extended, or with one prefix 33 bits, or with two 57 bits; and the shift immediates that are legal (R94).
Multiplies land 3 kc later (R95); divides 18 kc later with the results and flags of R50, and the divider is busy until then. -/
def Obligations.AluWordsComputeTheirResults : Prop :=
  ((∀ (g : BitVec 4) (d a b : BitVec 5) (m : BitVec 9) (s : State), guardOn s g = true →
    let x := srcS s a
    let y := srcS s b
    let i := curImm s m
    let lands (v : Dword) := Host.Outcome.next (φ := Fault) (ρ := Refusal) (landLater s 1 (.regs [.s d.toNat v]) 0)
    exec (.add g d a b) s = lands (x + y) ∧ exec (.addi g d a m) s = lands (x + i) ∧
    exec (.sub g d a b) s = lands (x - y) ∧
    exec (.and g d a b) s = lands (x &&& y) ∧ exec (.andi g d a m) s = lands (x &&& i) ∧
    exec (.or g d a b) s = lands (x ||| y) ∧ exec (.ori g d a m) s = lands (x ||| i) ∧
    exec (.xor g d a b) s = lands (x ^^^ y) ∧ exec (.xori g d a m) s = lands (x ^^^ i) ∧
    exec (.shl g d a b) s = lands (x <<< (y.toNat % 64)) ∧ exec (.shli g d a m) s = lands (x <<< (i.toNat % 64)) ∧
    exec (.shr g d a b) s = lands (x >>> (y.toNat % 64)) ∧ exec (.shri g d a m) s = lands (x >>> (i.toNat % 64)) ∧
    exec (.shra g d a b) s = lands (x.sshiftRight (y.toNat % 64)) ∧ exec (.shrai g d a m) s = lands (x.sshiftRight (i.toNat % 64)) ∧
    exec (.min g d a b) s = lands (if x.toInt ≤ y.toInt then x else y) ∧
    exec (.max g d a b) s = lands (if x.toInt ≤ y.toInt then y else x) ∧
    (∀ n : Nat, n ≤ 64 → (∀ j, j < 64 → 64 - n ≤ j → x.getLsbD j = false) → (n < 64 → x.getLsbD (63 - n) = true) →
      exec (.clz g d a) s = lands (BitVec.ofNat 64 n)) ∧
    exec (.popc g d a) s = lands (BitVec.ofNat 64 ((List.range 64).filter (fun j => x.getLsbD j)).length)) ∧
  ((∀ i : BitVec 9, immOf [] i = BitVec.ofInt 64 i.toInt) ∧
  (∀ (p : BitVec 24) (i : BitVec 9), immOf [p] i = BitVec.ofInt 64 (p.toInt * 2 ^ 9 + i.toNat)) ∧
  (∀ (p q : BitVec 24) (i : BitVec 9), immOf [p, q] i = BitVec.ofInt 64 (p.toInt * 2 ^ 33 + q.toNat * 2 ^ 9 + i.toNat)))) ∧
  (∀ (g : BitVec 4) (d a b : BitVec 5) (s : State), guardOn s g = true →
    let x := srcS s a
    let y := srcS s b
    let r := bankRow s.cur.bank
    let lands (v : Dword) := Host.Outcome.next (φ := Fault) (ρ := Refusal) (landLater s 3 (.regs [.s d.toNat v]) 0)
    let busy := setRow s r { rowOf s r with divBusy := now s + 18 }
    let divides (v : Dword) (f : BitVec 8) := Host.Outcome.next (φ := Fault) (ρ := Refusal) (landLater busy 18 (.regs [.s d.toNat v]) f)
    let corner := x = 0x8000000000000000 ∧ y = 0xFFFFFFFFFFFFFFFF
    exec (.mul g d a b) s = lands (x * y) ∧
    exec (.mulh g d a b) s = lands (BitVec.ofInt 64 (x.toInt * y.toInt / 2 ^ 64)) ∧
    exec (.mulhu g d a b) s = lands (BitVec.ofNat 64 (x.toNat * y.toNat / 2 ^ 64)) ∧
    (y = 0 → exec (.div g d a b) s = divides 0xFFFFFFFFFFFFFFFF 2 ∧ exec (.divu g d a b) s = divides 0xFFFFFFFFFFFFFFFF 2 ∧
      exec (.rem g d a b) s = divides x 2 ∧ exec (.remu g d a b) s = divides x 2) ∧
    (corner → exec (.div g d a b) s = divides 0x8000000000000000 4 ∧ exec (.rem g d a b) s = divides 0 4) ∧
    (y ≠ 0 → ¬ corner → exec (.div g d a b) s = divides (BitVec.ofInt 64 (x.toInt.tdiv y.toInt)) 0 ∧
      exec (.rem g d a b) s = divides (BitVec.ofInt 64 (x.toInt.tmod y.toInt)) 0) ∧
    (y ≠ 0 → exec (.divu g d a b) s = divides (BitVec.ofNat 64 (x.toNat / y.toNat)) 0 ∧
      exec (.remu g d a b) s = divides (BitVec.ofNat 64 (x.toNat % y.toNat)) 0))

/-- A compare writes a predicate pair 1 kc later, the result and its complement (R96). -/
def Obligations.ComparesWriteAPredicatePair : Prop :=  ∀ (g : BitVec 4) (d a b : BitVec 5) (m : BitVec 9) (s : State), guardOn s g = true →
    let x := srcS s a
    let y := srcS s b
    let i := curImm s m
    let pair (v : Bool) := Host.Outcome.next (φ := Fault) (ρ := Refusal) (landLater s 1 (.regs [.p d.toNat v, .p (d.toNat + 1) (!v)]) 0)
    exec (.cmpEq g d a b) s = pair (decide (x = y)) ∧ exec (.cmpiEq g d a m) s = pair (decide (x = i)) ∧
    exec (.cmpLt g d a b) s = pair (decide (x.toInt < y.toInt)) ∧ exec (.cmpiLt g d a m) s = pair (decide (x.toInt < i.toInt)) ∧
    exec (.cmpLtu g d a b) s = pair (decide (x.toNat < y.toNat)) ∧ exec (.cmpiLtu g d a m) s = pair (decide (x.toNat < i.toNat)) ∧
    exec (.cmpLe g d a b) s = pair (decide (x.toInt ≤ y.toInt)) ∧ exec (.cmpLeu g d a b) s = pair (decide (x.toNat ≤ y.toNat)) ∧
    (∀ i ∈ [Instr.cmpEq g d a b, .cmpLt g d a b, .cmpLtu g d a b, .cmpLe g d a b, .cmpLeu g d a b, .cmpiEq g d a m, .cmpiLt g d a m, .cmpiLtu g d a m],
      i.wf = true ↔ d.toNat % 2 = 0 ∧ 2 ≤ d.toNat ∧ d.toNat ≤ 14) ∧
    (∀ p ∈ [(0, Instr.cmpEq g d a b), (1, .cmpLt g d a b), (2, .cmpLtu g d a b), (3, .cmpLe g d a b), (4, .cmpLeu g d a b)],
      p.2.wf = true → ∃ w, encode p.2 = [w] ∧ w.toNat / 2 ^ 29 = 0 ∧ w.toNat / 2 ^ 19 % 64 = 0x03 ∧ w.toNat % 16 = p.1) ∧
    (∀ p ∈ [(0x0F, Instr.cmpiEq g d a m), (0x10, .cmpiLt g d a m), (0x11, .cmpiLtu g d a m)],
      p.2.wf = true → ∃ w, encode p.2 = [w] ∧ w.toNat / 2 ^ 29 = 0 ∧ w.toNat / 2 ^ 19 % 64 = p.1)

/-- Predicate logic (R97): the result is visible 1 kc later; guarded off, the word changes nothing. -/
def Obligations.PredicateLogicWords : Prop :=  ∀ (g : BitVec 4) (d a b : BitVec 5) (s : State),
    let x := predOf (curStrand s) a.toNat
    let y := predOf (curStrand s) b.toNat
    let sets (v : Bool) := Host.Outcome.next (φ := Fault) (ρ := Refusal) (landLater s 1 (.regs [.p d.toNat v]) 0)
    (guardOn s g = true →
      exec (.pand g d a b) s = sets (x && y) ∧ exec (.por g d a b) s = sets (x || y) ∧
      exec (.pxor g d a b) s = sets (xor x y) ∧ exec (.pandn g d a b) s = sets (x && !y)) ∧
    (guardOn s g = false →
      exec (.pand g d a b) s = .next s ∧ exec (.por g d a b) s = .next s ∧ exec (.pxor g d a b) s = .next s ∧ exec (.pandn g d a b) s = .next s) ∧
    (∀ i ∈ [Instr.pand g d a b, .por g d a b, .pxor g d a b, .pandn g d a b],
      i.wf = true ↔ 1 ≤ d.toNat ∧ d.toNat ≤ 15 ∧ a.toNat ≤ 15 ∧ b.toNat ≤ 15) ∧ predOf (curStrand s) 0 = true

/-- Branches (R98, R99, R102, R62): a taken `br`, `call` or `jr` goes to its target, which issues 3 kc after its packet plus its idle; `call` and `jr`
write the link, the packet that follows, 1 kc later; `br` and `jr` pop the loops they leave, `call` pops none. Control goes to a packet: the strand's
`cp` is its address, it is fetched at its time plus its idle, and nothing else changes (R62). Hardware loops (R100): a count of 0 skips the body,
whose end's packet issues at T + 2 plus its idle; any other count pushes an entry with the body's bounds and the count, and the body's first packet
follows at T + 1 plus its idle. The bookkeeping after a packet that ends at `e` (R101): a trip is taken off the innermost loop that ends there; with
trips left control goes back to its start, else the entry goes and the enclosing loop is tested too; a loop that ends elsewhere is left alone. Which
loops a taken branch leaves (R102): each innermost entry whose body does not hold the target goes, and the first that holds it stays with every entry
around it. -/
def Obligations.BranchesAndLoopsGoToTheirTargets : Prop :=
  ((∀ (g : BitVec 4) (o : BitVec 19) (d a : BitVec 5) (s : State), guardOn s g = true →
    let b := s.cur.bank
    let dest : Nat := ((s.cur.hdr : Int) + 4 * o.toInt).toNat
    let popped (n : Nat) (u : State) : State := setStrand u b { strandOf u b with loops := popLoops (strandOf u b).loops n }
    let linked (r : Nat) : State := landLater s 1 (.regs [.s r (BitVec.ofNat 64 s.cur.nxt)]) 0
    exec (.br g o) s = .next (goTo (popped dest s) s.cur (now s + 3) dest) ∧
    exec (.call g o) s = .next (goTo (linked 1) s.cur (now s + 3) dest) ∧
    exec (.jr g d a) s = .next (goTo (popped (srcS s a).toNat (linked d.toNat)) s.cur (now s + 3) (srcS s a).toNat)) ∧
  (∀ (s : State) (c : Ctx) (t n : Nat),
    (strandOf (goTo s c t n) c.bank).cp = n ∧ SameRegisters (strandOf s c.bank) (strandOf (goTo s c t n) c.bank) ∧
    (strandOf (goTo s c t n) c.bank).loops = (strandOf s c.bank).loops ∧ OnlyBank s (goTo s c t n) c.bank ∧
    ∃ e, (goTo s c t n).agenda = s.agenda ++ [e] ∧ e.pay = .fetch c.bank ∧ e.clk = ctxClk c ∧ e.at_ = t + idleAt s c.bank n)) ∧
  ((∀ (a : BitVec 5) (l : BitVec 14) (c : BitVec 10) (l2 : BitVec 9) (s : State),
    let b := s.cur.bank
    let begun (n len : Nat) : State :=
      if n = 0 then goTo s s.cur (now s + 2) (s.cur.nxt + 4 * len)
      else goTo (setStrand s b { strandOf s b with loops := { start := s.cur.nxt, stop := s.cur.nxt + 4 * len, left := n } :: (strandOf s b).loops })
        s.cur (now s + 1) s.cur.nxt
    exec (.loop a l) s = .next (begun ((srcS s a).toNat % 2 ^ 32) l.toNat) ∧
    exec (.loopi c l2) s = .next (begun (match s.cur.pre with | [] => c.toNat | p :: _ => p.toNat % 2 ^ 23 * 2 ^ 10 + c.toNat) l2.toNat) ∧
    ((Instr.loop a 0).wf = false) ∧ ((Instr.loopi c 0).wf = false)) ∧
  ((∀ e, loopBack [] e = (e, [])) ∧
  (∀ (x : LoopEntry) (l : List LoopEntry) (e : Nat), e ≠ x.stop → loopBack (x :: l) e = (e, x :: l)) ∧
  (∀ (x : LoopEntry) (l : List LoopEntry), 1 < x.left → loopBack (x :: l) x.stop = (x.start, { x with left := x.left - 1 } :: l)) ∧
  (∀ (x : LoopEntry) (l : List LoopEntry), x.left ≤ 1 → loopBack (x :: l) x.stop = loopBack l x.stop)) ∧
  ((∀ n, popLoops [] n = []) ∧
  (∀ (e : LoopEntry) (l : List LoopEntry) (n : Nat), e.start ≤ n → n < e.stop → popLoops (e :: l) n = e :: l) ∧
  (∀ (e : LoopEntry) (l : List LoopEntry) (n : Nat), (n < e.start ∨ e.stop ≤ n) → popLoops (e :: l) n = popLoops l n) ∧
  (∀ (l : List LoopEntry) (n : Nat), popLoops l n <:+ l ∧ ∀ e, (popLoops l n).head? = some e → e.start ≤ n ∧ n < e.stop)))

/-! ## Memory words and their accesses (R103 to R107, R141, R142, R147) -/

/-- The C loads, stores and atomics go out as one access each (R103, R106): its address is sa plus the offset times the size, its operand is read at
issue, and a load of the handler's frame reads the frame (R363). The access of a C word performs at issue + L − 1 (R105): L is 4 kc in the own stack's
SRAM, 6 in a scratchpad of the own row, 10 in one of another row of the stack, 40 in the own stack's DRAM, and at least 24 elsewhere; nothing but the
agenda changes until then. -/
def Obligations.ScalarMemoryWordsSendOneAccess : Prop :=  (∀ (g : BitVec 4) (t a b d : BitVec 5) (c : BitVec 4) (o : BitVec 5) (s : State), guardOn s g = true →
    let ea (n : Nat) : Nat := (srcS s a + BitVec.ofNat 64 (o.toNat * n)).toNat
    let load (n : Nat) (sx : Bool) := Host.Outcome.next (φ := Fault) (ρ := Refusal)
      (cAccess s (ea n) n 3 1 c.toNat (.load t.toNat sx) (some (.frameLoad t.toNat sx)))
    let store (n : Nat) := Host.Outcome.next (φ := Fault) (ρ := Refusal) (cAccess s (ea n) n 4 0 c.toNat (.store (srcS s t)) (some (.frameStore (srcS s t))))
    let atomic (op : Nat) := Host.Outcome.next (φ := Fault) (ρ := Refusal)
      (cAccess s (srcS s a).toNat 8 4 3 c.toNat (.amo op d.toNat (srcS s b) (srcS s d)) none)
    exec (.ldB g t a c o) s = load 1 true ∧ exec (.ldBu g t a c o) s = load 1 false ∧ exec (.ldH g t a c o) s = load 2 true ∧
    exec (.ldHu g t a c o) s = load 2 false ∧ exec (.ldW g t a c o) s = load 4 true ∧ exec (.ldWu g t a c o) s = load 4 false ∧
    exec (.ldD g t a c o) s = load 8 false ∧
    exec (.stB g t a c o) s = store 1 ∧ exec (.stH g t a c o) s = store 2 ∧ exec (.stW g t a c o) s = store 4 ∧ exec (.stD g t a c o) s = store 8 ∧
    exec (.amoAdd g d a b c) s = atomic 0 ∧ exec (.amoAnd g d a b c) s = atomic 1 ∧ exec (.amoOr g d a b c) s = atomic 2 ∧
    exec (.amoMax g d a b c) s = atomic 3 ∧ exec (.amoSwap g d a b c) s = atomic 4 ∧ exec (.amoCas g d a b c) s = atomic 5) ∧
  (∀ (s : State) (va pa n ph lag cls : Nat) (op : AccOp) (fop : Option AccOp), inFrame s s.cur.bank va = false → translate s.cur va = some pa →
    s.cur.drain = false →
    let b := s.cur.bank
    let t := cAccess s va n ph lag cls op fop
    OnlyAgenda s t ∧
    ∃ k e, t.agenda = s.agenda ++ [e] ∧ e.at_ = now s + k ∧ e.clk = ctxClk s.cur ∧ e.ctx = s.cur ∧ e.ph = ph ∧
      e.pay = .ev (.accessPerform { op := op, va := va, pa := pa, len := n, cls := cls, lag := lag }) ∧
      (paPkg pa = s.dev.pkg →
        (∀ z o, placeOf (paLocal pa) = .sram z o → z = bankStack b → k = 3) ∧
        (∀ i o, placeOf (paLocal pa) = .spad i o → i / 8 = bankRow b → k = 5) ∧
        (∀ i o, placeOf (paLocal pa) = .spad i o → i / 8 ≠ bankRow b → i / 128 = bankStack b → k = 9) ∧
        (∀ i o, placeOf (paLocal pa) = .dram i o → i / 128 = bankStack b → k = 39) ∧
        (∀ z o, placeOf (paLocal pa) = .sram z o → z ≠ bankStack b → 23 ≤ k)) ∧
      (paPkg pa ≠ s.dev.pkg → 23 ≤ k))

/-- A load reads memory when it performs, and its value lands sign- or zero-extended (R103, R105); nothing is written. An access that performs outside
its zone leaves its acknowledgement on its way back, and the strand's set of those is all that this changes (R251). The memory holds no flipped
bits here, and the access stays in one page of the own package and finds no fault. A store's bytes are its data's low bytes, little-endian, at the
address its access reaches; every other byte reads as before, and nothing but memory and the held tokens' dirty bits changes (R103, R224). An atomic
reads, changes and writes its eight bytes in one event, and the old value lands in sd (R106); its core's data cache holds no line of them here. -/
def Obligations.ScalarAccessesPerform : Prop :=
  (∀ (s : State) (d va pa n cls lag : Nat) (sx : Bool) (r : Seg),
    let a : Access := { op := .load d sx, va := va, pa := pa, len := n, cls := cls, lag := lag }
    segsOf s.cur.tbl 4 va n = [r] → segsOf s.cur.tbl 2 va n = [r] → r.len = n → paPkg r.pa = s.dev.pkg → placeExists s (paLocal r.pa) = true →
    Flawless s → cachedAccess s s.cur r = false → performFault s s.cur a = none →
    let x := leNat (readBytes s (paLocal r.pa) n)
    exec (.accessPerform a) s =
      .next (landLater (noteAck s s.cur a) lag (.regs [.s d (if sx then BitVec.ofInt 64 (signedOf (8 * n) x) else BitVec.ofNat 64 x)]) 0)) ∧
  (∀ (s : State) (data : Dword) (va pa n cls lag : Nat) (r : Seg),
    let a : Access := { op := .store data, va := va, pa := pa, len := n, cls := cls, lag := lag }
    s.Inv → n ≤ 8 → segsOf s.cur.tbl 4 va n = [r] → segsOf s.cur.tbl 2 va n = [r] → r.len = n → paLocal r.pa % n = 0 → n ∈ [1, 2, 4, 8] →
    paPkg r.pa = s.dev.pkg → placeExists s (paLocal r.pa) = true → Flawless s → cachedAccess s s.cur r = false →
    performFault s s.cur a = none →
    ∃ t, exec (.accessPerform a) s = .next t ∧
      readBytes t (paLocal r.pa) n = leBytes n data.toNat ∧
      (∀ x, (∀ i, i < n → homeAddr x ≠ homeAddr (paLocal r.pa + i)) → readByte t x = readByte s x) ∧
      t.agenda = s.agenda ∧ SameRegisters (strandOf s s.cur.bank) (strandOf t s.cur.bank) ∧ (∀ j, j ≠ s.cur.bank → strandOf t j = strandOf s j) ∧
      t = { s with mem := t.mem, banks := t.banks } ∧ t.Inv) ∧
  (∀ (s : State) (op d va pa cls lag : Nat) (x y : Dword) (r : Seg),
    let a : Access := { op := .amo op d x y, va := va, pa := pa, len := 8, cls := cls, lag := lag }
    s.Inv → segsOf s.cur.tbl 4 va 8 = [r] → segsOf s.cur.tbl 2 va 8 = [r] → r.len = 8 → paLocal r.pa % 8 = 0 →
    paPkg r.pa = s.dev.pkg → placeExists s (paLocal r.pa) = true → Flawless s →
    Sparse.find (rowOf s (bankRow s.cur.bank)).dcache (cacheLine (paLocal r.pa)) = none → performFault s s.cur a = none →
    let old : Dword := BitVec.ofNat 64 (leNat (readBytes s (paLocal r.pa) 8))
    let new : Dword :=
      if op = 0 then old + x else if op = 1 then old &&& x else if op = 2 then old ||| x
      else if op = 3 then (if old.toInt ≤ x.toInt then x else old) else if op = 4 then x else if old = y then x else old
    ∃ t, exec (.accessPerform a) s = .next (landLater t lag (.regs [.s d old]) 0) ∧
      readBytes t (paLocal r.pa) 8 = leBytes 8 new.toNat ∧
      (∀ z, (∀ i, i < 8 → homeAddr z ≠ homeAddr (paLocal r.pa + i)) → readByte t z = readByte s z) ∧
      t = { s with mem := t.mem, banks := t.banks }) ∧
  (∀ (s : State) (a : Access), let b := s.cur.bank
    let t := noteAck s s.cur a
    t = { s with banks := t.banks } ∧ (∀ j, j ≠ b → strandOf t j = strandOf s j) ∧ strandOf t b = { strandOf s b with acks := (strandOf t b).acks } ∧
      (ackKc s b { at_ := now s, va := a.va, len := if emptyStep a then 0 else a.len, wr := accessWrites a, cls := a.cls, cached := throughCache s s.cur a } ≤ now s → t = s))

/-- The V memory words go out as one access each (R141, R142, R147): `vld` and `vst` reach 512 bytes at the base plus a multiple of 512, `vldg` four
bytes per lane at the base plus four times the lane, and a lane outside the gather region reaches nothing. What a V access does when it performs
(R141, R142, R147): a `vld` lands the 512 bytes in its latch and register; a `vldg` whose lanes all lie outside its region lands zeros and raises G; a
`vst` writes its 512 bytes and no other. -/
def Obligations.VectorMemoryWordsSendOneAccess : Prop :=  (∀ (g : BitVec 4) (d i : BitVec 6) (b : BitVec 5) (o c : BitVec 4) (k : BitVec 2) (s : State), guardOn s g = true →
    let va := (s.cur.ra + BitVec.ofNat 64 (o.toNat * 512)).toNat
    let pa := (translate s.cur va).getD 0
    let wait := vLatency s.cur.bank pa - 1
    let sends (n ph : Nat) (a : Access) := Host.Outcome.next (φ := Fault) (ρ := Refusal) (later s n ph (engineRank (wordEng s.cur.word)) (.accessPerform a))
    exec (.vld g d b o c) s = sends wait 3 { op := .vload d.toNat false (latchOf s), va := va, pa := pa, len := 512, cls := c.toNat, lag := 1 } ∧
    exec (.vst g d b o c) s = sends wait 4 { op := .vstore (vecOf (curStrand s) d.toNat), va := va, pa := pa, len := 512, cls := c.toNat, lag := 0 } ∧
    exec (.vldg g d i b k) s = sends 7 3
      { op := .vgather d.toNat false (latchOf s) ((List.range 128).map (fun l => gatherLane s s.cur.ra (lane (vecOf (curStrand s) i.toNat) l))),
        va := s.cur.ra.toNat, pa := 0, len := 4, cls := k.toNat, lag := 1 }) ∧
  (∀ (s : State) (d latch va pa cls lag : Nat) (data : Vec) (r : Seg),
    segsOf s.cur.tbl 4 va 512 = [r] → segsOf s.cur.tbl 2 va 512 = [r] → r.len = 512 → paPkg r.pa = s.dev.pkg → placeExists s (paLocal r.pa) = true →
    Flawless s → d < 48 →
    (let a : Access := { op := .vload d false latch, va := va, pa := pa, len := 512, cls := cls, lag := lag }
     performFault s s.cur a = none →
       let x : Vec := BitVec.ofNat 4096 (leNat (readBytes s (paLocal r.pa) 512))
       exec (.accessPerform a) s = .next (landLater (noteAck s s.cur a) lag (.regs [.x latch x, .v d x]) 0)) ∧
    (let a : Access := { op := .vgather d false latch (List.replicate 128 none), va := va, pa := pa, len := 4, cls := cls, lag := lag }
     performFault s s.cur a = none → exec (.accessPerform a) s = .next (landLater (noteAck s s.cur a) lag (.regs [.x latch 0, .v d 0]) 0x80)) ∧
    (let a : Access := { op := .vstore data, va := va, pa := pa, len := 512, cls := cls, lag := lag }
     s.Inv → paLocal r.pa % 512 = 0 → performFault s s.cur a = none →
       ∃ t, exec (.accessPerform a) s = .next t ∧ readBytes t (paLocal r.pa) 512 = leBytes 512 data.toNat ∧
         (∀ x, (∀ i, i < 512 → homeAddr x ≠ homeAddr (paLocal r.pa + i)) → readByte t x = readByte s x) ∧ t.agenda = s.agenda ∧
         SameRegisters (strandOf s s.cur.bank) (strandOf t s.cur.bank)))

/-! ## CSRs, service calls, faults and their return (R87 to R90, R108 to R114, R356 to R370) -/

/-- `csrr` lands the CSR as it reads in the issue kc 1 kc later; `csrw`, `csrs` and `csrc` write the register, the register with bits set, or with
bits cleared (R108). What the read-only CSRs read (R87, R89, R90): the packet's address, the bank's place, its group's coordinates, the package, the
trap's record. A CSR written reads back in its RW fields and only there (R51, R52, R87, R88, R204 to R206): every CSR with an RW field; no flag is
raised in this kc. A write changes no other CSR, no other register, no other bank. -/
def Obligations.CsrWordsReadAndWrite : Prop :=
  ((∀ (g : BitVec 4) (d : BitVec 5) (c : BitVec 12) (s : State), guardOn s g = true →
    exec (.csrr g d c) s = .next (landLater s 1 (.regs [.s d.toNat (readCsr s c.toNat)]) 0) ∧
    exec (.csrw g d c) s = .next (writeCsr s c.toNat (srcS s d)) ∧
    exec (.csrs g d c) s = .next (writeCsr s c.toNat (readCsr s c.toNat ||| srcS s d)) ∧
    exec (.csrc g d c) s = .next (writeCsr s c.toNat (readCsr s c.toNat &&& ~~~(srcS s d)))) ∧
  (∀ s : State,
    let b := s.cur.bank
    readCsr s 0x000 = BitVec.ofNat 64 s.cur.hdr ∧
    ((curStrand s).frame = none → readCsr s 0x001 = BitVec.ofNat 64 s.cur.pkc ∧ readCsr s 0x003 = 0) ∧
    (∀ f, (curStrand s).frame = some f → readCsr s 0x001 = BitVec.ofNat 64 f.f ∧ readCsr s 0x003 = BitVec.ofNat 64 (frecWord0 f.frec) ∧
      readCsr s 0x004 = BitVec.ofNat 64 f.frec.addr) ∧
    readCsr s 0x020 = (curStrand s).yreq.setWidth 64 ∧ readCsr s 0x021 = BitVec.ofNat 64 (curStrand s).ydl ∧
    readCsr s 0x030 = BitVec.ofNat 64 (bankGroup s b).gidx ∧ readCsr s 0x031 = BitVec.ofNat 64 (bankGroup s b).gidy ∧
    readCsr s 0x032 = BitVec.ofNat 64 (bankGroup s b).gidz ∧ readCsr s 0x034 = BitVec.ofNat 64 (b / 32) ∧
    readCsr s 0x033 = BitVec.ofNat 64 ((curStrand s).gstack * 2 ^ 12 + (curStrand s).grow * 2 ^ 8 + b / 32 * 2 ^ 4 + b / 2 % 16) ∧
    readCsr s 0x035 = BitVec.ofNat 64 s.dev.pkg ∧ readCsr s 0x050 = (curStrand s).cksyn)) ∧
  (∀ (s : State) (x : Dword) (c : Nat), c ∈ csrWritables → (curStrand s).freshAt ≠ s.hkc → (curStrand s).cktol.length = 6 →
    let t := writeCsr s c x
    (c = 0x002 → (curStrand t).vftz = x.getLsbD 3 ∧ (curStrand t).ie = x.getLsbD 2 ∧ (curStrand t).trap = (curStrand s).trap) ∧
    (c = 0x010 → readCsr t c = x &&& 0xFF) ∧ (c = 0x011 → readCsr t c = x &&& 0xFF) ∧
    (c = 0x013 → (curStrand t).seed = x.setWidth 32 ∧ (curStrand t).serial = (x >>> 32).setWidth 32) ∧
    (c = 0x051 → readCsr t c = x &&& 0xFFFF) ∧
    (0x058 ≤ c → c ≤ 0x05D → readCsr t c = x &&& 0xFFFF) ∧
    (∀ i, i ∈ csrIndices → i ≠ c → readCsr t i = readCsr s i) ∧
    SameRegisters (curStrand s) (curStrand t) ∧ OnlyBank s t s.cur.bank ∧ t.agenda = s.agenda)

/-- The register `vrm` (R48): 3 bits, reset 0; a write of 5, 6 or 7 leaves the field unchanged, and so does a write of 4 where the part lacks SRH. -/
def Obligations.VrmKeepsItsFieldOnUnassignedModes : Prop :=  (∀ (s : State) (x : Dword), readCsr (writeCsr s 0x012 x) 0x012 =
    if x.toNat % 8 ≤ 3 ∨ (x.toNat % 8 = 4 ∧ s.part.srh = true) then x &&& 7 else readCsr s 0x012) ∧
  (∀ s : State, readCsr s 0x012 ≤ 7) ∧ (∀ b, (strandOf State.reset b).vrm = 0) ∧
  (∀ (t : Strand) (cp : Nat) (v : List Dword), (atStart t cp v).vrm = 0)

/-- `trap 0` ends the strand and no handler runs; `trap n` enters the handler 1 kc later with cause 0x38 and `tval` = n; in a handler either is a
double fault, which is logged and kills the fault domain (R109). A strand that ends goes to done and fetches no further packet (R83, R109): its group
has other strands still at work, no shoot-down is pending, and the core has no other strand to run. Entering the handler (R362 to R366): `status.trap` is 1, control is at the
handler, the loop stack is empty and no register has changed; the frame holds the record, the freeze kc, the `cp`, the loop stack and the registers;
the handler's first packet issues 6 kc of the zone's clock later. The frame's image (R366): the `cp`, N, F, `s1` to `s31` and the predicates stand at
their offsets, little-endian. -/
def Obligations.ServiceCallsEnterTheHandler : Prop :=
  ((∀ (g : BitVec 4) (n : BitVec 9) (s : State), guardOn s g = true →
    let b := s.cur.bank
    let r : FaultRec := mkRec s s.cur 0x38 0 n.toNat 0 false true
    ((curStrand s).trap = false →
      exec (.trapEnd g) s = .next (endStrand s b) ∧
      exec (.trapService g n) s = .next (post s (ctxClk s.cur) (now s + 1) 0 (bankRow b) 0 s.cur (.enter b r)) ∧ r.cause = 0x38 ∧ r.addr = n.toNat) ∧
    ((curStrand s).trap = true →
      exec (.trapEnd g) s = .next (fatal s (curStrand s).grp (mkRec s s.cur 0x38 0 0 0 false true)) ∧
      exec (.trapService g n) s = .next (fatal s (curStrand s).grp r))) ∧
  (∀ (s : State) (b : Nat), isRecovery s b = false → (∀ k, (kernelOf s k).shootWait = []) → (strandOf s (otherBank b)).st = .unloaded →
    (∃ j, j ≠ b ∧ (strandOf s j).st ∉ [.unloaded, .done, .yielded] ∧ (strandOf s j).grp = (strandOf s b).grp) →
    let t := endStrand s b
    (strandOf t b).st = .done ∧ (strandOf t b).pend = [] ∧ SameRegisters (strandOf s b) (strandOf t b) ∧ SameMemory s t ∧
    (∀ e ∈ t.agenda, e.pay ≠ .fetch b) ∧ (∀ j, j ≠ b → strandOf t j = strandOf s j))) ∧
  ((∀ (s : State) (b h f : Nat) (r : FaultRec), (strandOf s b).st = .running →
    let t := enterHandler s b h r f none
    (strandOf t b).trap = true ∧ (strandOf t b).st = .trapped ∧ (strandOf t b).cp = h ∧ (strandOf t b).loops = [] ∧ (strandOf t b).wait = [] ∧
    SameRegisters (strandOf s b) (strandOf t b) ∧
    (∃ fr, (strandOf t b).frame = some fr ∧ fr.frec = r ∧ fr.f = f ∧ fr.n = nextIssue s b f ∧ fr.cp = (strandOf s b).cp ∧
      fr.loops = (strandOf s b).loops ∧ fr.prev = .running ∧ fr.bytes = frameImage s b r f (nextIssue s b f) none) ∧
    ∃ e ∈ t.agenda, e.pay = .fetch b ∧ e.clk = .zone (b / 32) ∧ e.at_ = (stackOf s (b / 32)).zkc + 6 ∧ e.ctx.hand = true) ∧
  (∀ (s : State) (b f n : Nat) (r : FaultRec) (q : Option Nat),
    let m := frameImage s b r f n q
    imageNat m 32 8 = (strandOf s b).cp % 2 ^ 64 ∧ imageNat m 40 8 = n % 2 ^ 64 ∧ imageNat m 48 8 = f % 2 ^ 64 ∧
    imageNat m 56 8 = (statusOf s b).toNat ∧ imageNat m 312 2 = (predsOf (strandOf s b)).toNat ∧
    ∀ i, 1 ≤ i → i ≤ 31 → imageNat m (64 + 8 * (i - 1)) 8 = (sreg (strandOf s b) i).toNat))

/-- A fault, service call or interrupt whose record names no page fault, tile fault or uncorrectable data enters the handler where the image has one,
and is fatal where it has none or the strand is in its handler (R356, R362). The code image's handler (R361): the word at offset csize − 8 is
0xDE000000 and the one at csize − 4 an offset that is a multiple of 4 below csize − 8. An interrupt that a strand may take is taken as cause 0x28,
with its sub-code and detail in `tval`, and is no longer pending; the first of those pending goes first (R370). A late fault of an access that is no
macro step (R281, R377): the strand takes it at the perform kc, with the entry standing again so that a restartable one is carried out anew (R8,
R368); a draining strand's waits until the strand runs again (R369). -/
def Obligations.ExceptionsGoToTheHandler : Prop :=
  ((∀ (s : State) (b f : Nat) (r : FaultRec) (c : Ctx), r.cause ∉ [0x04, 0x18, 0x19, 0x32] →
    ((strandOf s b).trap = true → takeException s b r f c [] none = fatal s (strandOf s b).grp { r with cause := 0x38 }) ∧
    ((strandOf s b).trap = false → probe s b f r = none →
      (∀ h, handlerOf s b = some h → takeException s b r f c [] none = enterHandler s b h r f none) ∧
      (handlerOf s b = none → takeException s b r f c [] none = fatal s (strandOf s b).grp r))) ∧
  (∀ (s : State) (b o : Nat) (im : Image), Sparse.find (stackOf s (bankStack b)).images (bankGroup s b).kern = some im →
    let word (x : Nat) := imageWord s (bankStack b) (bankGroup s b).kern x
    handlerOf s b = some o ↔ 8 ≤ im.size ∧ word (im.size - 8) = 0xDE000000 ∧ word (im.size - 4) = o ∧ o % 4 = 0 ∧ o < im.size - 8) ∧
  (∀ (s : State) (b sub detail : Nat) (rest : Sparse Nat), (strandOf s b).ie = true → (strandOf s b).trap = false →
    (strandOf s b).pend = (sub, detail) :: rest → probe s b (bankKc s b) (interruptRec s b (bankKc s b) sub detail) = none →
    ∃ r : FaultRec, exec (.interruptTaken b) s = .next (takeException (setStrand s b { strandOf s b with pend := rest }) b r (bankKc s b) Ctx.none [] none) ∧
      r.cause = 0x28 ∧ r.addr = sub * 2 ^ 32 + detail % 2 ^ 32 ∧ r.opsel = 0)) ∧
  (∀ (s : State) (a : Access) (r : FaultRec), (∀ i k, a.op ≠ .step i k) → accessHole s s.cur a = none → accessRebuilds s s.cur a = false →
    cacheHit s s.cur a = false → performFault s s.cur a = some r →
    (s.cur.drain = false →
      exec (.accessPerform a) s = .next (lateFault s (if accessWrites a then 4 else 3) (.ev (.accessPerform a)) r (accessSegs s.cur a))) ∧
    (s.cur.drain = true → ∃ t, exec (.accessPerform a) s = .next t ∧ OnlyAgenda s t ∧
      ∃ e, t.agenda = s.agenda ++ [e] ∧ e.pay = .ev (.accessPerform a) ∧ e.ctx = { s.cur with drain := false }))

/-- `rett` (R110, R368): the frame's registers, flags and loop stack come back, `status.trap` clears, the frame is gone and control resumes at the
frame's `cp`; no interrupt is pending and the frame does not ask for a phase cancel. A strand that ran stands frozen until kernel time runs on; one
that waited, with its `cp` as it was, waits on (R83). -/
def Obligations.ReturnRestoresTheFrame : Prop :=  ∀ (s : State) (f : Frame), let b := s.cur.bank
    (strandOf s b).frame = some f → (strandOf s b).pend = [] → imageNat f.bytes 32 8 ≠ 2 ^ 64 - 1 → f.frec.cause ≠ 0x32 →
    ∃ t, exec .rett s = .next t ∧
      (strandOf t b).trap = false ∧ (strandOf t b).frame = none ∧ (strandOf t b).cp = imageNat f.bytes 32 8 ∧ (strandOf t b).loops = f.loops ∧
      (strandOf t b).st = (if imageNat f.bytes 32 8 = f.cp ∧ f.prev ≠ .running then f.prev else .frozen) ∧ (∀ i, 1 ≤ i → i ≤ 31 → sreg (strandOf t b) i = BitVec.ofNat 64 (imageNat f.bytes (64 + 8 * (i - 1)) 8)) ∧
      (strandOf t b).p = BitVec.ofNat 16 (imageNat f.bytes 312 2) ||| 1 ∧ (strandOf t b).aflags = BitVec.ofNat 8 (imageNat f.bytes 552 1) ∧
      (strandOf t b).aen = BitVec.ofNat 8 (imageNat f.bytes 560 1) ∧ (strandOf t b).ie = (f.bytes.getD 56 0).getLsbD 2 ∧
      (strandOf t b).vftz = (f.bytes.getD 56 0).getLsbD 3 ∧ (strandOf t b).v = (strandOf s b).v ∧ (strandOf t b).q = (strandOf s b).q ∧
      SameMemory s t ∧ (∀ j, j ≠ b → strandOf t j = strandOf s j)

/-- `node` (R112, R114, R307): the snapshot holds the `cp` of the packet that follows, `s1` to `s7` and the issue kc; the retry count returns to 0;
control goes to that packet. `node 1` also opens the next buffer phase. No shoot-down is pending and no strand waits for the core. `yield` (R112,
R83): the strand goes to yielded after its snapshot; other strands of its group are still at work, and its core has no other strand to run. `tfence`,
issued, does nothing (R111): its sample is a check of its packet, which faults with cause 0x20 where `aflags` AND `aen` is not zero. -/
def Obligations.NodesWriteTheSnapshot : Prop :=  (∀ (s : State), let b := s.cur.bank
    (∀ k, (kernelOf s k).shootWait = []) → (strandOf s (otherBank b)).st ≠ .bankedOut →
    let snap : Snapshot := { cp := s.cur.nxt, regs := (List.range 7).map (fun i => sreg (strandOf s b) (i + 1)), kc := s.cur.pkc }
    (∃ t, exec .node0 s = .next t ∧ (strandOf t b).snap = some snap ∧ (strandOf t b).cp = s.cur.nxt ∧ (strandOf t b).ckret.toNat % 256 = 0 ∧
      SameRegisters (strandOf s b) (strandOf t b) ∧ OnlyBank s t b) ∧
    (∃ t, exec .node1 s = .next t ∧ (strandOf t b).snap = some snap ∧ (strandOf t b).cp = s.cur.nxt ∧ (strandOf t b).cardsNow = [] ∧
      (groupOf t (strandOf s b).grp).cancels = 0 ∧ SameRegisters (strandOf s b) (strandOf t b) ∧ SameMemory s t) ∧
    ((strandOf s b).yreq.getLsbD 0 = false →
      ∃ t, exec .node2 s = .next t ∧ (strandOf t b).snap = some snap ∧ (strandOf t b).cp = s.cur.nxt ∧ SameRegisters (strandOf s b) (strandOf t b) ∧ OnlyBank s t b) ∧
    ((strandOf s b).yreq.getLsbD 0 = true → exec .node2 s = exec .yield s)) ∧
  (∀ (s : State), let b := s.cur.bank
    (∀ k, (kernelOf s k).shootWait = []) → (strandOf s (otherBank b)).st = .unloaded → (groupOf s (strandOf s b).grp).st = .yielding →
    (∃ j, j ≠ b ∧ (strandOf s j).st ∉ [.unloaded, .done, .yielded] ∧ (strandOf s j).grp = (strandOf s b).grp) →
    ∃ t, exec .yield s = .next t ∧ (strandOf t b).st = .yielded ∧ (strandOf t b).snap.map (·.cp) = some s.cur.nxt ∧
      (∀ e ∈ t.agenda, e.pay ≠ .fetch b) ∧ SameMemory s t ∧ (∀ j, j ≠ b → strandOf t j = strandOf s j)) ∧
  (∀ (g : BitVec 4) (s : State), exec (.tfence g) s = .next s)

/-! ## The V engine (R115 to R147) -/

/-- The vector floating-point words (R127 to R130): each lane's arithmetic, a result 4 kc later, or 8 for `vfrcp`, `vfrsq` and `vfexp2`; the bf16
words act on both halves of a lane; `vfma` reads its destination. A vector result lands in the latch Latch(u, t) = 4u + t mod 4 of its unit and,
unless nw is 1, in its register, with the union of its lanes' flags (R116, R53); lane `l` of the result is what the word computes for lane `l` (R115).
Rounding leaves a representable value as it is and raises no flag (R36, R42), in every format and every mode. The special cases of `vfrcp`, `vfrsq`
and `vfexp2` (R38), by the pattern of their input, with `vftz` off. -/
def Obligations.VectorFloatWordsComputeTheirLanes : Prop :=
  ((∀ (g : BitVec 4) (d a b : BitVec 6) (n : BitVec 1) (s : State), guardOn s g = true →
    let z := s.cur.ftz
    let x (l : Nat) : Nat := (lane (srcV s a) l).toNat
    let y (l : Nat) : Nat := (lane (srcV s b) l).toNat
    let w (l : Nat) : Nat := (lane (destV s d n) l).toNat
    let gives (k : Nat) (f : Nat → Nat × BitVec 8) := Host.Outcome.next (φ := Fault) (ρ := Refusal) (vecLater s k d n (lanesOf f).1 (lanesOf f).2)
    let both (op : Nat → Nat → Nat × BitVec 8) (l : Nat) : Nat × BitVec 8 :=
      let lo := op (x l % 65536) (y l % 65536)
      let hi := op (x l / 65536) (y l / 65536)
      (lo.1 % 65536 + hi.1 % 65536 * 65536, lo.2 ||| hi.2)
    exec (.vfaddF32 g d a b n) s = gives 4 (fun l => vAddF fp32 z (x l) (y l)) ∧ exec (.vfaddBf16 g d a b n) s = gives 4 (both (vAddF bf16 z)) ∧
    exec (.vfsubF32 g d a b n) s = gives 4 (fun l => vSubF fp32 z (x l) (y l)) ∧ exec (.vfsubBf16 g d a b n) s = gives 4 (both (vSubF bf16 z)) ∧
    exec (.vfmulF32 g d a b n) s = gives 4 (fun l => vMulF fp32 z (x l) (y l)) ∧ exec (.vfmulBf16 g d a b n) s = gives 4 (both (vMulF bf16 z)) ∧
    exec (.vfmaF32 g d a b n) s = gives 4 (fun l => vFmaF fp32 z (x l) (y l) (w l)) ∧
    exec (.vfmaBf16 g d a b n) s = gives 4 (fun l =>
      let lo := vFmaF bf16 z (x l % 65536) (y l % 65536) (w l % 65536)
      let hi := vFmaF bf16 z (x l / 65536) (y l / 65536) (w l / 65536)
      (lo.1 % 65536 + hi.1 % 65536 * 65536, lo.2 ||| hi.2)) ∧
    exec (.vfmaxF32 g d a b n) s = gives 4 (fun l => vMaxF true z (x l) (y l)) ∧ exec (.vfminF32 g d a b n) s = gives 4 (fun l => vMaxF false z (x l) (y l)) ∧
    exec (.vfrcp g d a n) s = gives 8 (fun l => vRcpF z (x l)) ∧ exec (.vfrsq g d a n) s = gives 8 (fun l => vRsqF z (x l)) ∧
    exec (.vfexp2 g d a n) s = gives 8 (fun l => vExp2F z (x l))) ∧
  ((∀ (f : Nat → Nat × BitVec 8) (l : Nat), l < 128 → lane (lanesOf f).1 l = BitVec.ofNat 32 (f l).1) ∧
  (∀ (f : Nat → Nat × BitVec 8) (i : Nat), (lanesOf f).2.getLsbD i = true ↔ ∃ l, l < 128 ∧ (f l).2.getLsbD i = true) ∧
  (∀ (f : Nat → Word) (l : Nat), l < 128 → lane (ofLanes f) l = f l) ∧
  (∀ (s : State) (n : Nat) (d : BitVec 6) (x : Vec) (f : BitVec 8),
    vecLater s n d 0 x f = landLater s n (.regs [.x (4 * s.cur.unit + now s % 4) x, .v d.toNat x]) f ∧
    vecLater s n d 1 x f = landLater s n (.regs [.x (4 * s.cur.unit + now s % 4) x]) f))) ∧
  ((∀ f ∈ [fp32, bf16, fp16, e5m2, e4m3, e2m1], ∀ (mode h x : Nat) (sg : Bool) (m : Nat) (e : Int), x < 2 ^ (1 + f.ew + f.fw) → fpVal f x = .fin sg m e →
    roundFv f mode h (fpVal f x) = (x, 0)) ∧
  (vRcpF false 0 = (0x7F800000, 0) ∧ vRcpF false 0x80000000 = (0xFF800000, 0) ∧ vRcpF false 0x7F800000 = (0, 0) ∧ vRcpF false 0xFF800000 = (0x80000000, 0) ∧
  (∀ m, 0 < m → m < 2 ^ 21 → vRcpF false m = (0x7F800000, 0x14) ∧ vRcpF false (0x80000000 + m) = (0xFF800000, 0x14)) ∧
  vRsqF false 0 = (0x7F800000, 0) ∧ vRsqF false 0x80000000 = (0xFF800000, 0) ∧ vRsqF false 0x7F800000 = (0, 0) ∧
  (∀ m, 0 < m → m ≤ 0x7F800000 → vRsqF false (0x80000000 + m) = (0x7FC00000, 0x01)) ∧
  vExp2F false 0 = (0x3F800000, 0) ∧ vExp2F false 0x80000000 = (0x3F800000, 0) ∧ vExp2F false 0xFF800000 = (0, 0) ∧ vExp2F false 0x7F800000 = (0x7F800000, 0) ∧
  (∀ x, 0x43000000 ≤ x → x < 0x7F800000 → vExp2F false x = (0x7F800000, 0x14)) ∧
  (∀ x, 0xC3160000 < x → x < 0xFF800000 → vExp2F false x = (0, 0x18)) ∧
  (∀ m, 0x7F800000 < m → m < 2 ^ 31 → vRcpF false m = (0x7FC00000, 0) ∧ vRsqF false m = (0x7FC00000, 0) ∧ vExp2F false m = (0x7FC00000, 0))))

/-- The vector integer and logic words (R40, R133 to R135) wrap modulo 2^32, `vadd.i16` modulo 2^16 in each half, and raise no flag; the shifts take
the low five bits of their count. Each result lands 1 kc later. -/
def Obligations.VectorIntegerWordsWrap : Prop :=  ∀ (g : BitVec 4) (d a b : BitVec 6) (n : BitVec 1) (s : State), guardOn s g = true →
    let gives (f : Word → Word → Word) := Host.Outcome.next (φ := Fault) (ρ := Refusal)
      (vecLater s 1 d n (ofLanes (fun l => f (lane (srcV s a) l) (lane (srcV s b) l))) 0)
    exec (.vaddI32 g d a b n) s = gives (fun x y => BitVec.ofNat 32 (x.toNat + y.toNat)) ∧
    exec (.vaddI16 g d a b n) s = gives (fun x y =>
      BitVec.ofNat 32 ((x.toNat % 65536 + y.toNat % 65536) % 65536 + (x.toNat / 65536 + y.toNat / 65536) % 65536 * 65536)) ∧
    exec (.vsubI32 g d a b n) s = gives (fun x y => BitVec.ofInt 32 (x.toNat - y.toNat)) ∧
    exec (.vmulI32 g d a b n) s = gives (fun x y => BitVec.ofNat 32 (x.toNat * y.toNat)) ∧
    exec (.vand g d a b n) s = gives (fun x y => x &&& y) ∧ exec (.vor g d a b n) s = gives (fun x y => x ||| y) ∧
    exec (.vxor g d a b n) s = gives (fun x y => x ^^^ y) ∧
    exec (.vshl g d a b n) s = gives (fun x y => x <<< (y.toNat % 32)) ∧ exec (.vshr g d a b n) s = gives (fun x y => x >>> (y.toNat % 32)) ∧
    exec (.vshra g d a b n) s = gives (fun x y => x.sshiftRight (y.toNat % 32)) ∧
    exec (.vminI32 g d a b n) s = gives (fun x y => if x.toInt ≤ y.toInt then x else y) ∧
    exec (.vmaxI32 g d a b n) s = gives (fun x y => if x.toInt ≤ y.toInt then y else x)

/-- `vlut3`, `vfsh` and the words that move lanes (R134 to R138): each with its prefix's table, count and partner, its index, its mask or its
rotation. Compares and mask words (R117, R131, R132): a lane mask 1 kc later, one bit a lane; `vany` a predicate 5 kc later. -/
def Obligations.LaneMovingAndMaskWords : Prop :=
  (∀ (g : BitVec 4) (d a b i : BitVec 6) (n : BitVec 1) (c : BitVec 5) (s : State), guardOn s g = true →
    let p := curPre s
    let x (l : Nat) : Word := lane (srcV s a) l
    let y (l : Nat) : Word := lane (srcV s b) l
    let w (l : Nat) : Word := lane (destV s d n) l
    let gives (k : Nat) (m : BitVec 1) (f : Nat → Word) := Host.Outcome.next (φ := Fault) (ρ := Refusal) (vecLater s k d m (ofLanes f) 0)
    let table (u v t : Bool) : Bool := bitOf (p % 256) ((if u then 4 else 0) + (if v then 2 else 0) + (if t then 1 else 0))
    exec (.vlut3 g d a b n) s =
      gives 1 n (fun l => BitVec.ofNat 32 ((List.range 32).foldl (fun acc j =>
        acc + (if table ((x l).getLsbD j) ((y l).getLsbD j) ((w l).getLsbD j) then 1 else 0) * 2 ^ j) 0)) ∧
    exec (.vfsh g d a b n) s =
      gives 1 n (fun l => BitVec.ofNat 32 (funnel (bitOf p 5) (p % 32) (x l).toNat (y (partnerLane (bitsOf p 6 2) l)).toNat)) ∧
    exec (.vmov g d a n) s = gives 1 n x ∧
    exec (.vbcast g d c) s = gives 1 0 (fun _ => s.cur.ra.setWidth 32) ∧
    exec (.vperm g d a b n) s = gives 3 n (fun l => x ((y l).toNat % 128)) ∧
    exec (.vsel g d a b n) s = gives 1 n (fun l => if (maskOf (curStrand s) 0).getLsbD l then x l else y l) ∧
    exec (.vrot g d a i n) s =
      gives 1 n (fun l => x (rotLane (match s.cur.pre with | [] => i.toNat | q :: _ => q.toNat % 128) (match s.cur.pre with | [] => 7 | q :: _ => q.toNat / 128 % 8) l))) ∧
  (∀ (g : BitVec 4) (d a b : BitVec 6) (s : State), guardOn s g = true →
    let x (l : Nat) : Word := lane (srcV s a) l
    let y (l : Nat) : Word := lane (srcV s b) l
    let sets (k : Mask) (f : BitVec 8) := Host.Outcome.next (φ := Fault) (ρ := Refusal) (landLater s 1 (.regs [.k d.toNat k]) f)
    let float (cc : Nat) (e : Host.Outcome State Fault Refusal) : Prop := ∃ k f, e = sets k f ∧
      (∀ l, l < 128 → k.getLsbD l = (vCmpF cc s.cur.ftz (x l).toNat (y l).toNat).1) ∧
      (∀ i, f.getLsbD i = true ↔ ∃ l, l < 128 ∧ (vCmpF cc s.cur.ftz (x l).toNat (y l).toNat).2.getLsbD i = true)
    let int (p : Word → Word → Prop) (e : Host.Outcome State Fault Refusal) : Prop := ∃ k, e = sets k 0 ∧
      ∀ l, l < 128 → (k.getLsbD l = true ↔ p (x l) (y l))
    float 0 (exec (.vfcmpEq g d a b) s) ∧ float 1 (exec (.vfcmpLt g d a b) s) ∧ float 2 (exec (.vfcmpLe g d a b) s) ∧
    int (fun u v => u = v) (exec (.vcmpEq g d a b) s) ∧ int (fun u v => u.toInt < v.toInt) (exec (.vcmpLt g d a b) s) ∧
    int (fun u v => u.toNat < v.toNat) (exec (.vcmpLtu g d a b) s) ∧
    exec (.kand g d a b) s = sets (srcK s a &&& srcK s b) 0 ∧ exec (.kor g d a b) s = sets (srcK s a ||| srcK s b) 0 ∧
    exec (.knot g d a) s = sets (~~~(srcK s a)) 0 ∧
    exec (.vany g d a) s = .next (landLater s 5 (.regs [.p d.toNat (decide (srcK s a ≠ 0))]) 0))

/-- The conversions (R139, R140, R143): each lane narrowed or widened with its rounding, 2 kc later; `vqnt.e2m1` 6 kc later, its quarter, its header
lane and the rest of its destination as they were. The reductions (R136): each group of 2^sg lanes becomes one value, by a tree of adds or of maxima,
that every lane of the group receives 6 kc later, with every node's flags. -/
def Obligations.ConversionsAndReductions : Prop :=  (∀ (g : BitVec 4) (d a b : BitVec 6) (h n : BitVec 1) (q : BitVec 2) (s : State), guardOn s g = true →
    let c := s.cur
    let x (l : Nat) : Word := lane (srcV s a) l
    let y (l : Nat) : Word := lane (srcV s b) l
    let w (l : Nat) : Word := lane (destV s d n) l
    let gives (k : Nat) (f : Nat → Nat × BitVec 8) := Host.Outcome.next (φ := Fault) (ρ := Refusal) (vecLater s k d n (lanesOf f).1 (lanesOf f).2)
    let narrow (f : Fmt) (l : Nat) (v : Word) : Nat × BitVec 8 := vNarrow f c.vrm.toNat (srhHash c l) c.ftz v.toNat
    exec (.vcvtBf16F32 g d a b n) s = gives 2 (fun l =>
      ((narrow bf16 l (x l)).1 % 65536 + (narrow bf16 l (y l)).1 % 65536 * 65536, (narrow bf16 l (x l)).2 ||| (narrow bf16 l (y l)).2)) ∧
    exec (.vcvtF32Bf16 g d a h n) s = gives 2 (fun l => (widen bf16 c.ftz (if h = 1 then (x l).toNat / 65536 else (x l).toNat % 65536), 0)) ∧
    exec (.vcvtF32I32 g d a n) s = gives 2 (fun l => vFromInt c.vrm.toNat (srhHash c l) (x l).toNat) ∧
    exec (.vcvtI32F32 g d a n) s = gives 2 (fun l => vToInt c.vrm.toNat (srhHash c l) c.ftz (x l).toNat) ∧
    (∃ f, exec (.vcvtE4m3F32 g d a q n) s = gives 2 f ∧ (∀ l, l < 128 → l / 32 ≠ q.toNat → f l = ((w l).toNat, 0)) ∧
      ∀ l i, l < 128 → l / 32 = q.toNat → i < 4 →
        (f l).1 / 256 ^ i % 256 = (narrow e4m3 (4 * (l % 32) + i) (x (4 * (l % 32) + i))).1 % 256) ∧
    exec (.vcvtF32E4m3 g d a q n) s = gives 2 (fun l => (widen e4m3 false ((x (32 * q.toNat + l / 4)).toNat / 256 ^ (l % 4) % 256), 0)) ∧
    (∃ u, exec (.vqntE2m1 g d a q n) s = .next (vecLater s 6 d n u (quantise c (srcV s a)).2.2.2) ∧
      (∀ l, l < 128 → l / 16 ≠ q.toNat → l ≠ 64 + q.toNat → lane u l = w l) ∧
      lane u (64 + q.toNat) = BitVec.ofNat 32 ((quantise c (srcV s a)).2.1 + 256 * (quantise c (srcV s a)).2.2.1)) ∧
    exec (.vdqntE2m1 g d a q n) s = gives 2 (fun l =>
      dequantise c.ftz ((x (64 + q.toNat)).toNat % 65536) ((x (16 * q.toNat + l / 8)).toNat / 16 ^ (l % 8) % 16))) ∧
  (∀ (g : BitVec 4) (d a : BitVec 6) (k : BitVec 3) (n : BitVec 1) (s : State), guardOn s g = true →
    let xs := (List.range 128).map (fun l => (lane (srcV s a) l).toNat)
    let tree (op : Nat → Nat → Nat × BitVec 8) := redTree op k.toNat xs
    let gives (r : List Nat × BitVec 8) := Host.Outcome.next (φ := Fault) (ρ := Refusal)
      (vecLater s 6 d n (ofLanes (fun l => BitVec.ofNat 32 (r.1.getD (l / 2 ^ k.toNat) 0))) r.2)
    exec (.vredAdd g d a k n) s = gives (tree (vAddF fp32 s.cur.ftz)) ∧ exec (.vredMax g d a k n) s = gives (tree (vMaxF true s.cur.ftz)) ∧
    (∀ op, (redTree op k.toNat xs).1.length = 128 / 2 ^ k.toNat))

/-- Vector streams (R144 to R147): `vpush` appends the lanes that `k0` picks, in lane order, to a stream with room for them; `vpop` takes up to 128
entries off the front, fills lanes from 0, zeros beyond, and its mask tells which lanes it filled; a push that does not fit raises 0x1A with the
excess. `vpush.bal` without a partner acts as `vpush`, and with one keeps every entry and gives each to the shorter stream. -/
def Obligations.StreamsKeepTheirOrder : Prop :=  ∀ (g : BitVec 4) (d a b : BitVec 6) (n : BitVec 1) (s : State), guardOn s g = true →
    let bk := s.cur.bank
    let ws := (List.range 128).filterMap (fun l => if (maskOf (curStrand s) 0).getLsbD l then some (lane (srcV s a) l) else none)
    let old := streamOf (curStrand s) d.toNat
    let late (x : Nat) := Host.Outcome.next (φ := Fault) (ρ := Refusal) (lateFault s 5 (.word s.cur.word) (mkRec s s.cur 0x1A 7 0 x true false) [])
    (old.length + ws.length ≤ 512 → ∃ t, exec (.vpush g d a) s = .next t ∧ streamOf (strandOf t bk) d.toNat = old ++ ws ∧
      (∀ q, q ≠ d.toNat → streamOf (strandOf t bk) q = streamOf (curStrand s) q) ∧ OnlyBank s t bk ∧ t.agenda = s.agenda) ∧
    (old.length ≤ 512 → 512 < old.length + ws.length → exec (.vpush g d a) s = late (old.length + ws.length - 512)) ∧
    (pairBank s bk = none → exec (.vpushBal g d a) s = exec (.vpush g d a) s) ∧
    (∀ o, pairBank s bk = some o → o ≠ bk → old.length ≤ 512 → (streamOf (strandOf s o) d.toNat).length ≤ 512 →
      old.length + (streamOf (strandOf s o) d.toNat).length + ws.length ≤ 1024 →
      ∃ t, exec (.vpushBal g d a) s = .next t ∧
        (streamOf (strandOf t bk) d.toNat).length + (streamOf (strandOf t o) d.toNat).length =
          old.length + (streamOf (strandOf s o) d.toNat).length + ws.length ∧
        (∀ q, q ≠ d.toNat → streamOf (strandOf t bk) q = streamOf (strandOf s bk) q ∧ streamOf (strandOf t o) q = streamOf (strandOf s o) q) ∧
        (∀ j, j ≠ bk → j ≠ o → strandOf t j = strandOf s j)) ∧
    (let src := streamOf (curStrand s) a.toNat
     let c := min 128 src.length
     ∃ t x k, exec (.vpop g d a b n) s = .next (landLater t 2 (.regs (vecWrites (latchOf s) d n x ++ [.k b.toNat k])) 0) ∧
       (∀ l, l < 128 → lane x l = if l < c then src.getD l 0 else 0) ∧ (∀ l, l < 128 → k.getLsbD l = decide (l < c)) ∧
       streamOf (strandOf t bk) a.toNat = src.drop c ∧ OnlyBank s t bk ∧ t.agenda = s.agenda)

/-! ## The M engine (R160 to R218) -/

/-- `mload` and `mloadt` (R168, R169, R172): the buffer is filling with a new load; each of its 64 lines of 64 bytes in every cell of the record's
range is read in a kc of its own from 4 kc after the word's issue, and the load ends 72 kc after it. `mzero` clears its tile 1 kc after its issue,
from any state (R184, R188): no value, no type, no check, no product; an armed injection stays (R214). `mscl`, `mmode` and the drains at their issue
(R186, R187, R189, R46): `mscl`'s tile is filling, FP32 and unchecked, and complete M + 5 kc later; `mmode` sets the drain-mode entry and nothing else
of the row; a drain leaves its tile as it is, compares it 7 kc later where its ck is set, and else writes its row i 12 + i kc later; one that narrows
in SRH advances the entry's base by 64. -/
def Obligations.TileWordsActOnTheirTiles : Prop :=
  (∀ (g : BitVec 4) (a b : BitVec 5) (c : BitVec 1) (s : State), guardOn s g = true → s.cur.drain = false →
    ∀ i ∈ [Instr.mload g a b c, .mloadt g a b c], encode i = [s.cur.word] →
      let r := curRow s
      let id := (rowOf s r).nextMacro
      let img := rec0 s.cur
      let pass := s.cur.rb.toNat % 65536
      ∃ t, exec i s = .next t ∧ OnlyRow s t r ∧ OnlyEngines (rowOf s r) (rowOf t r) ∧ (rowOf t r).tiles = (rowOf s r).tiles ∧
        creelOf (rowOf t r) c.toNat = { creelOf (rowOf s r) c.toNat with st := .filling, gen := (creelOf (rowOf s r) c.toNat).gen + 1 } ∧
        (∀ n, n ≠ c.toNat → creelOf (rowOf t r) n = creelOf (rowOf s r) n) ∧
        (∀ l, l < 64 → Posts s t ((4 + l) * pace s s.cur)
          (stepEvent id (kLoad 0) l ((List.range (recNcol img)).map (fun j => creelVa s s.cur img (recBase img) j + 4096 * pass + 64 * l)) 64 false 5)) ∧
        Posts s t (72 * pace s s.cur) (stepEvent id (kLoad 0) 72 [] 0 false 5)) ∧
  ((∀ (g : BitVec 4) (t : BitVec 2) (s : State), guardOn s g = true → s.cur.drain = false → encode (.mzero g t) = [s.cur.word] →
    let r := curRow s
    let id := (rowOf s r).nextMacro
    ∃ v, exec (.mzero g t) s = .next v ∧ OnlyRow s v r ∧ OnlyEngines (rowOf s r) (rowOf v r) ∧ (rowOf v r).tiles = (rowOf s r).tiles ∧
      (rowOf v r).creels = (rowOf s r).creels ∧ (macroAt v r id).map (·.word) = some s.cur.word ∧
      Posts s v (pace s s.cur) (stepEvent id kPort t.toNat [] 0 false 0)) ∧
  (∀ (t : BitVec 2) (g : BitVec 4) (id : Nat) (m : Macro) (s : State), macroAt s (curRow s) id = some m → encode (.mzero g t) = [m.word] →
    m.prod = none → m.dead = false →
    let r := curRow s
    ∃ v, exec (stepEvent id kPort t.toNat [] 0 false 0) s = .next v ∧ v.agenda = s.agenda ∧ v.banks = s.banks ∧ SameMemory s v ∧
      (∀ j, j ≠ r → rowOf v j = rowOf s j) ∧ ((rowOf s r).arrBad = [] → OnlyRow s v r) ∧
      tileOf (rowOf v r) t.toNat = { Tile.clear with inj := (tileOf (rowOf s r) t.toNat).inj } ∧
      (∀ n, n ≠ t.toNat → tileOf (rowOf v r) n = tileOf (rowOf s r) n) ∧ (rowOf v r).creels = (rowOf s r).creels)) ∧
  (∀ (g : BitVec 4) (t : BitVec 2) (a b : BitVec 5) (k z : BitVec 1) (s : State), guardOn s g = true → s.cur.drain = false →
    let r := curRow s
    let id := (rowOf s r).nextMacro
    let m := s.cur.rb.toNat % 256
    let img := rec0 s.cur
    (encode (.mscl g t a b k) = [s.cur.word] → ∃ v, exec (.mscl g t a b k) s = .next v ∧ OnlyRow s v r ∧ OnlyEngines (rowOf s r) (rowOf v r) ∧
      (rowOf v r).creels = (rowOf s r).creels ∧
      tileOf (rowOf v r) t.toNat = { tileOf (rowOf s r) t.toNat with st := .filling, typed := true, int := false, checked := false, nprod := 2, prod := none } ∧
      (∀ n, n ≠ t.toNat → tileOf (rowOf v r) n = tileOf (rowOf s r) n) ∧
      Posts s v 0 (stepEvent id kScale 0 [recBase img] 768 false 4) ∧ Posts s v ((m + 5) * pace s s.cur) (stepEvent id kDone 0 [] 0 false 4)) ∧
    (∃ v, exec (.mmode g a b) s = .next v ∧ (rowOf v r).mmSeed = s.cur.ra.setWidth 32 ∧ (rowOf v r).mmBase = (s.cur.rb >>> 32).setWidth 32 ∧
      (rowOf v r).mmMode = vrmWrite s (rowOf s r).mmMode s.cur.rb.toNat ∧ v.agenda = s.agenda ∧ v.banks = s.banks ∧ v.mem = s.mem ∧
      (∀ j, j ≠ r → rowOf v j = rowOf s j) ∧
      rowOf v r = { rowOf s r with mmSeed := (rowOf v r).mmSeed, mmMode := (rowOf v r).mmMode, mmBase := (rowOf v r).mmBase, res := (rowOf v r).res }) ∧
    (∀ i ∈ [Instr.mdrainF32 g t a b k z, .mdrainBf16 g t a b k z], encode i = [s.cur.word] →
      ∃ v, exec i s = .next v ∧ OnlyRow s v r ∧ (rowOf v r).creels = (rowOf s r).creels ∧ (rowOf v r).tiles = (rowOf s r).tiles ∧
        (rowOf v r).mmMode = (rowOf s r).mmMode ∧ (rowOf v r).mmSeed = (rowOf s r).mmSeed ∧
        (rowOf v r).mmBase = (rowOf s r).mmBase + (if i = .mdrainBf16 g t a b k z ∧ (rowOf s r).mmMode = 4 then 64 else 0) ∧
        (k = 1 → Posts s v (7 * pace s s.cur) (stepEvent id kCompare 0 [] 0 false 10)) ∧
        (k = 0 → ∀ j, j < m → Posts s v ((12 + j) * pace s s.cur) (stepEvent id kOut j [recBase img + j * recStride img 1] (recDim img 0) true 4))))

/-- What a product word runs (R164, R165, R173): its format, tile, buffer and flags are those of its encoding, its rows and its first row those of its
control word. A product issues (R169, R175 to R178, R184): its buffer is being read, its tile is filling and typed, a product that overwrites starts
the tile anew and one that accumulates leaves it no single product (R196); one with cout touches no tile. The tile is complete, and the buffer free again, at the
kc of R176. An `mgrp` reads its count table first (R180). The array's integer arithmetic (R31, R33, R175): an INT8 product's partial is the exact sum
of products modulo 2^32, and the chain and the tile add modulo 2^32; a floating-point chain of one cell gives that cell's partial. -/
def Obligations.ProductsFillTheirTiles : Prop :=
  (∀ (g : BitVec 4) (t : BitVec 2) (a b : BitVec 5) (f : BitVec 3) (c k u : BitVec 1) (x : Ctx),
    let p (i : Instr) : Prod := prodOf ((encode i).headD 0) x
    let parts (i : Instr) (kind fmt : Nat) : Prop :=
      (p i).kind = kind ∧ (p i).fmt = fmt ∧ (p i).tile = t.toNat ∧ (p i).buf = c.toNat ∧ (p i).ck = decide (k = 1) ∧ (p i).acc = decide (u = 1) ∧
      (kind ≠ 3 → (p i).rows = x.rb.toNat % 256 ∧ (p i).trow = x.rb.toNat / 256 % 128 ∧ (p i).cout = x.rb.getLsbD 15 ∧ (p i).cin = x.rb.getLsbD 16)
    parts (.mmulE2m1 g t a b c k u) 0 0 ∧ parts (.mmulE4m3 g t a b c k u) 0 1 ∧ parts (.mmulE5m2 g t a b c k u) 0 2 ∧
    parts (.mmulI8 g t a b c k u) 0 3 ∧ parts (.mmulBf16 g t a b c k u) 0 4 ∧ parts (.mmulF16 g t a b c k u) 0 5 ∧
    parts (.mmulg g t a b f c k u) 1 f.toNat ∧ parts (.mconv g t a b f c k u) 2 f.toNat ∧ parts (.mgrp g t a b f c k u) 3 f.toNat) ∧
  ((∀ (g : BitVec 4) (t : BitVec 2) (a b : BitVec 5) (f : BitVec 3) (c k u : BitVec 1) (s : State), guardOn s g = true → s.cur.drain = false →
    ∀ i ∈ [Instr.mmulE2m1 g t a b c k u, .mmulE4m3 g t a b c k u, .mmulE5m2 g t a b c k u, .mmulI8 g t a b c k u, .mmulBf16 g t a b c k u,
           .mmulF16 g t a b c k u, .mmulg g t a b f c k u, .mconv g t a b f c k u], encode i = [s.cur.word] →
      let r := curRow s
      let id := (rowOf s r).nextMacro
      let p := prodOf s.cur.word s.cur
      ∃ v, exec i s = .next v ∧ OnlyRow s v r ∧ OnlyEngines (rowOf s r) (rowOf v r) ∧
        (creelOf (rowOf v r) p.buf).st = .reading ∧ (∀ n, n ≠ p.buf → creelOf (rowOf v r) n = creelOf (rowOf s r) n) ∧
        (p.cout = true → (rowOf v r).tiles = (rowOf s r).tiles) ∧
        (p.cout = false →
          tileOf (rowOf v r) p.tile = productTile (tileOf (rowOf s r) p.tile) p (curProduct s) ∧
          (∀ n, n ≠ p.tile → tileOf (rowOf v r) n = tileOf (rowOf s r) n) ∧
          Posts s v ((7 + p.q * p.rows + 2 * p.chain + p.lead) * pace s s.cur) (stepEvent id kDone 0 [] 0 false 4)) ∧
        Posts s v ((p.q * (p.rows + 1) + p.lead) * pace s s.cur) (stepEvent id kRelease p.buf [] 0 false 4)) ∧
  (∀ (g : BitVec 4) (t : BitVec 2) (a b : BitVec 5) (f : BitVec 3) (c k u : BitVec 1) (s : State), guardOn s g = true → s.cur.drain = false →
    encode (.mgrp g t a b f c k u) = [s.cur.word] →
      let r := curRow s
      let id := (rowOf s r).nextMacro
      let p := prodOf s.cur.word s.cur
      ∃ v, exec (.mgrp g t a b f c k u) s = .next v ∧ OnlyRow s v r ∧ OnlyEngines (rowOf s r) (rowOf v r) ∧ (rowOf v r).creels = (rowOf s r).creels ∧
        tileOf (rowOf v r) p.tile = productTile (tileOf (rowOf s r) p.tile) p (curProduct s) ∧
        (∀ n, n ≠ p.tile → tileOf (rowOf v r) n = tileOf (rowOf s r) n) ∧
        Posts s v 0 (stepEvent id kCount 0 [recIdx p.img] (4 * p.groups) false 4)) ∧
  (∀ (t : Tile) (p : Prod) (pr : Product),
    let x := productTile t p pr
    x.st = .filling ∧ x.typed = true ∧ x.fmt = p.fmt ∧ x.vals = t.vals ∧ (t.typed = true → x.int = t.int) ∧ (t.typed = false → (x.int = true ↔ p.fmt = 3)) ∧
    (p.acc = false → x.nprod = 1 ∧ x.checked = p.ck ∧ x.mask = 0 ∧ x.owTrow = p.trow ∧ x.owM = p.rows ∧ x.prod = some pr) ∧
    (p.acc = true → 2 ≤ x.nprod ∧ x.prod = none ∧ x.checked = (t.checked && p.ck) ∧ x.mask = t.mask))) ∧
  ((∀ (ws xs : List Int), ws.length = xs.length →
    partialOf true (ws.map (fun w => ofInt w 0)) (xs.map (fun x => ofInt x 0)) = BitVec.ofInt 32 ((List.zipWith (· * ·) ws xs).foldl (· + ·) 0)) ∧
  (∀ (b : BitVec 512) (h k : Nat), k < 64 → (blockVals 3 b h).getD k .nan = ofInt (signedOf 8 (b.toNat / 256 ^ k % 256)) 0) ∧
  (∀ (p : Option Word) (cs : List Word), cs ≠ [] → chainOf true p cs = cs.foldl (· + ·) (p.getD 0)) ∧
  (∀ x y : Word, chainAdd true x y = x + y) ∧ (∀ (int : Bool) (c : Word), chainOf int none [c] = c))

/-- The check words at their issue (R207, R210 to R216): `ckloc` and `ckrd` write their records later and change no tile; `ckinj` arms an injection in
its tile and does nothing else to it; `ckfix` and `mrty` count an attempt of the strand, saturating at 255, and `mrty` clears valid, loc and fixed of
`cksyn` and runs the tile's product again. -/
def Obligations.CheckWords : Prop :=  ∀ (g : BitVec 4) (t : BitVec 2) (a b : BitVec 5) (s : State), guardOn s g = true → s.cur.drain = false →
    let r := curRow s
    let bk := s.cur.bank
    let id := (rowOf s r).nextMacro
    let x := tileOf (rowOf s r) t.toNat
    let img := rec0 s.cur
    let counted (n : BitVec 16) : Prop := n.toNat / 256 = (strandOf s bk).ckret.toNat / 256 ∧ n.toNat % 256 = min 255 ((strandOf s bk).ckret.toNat % 256 + 1)
    (encode (.ckloc g t a) = [s.cur.word] → ∃ v, exec (.ckloc g t a) s = .next v ∧ OnlyRow s v r ∧ OnlyEngines (rowOf s r) (rowOf v r) ∧
      (rowOf v r).tiles = (rowOf s r).tiles ∧ (rowOf v r).creels = (rowOf s r).creels ∧
      Posts s v (8 * pace s s.cur) (stepEvent id kNote 0 [] 0 false 4) ∧ Posts s v (9 * pace s s.cur) (stepEvent id kNote 1 [recBase img] 64 true 4)) ∧
    (encode (.ckrd g t a b) = [s.cur.word] → ∃ v, exec (.ckrd g t a b) s = .next v ∧ OnlyRow s v r ∧ OnlyEngines (rowOf s r) (rowOf v r) ∧
      (rowOf v r).tiles = (rowOf s r).tiles ∧ (rowOf v r).creels = (rowOf s r).creels ∧
      ∀ j, j < s.cur.rb.toNat % 256 →
        Posts s v ((4 + j) * pace s s.cur) (stepEvent id kOut j [recBase img + j * recStride img 1] 256 true 4)) ∧
    (encode (.ckinj g t b) = [s.cur.word] → ∃ v, exec (.ckinj g t b) s = .next v ∧ OnlyRow s v r ∧ OnlyEngines (rowOf s r) (rowOf v r) ∧ v.agenda = s.agenda ∧
      tileOf (rowOf v r) t.toNat = { x with inj := some (s.cur.rb.setWidth 24) } ∧ (∀ n, n ≠ t.toNat → tileOf (rowOf v r) n = tileOf (rowOf s r) n) ∧
      (rowOf v r).creels = (rowOf s r).creels) ∧
    (∀ i ∈ [Instr.ckfix g t, .mrty g t], encode i = [s.cur.word] → ∃ v, exec i s = .next v ∧ OnlyBankRow s v bk ∧ counted (strandOf v bk).ckret ∧
      SameRegisters (strandOf s bk) (strandOf v bk) ∧ (strandOf v bk).cp = (strandOf s bk).cp ∧ (strandOf v bk).st = (strandOf s bk).st) ∧
    (∀ pr, x.prod = some pr → encode (.mrty g t) = [s.cur.word] → ∃ v, exec (.mrty g t) s = .next v ∧
      (strandOf v bk).cksyn = (strandOf s bk).cksyn &&& 0x1FFFFFFFFFFFFFFF ∧
      ((prodOf pr.word pr.ctx).cout = false → (tileOf (rowOf v r) (prodOf pr.word pr.ctx).tile).st = .filling ∧
        (tileOf (rowOf v r) (prodOf pr.word pr.ctx).tile).checked = true)) ∧
    (∀ pr, x.prod = some pr → encode (.ckfix g t) = [s.cur.word] → ∃ v, exec (.ckfix g t) s = .next v ∧ (rowOf v r).tiles = (rowOf s r).tiles ∧
      (strandOf v bk).cksyn = (strandOf s bk).cksyn ∧
      Posts s v ((4 + 2 * (prodOf pr.word pr.ctx).chain) * pace s s.cur) (stepEvent id kWrite (synM (strandOf s bk).cksyn - (prodOf pr.word pr.ctx).trow) [] 0 false 4) ∧
      Posts s v ((8 + 2 * (prodOf pr.word pr.ctx).chain) * pace s s.cur) (stepEvent id kNote 0 [] 0 false 4))

/-! ## The X engine and messages (R259 to R265) -/

/-- `xcopy` and `xsend` (R244, R261, R263): source line j is read 2 + j kc after the issue, in the word's ordering class; `xcopy` writes destination
line j 3 + its source lines + j kc after it, under the mask of the bytes that the line gets, and the message of `xsend` leaves when its last line has
been read. -/
def Obligations.TransferWordsMoveTheirLines : Prop :=  ∀ (g : BitVec 4) (a b c : BitVec 5) (l : BitVec 4) (s : State), guardOn s g = true → s.cur.drain = false →
    let r := curRow s
    let id := (rowOf s r).nextMacro
    let src := recLines (rec0 s.cur)
    let dst := recLines (rec1 s.cur)
    let starts (i : Instr) (f : State → Prop) : Prop := encode i = [s.cur.word] → ∃ t, exec i s = .next t ∧ OnlyRow s t r ∧
      OnlyEngines (rowOf s r) (rowOf t r) ∧ (rowOf t r).tiles = (rowOf s r).tiles ∧ (rowOf t r).creels = (rowOf s r).creels ∧
      (∀ j x, src[j]? = some x → Posts s t (2 + j) (stepEventIn id xRead j [64 * x] 64 false 1 l.toNat [])) ∧ f t
    starts (.xcopy g a b c l) (fun t => ∀ j x, dst[j]? = some x → ∃ m, Posts s t (3 + src.length + j) (stepEventIn id xWrite j [64 * x] 64 true 2 l.toNat [m])) ∧
    starts (.xsend g a b l) (fun t => Posts s t (2 + src.length) (stepEventIn id xLeave 0 [] 0 false 0 l.toNat []))

/-- `xrecv` (R264): a message that its channel holds is consumed, and its lines are written from 2 kc on, in the word's ordering class, each under the
mask of the bytes that its record's elements occupy; one whose buffer fails its parity is lost, and the strand takes 0x32 (R380); with none, a timed strand's slack runs and a
loose strand waits for the channel. A message whose line count differs from the destination's raises 0x12. A receive whose slack runs out raises 0x13.
A message arrives (R264, R265): an empty channel holds it, unless a receive waits for it and consumes it; in timed mode its time as an orphan runs,
and one that finds its channel full, its receiver's kernel time running, or whose time runs out before it is consumed, raises 0x12. -/
def Obligations.MessagesReachTheirReceive : Prop :=
  ((∀ (g : BitVec 4) (a b c : BitVec 5) (l : BitVec 4) (s : State), guardOn s g = true → s.cur.drain = false → encode (.xrecv g a b c l) = [s.cur.word] →
    let bk := s.cur.bank
    let r := curRow s
    let id := (rowOf s r).nextMacro
    let chan := s.cur.rc.toNat % 8
    let dst := recLines (rec0 s.cur)
    let held := Sparse.find (strandOf s bk).chans chan
    (∀ x, held = some x → chanBad s bk chan = false → x.msg.lines.length = dst.length → ∃ t, exec (.xrecv g a b c l) s = .next t ∧ OnlyBankRow s t bk ∧
      (strandOf t bk).chans = (strandOf s bk).chans.drop chan ∧ SameRegisters (strandOf s bk) (strandOf t bk) ∧
      ∀ j y, dst[j]? = some y → Posts s t (2 + j) (stepEventIn id xWrite j [64 * y] 64 true 1 l.toNat [lineMask (rec0 s.cur) y])) ∧
    (∀ x, held = some x → chanBad s bk chan = true → exec (.xrecv g a b c l) s = .next (chanFault s bk chan)) ∧
    (∀ x, held = some x → chanBad s bk chan = false → x.msg.lines.length ≠ dst.length → (misfitRec s s.cur chan x.msg).cause = 0x12 ∧
      exec (.xrecv g a b c l) s = .next (misfit s 2 (.word s.cur.word) chan x)) ∧
    (held = none → timedNow s bk = true → ∃ t, exec (.xrecv g a b c l) s = .next t ∧ OnlyRow s t r ∧ OnlyEngines (rowOf s r) (rowOf t r) ∧
      Posts s t (s.cur.rb.toNat % 2 ^ 32) (.xrecvTimeout id)) ∧
    (held = none → timedNow s bk = false → ∃ t, exec (.xrecv g a b c l) s = .next t ∧ OnlyBankRow s t bk ∧ .receive chan ∈ (strandOf t bk).wait ∧
      SameRegisters (strandOf s bk) (strandOf t bk) ∧ (strandOf t bk).chans = (strandOf s bk).chans ∧ t.agenda = s.agenda)) ∧
  (∀ (id : Nat) (s : State), (recvRec s s.cur).cause = 0x13 ∧ (recvRec s s.cur).restartable = false ∧
    exec (.xrecvTimeout id) s = .next (lateFault (dropMacro s (curRow s) id) 5 (.ev (.xrecvTimeout id)) (recvRec s s.cur) []))) ∧
  ((∀ (m : Message) (s : State),
    (bankAt s m.grp m.gstack m.grow = none → exec (.messageArrival m) s = .next s) ∧
    (∀ b, bankAt s m.grp m.gstack m.grow = some b →
      (∀ x, Sparse.find (strandOf s b).chans m.chan = some x → timedMode (groupOf s m.grp) = true → bankRuns s b = true →
        (orphanRec s b (bankKc s b) m.chan m).cause = 0x12 ∧ exec (.messageArrival m) s = .next (strandFault s b (orphanRec s b (bankKc s b) m.chan m))) ∧
      (Sparse.find (strandOf s b).chans m.chan = none → openReceive s b m.chan = none →
        ∃ t n, exec (.messageArrival m) s = .next t ∧ OnlyBank s t b ∧ SameRegisters (strandOf s b) (strandOf t b) ∧
          (strandOf t b).cp = (strandOf s b).cp ∧ (strandOf t b).st = (strandOf s b).st ∧
          Sparse.find (strandOf t b).chans m.chan = some { serial := n, at_ := bankKc s b, msg := m } ∧
          (∀ q, q ≠ m.chan → Sparse.find (strandOf t b).chans q = Sparse.find (strandOf s b).chans q) ∧
          (timedMode (groupOf s m.grp) = true → ∃ e ∈ t.agenda, e.at_ = bankKc s b + 256 ∧ e.ctx.bank = b ∧ e.pay = .ev (.orphanMessageTimeout m.chan n))) ∧
      (∀ id x, Sparse.find (strandOf s b).chans m.chan = none → openReceive s b m.chan = some (id, x) → x.ctx.drain = false →
        m.lines.length = (recLines (rec0 x.ctx)).length →
        ∃ t, exec (.messageArrival m) s = .next t ∧ SameRegisters (strandOf s b) (strandOf t b) ∧ t.mem = s.mem ∧ (∀ j, j ≠ b → strandOf t j = strandOf s j) ∧
          ∀ j y, (recLines (rec0 x.ctx))[j]? = some y → ∃ e ∈ t.agenda, e.clk = ctxClk x.ctx ∧ e.at_ = timeOf s (ctxClk x.ctx) + (2 + j) ∧
            e.pay = .ev (stepEventIn id xWrite j [64 * y] 64 true 1 (stepClass x.ctx.word) [lineMask (rec0 x.ctx) y])))) ∧
  (∀ (chan n : Nat) (s : State), let b := s.cur.bank
    (∀ x, Sparse.find (strandOf s b).chans chan = some x → x.serial = n →
      (orphanRec s b (bankKc s b) chan x.msg).cause = 0x12 ∧
      exec (.orphanMessageTimeout chan n) s =
        .next (strandFault (setStrand s b { strandOf s b with chans := (strandOf s b).chans.drop chan }) b (orphanRec s b (bankKc s b) chan x.msg))) ∧
    ((∀ x, Sparse.find (strandOf s b).chans chan = some x → x.serial ≠ n) → exec (.orphanMessageTimeout chan n) s = .next s)))

/-! ## Tokens (R218 to R243) -/

/-- The other token words (R228, R230 to R236): each one's result lands 12 kc later in timed mode, and no sooner in any; a query samples in the kc
before. A take lets its slack run in timed mode; in loose mode it lands 12 kc after the hand-off's arrival, until which the strand waits. What a token
word does when its result lands (R231 to R236): a take makes the token the strand's, with a clean entry in its set; a split halves the token, under
new generations, its upper half in a free entry; a query lands what it sampled 1 kc later. A take whose slack has run out lands 12 kc later if the
hand-off has arrived, and else raises 0x13. -/
def Obligations.TokenWordsTakeEffectLater : Prop :=
  (∀ (g : BitVec 4) (a b : BitVec 5) (c : BitVec 4) (s : State), guardOn s g = true → s.cur.drain = false →
    let bk := s.cur.bank
    let id := s.cur.ra.toNat % 2 ^ 32
    let other := s.cur.rb.toNat % 2 ^ 32
    let lands (x : Instr) (early : Nat) (k : LandKind) : Prop := ∃ t d, exec x s = .next t ∧ OnlyAgenda s t ∧ 12 ≤ d ∧ (timedNow s bk = true → d = 12) ∧
      Posts s t (d - early) (.resultLand { kind := k, flags := 0 })
    lands (.tkshareRv g a b c) 0 (.tkShareRv id other) ∧ lands (.tkretSh g a c) 0 (.tkRetSh id) ∧
    lands (.tksplit g a b) 0 (.tkSplit id a.toNat b.toNat) ∧ lands (.tkjoin g a b) 0 (.tkJoin id other a.toNat b.toNat) ∧
    lands (.tkqry g a b c) 1 (.tkQry 0 id b.toNat c.toNat) ∧ lands (.tkqryBase g a b c) 1 (.tkQry 1 id b.toNat c.toNat) ∧
    lands (.tkqryAg g a b c) 1 (.tkQry 2 id b.toNat c.toNat) ∧
    lands (.tkmint g a b) 0 (.tkMint id b.toNat) ∧ lands (.tkmintNew g a b) 0 (.tkMintNew s.cur.ra b.toNat) ∧
    (∀ x share, (x, share) ∈ [(Instr.tktake g a b c, false), (Instr.tktakeSh g a b c, true)] →
      (timedNow s bk = true → ∃ t, exec x s = .next t ∧ OnlyAgenda s t ∧ Posts s t other (.tktakeTimeout id share)) ∧
      (timedNow s bk = false → handArrived s id (bankAgent s bk) share = true → exec x s = .next (landLater s 12 (.tkTaken id share) 0)) ∧
      (timedNow s bk = false → handArrived s id (bankAgent s bk) share = false → ∃ t, exec x s = .next t ∧ OnlyBank s t bk ∧ t.agenda = s.agenda ∧
        strandOf t bk = { strandOf s bk with wait := .take id share :: (strandOf s bk).wait }))) ∧
  ((∀ (id : Nat) (s : State), let b := s.cur.bank
    let i := tokKey s id
    let me := bankAgent s b
    handArrived s id me false = true →
      ∃ t, exec (.resultLand { kind := .tkTaken id false, flags := 0 }) s = .next t ∧ (tokenOf t i).holder = me ∧
        (tokenOf t i).st = (if (tokenOf s i).lender = noAgent then .owned else .lent) ∧ (tokenOf t i).gen = (tokenOf s i).gen ∧
        (∀ j, j ≠ i → tokenOf t j = tokenOf s j) ∧ SameRegisters (strandOf s b) (strandOf t b) ∧
        (strandOf t b).held = (strandOf s b).held ++
          [{ id := id, base := (tokenOf s i).base, size := (tokenOf s i).size, mode := .own, dirty := false, leaving := false, spad := false }]) ∧
  (∀ (id x y u : Nat) (h : HeldTok) (s : State), let b := s.cur.bank
    let i := tokKey s id
    let t0 := tokenOf s i
    heldEntry (strandOf s b).held id = some h → (freeEntry s).1 = some u → t0.st ≠ .free →
      ∃ t, exec (.resultLand { kind := .tkSplit id x y, flags := 0 }) s = .next t ∧ u ≠ i ∧
        tokenOf t i = { t0 with size := t0.size - 1, gen := nextTokGen t0.gen } ∧
        (tokenOf t u).base = t0.base + 2 ^ (t0.size - 1) ∧ (tokenOf t u).size = t0.size - 1 ∧ (tokenOf t u).st = t0.st ∧ (tokenOf t u).holder = t0.holder ∧
        (tokenOf t u).gen = nextTokGen (tokenOf s u).gen ∧ (∀ j, j ≠ i → j ≠ u → tokenOf t j = tokenOf s j) ∧
        (x ≠ 0 → x ≠ y → sreg (strandOf t b) x = BitVec.ofNat 64 (tokId t i)) ∧ (y ≠ 0 → sreg (strandOf t b) y = BitVec.ofNat 64 (tokId t u))) ∧
  (∀ (f id reg scope : Nat) (s : State), exec (.resultLand { kind := .tkQry f id reg scope, flags := 0 }) s =
    .next (landLater s 1 (.regs [.s reg (BitVec.ofNat 64 (queryValue s s.cur.bank f id scope))]) 0)) ∧
  (∀ (id : Nat) (share : Bool) (s : State),
    (handArrived s id (bankAgent s s.cur.bank) share = true → exec (.tktakeTimeout id share) s = .next (landLater s 12 (.tkTaken id share) 0)) ∧
    (handArrived s id (bankAgent s s.cur.bank) share = false → (takeRec s s.cur id).cause = 0x13 ∧ (takeRec s s.cur id).opsel = 11 ∧
      exec (.tktakeTimeout id share) s = .next (lateFault s 5 (.ev (.tktakeTimeout id share)) (takeRec s s.cur id) []))))

/-- The hand-off words (R228 to R230, R232): the token's entry in the strand's set is leaving, and the hand-off's H stands in the agenda, 12 kc later
or when the last write in flight to its region has performed; a share is counted at once. A hand-off's H and its arrival (R229 to R232, R451): at H a
token lent, passed or returned is in flight to its target, a lent one remembers its lender, and a share is granted; at its arrival it waits for its
taker, and one that returns is its lender's again. A hand-off of an id whose entry has moved on does nothing. -/
def Obligations.HandOffsChangeTheirToken : Prop :=
  ((∀ (g : BitVec 4) (a b : BitVec 5) (c : BitVec 4) (s : State), guardOn s g = true → s.cur.drain = false →
    let bk := s.cur.bank
    let id := s.cur.ra.toNat % 2 ^ 32
    let i := tokKey s id
    let hands (x : Instr) (u : State) (k : HandKind) (target : Nat) : Prop := ∃ t d, exec x s = .next t ∧ OnlyBank u t bk ∧
      SameRegisters (strandOf s bk) (strandOf t bk) ∧ (strandOf t bk).cp = (strandOf s bk).cp ∧ 12 ≤ d ∧
      (strandOf t bk).held = (strandOf s bk).held.map (fun y => if y.id = id ∧ k ≠ .share then { y with leaving := true } else y) ∧
      Posts s t d (.handoffRelease (Handoff.mk k id (bankAgent s bk) target (max c.toNat (partyScope s (bankAgent s bk) target)) (bankStack bk) (now s + d)))
    (∀ h, heldEntry (strandOf s bk).held id = some h →
      hands (.tklend g a b c) s .lend (s.cur.rb.toNat % 2 ^ 32) ∧ hands (.tklendPass g a b c) s .pass (s.cur.rb.toNat % 2 ^ 32) ∧
      hands (.tkret g a c) s .ret (tokenOf s i).lender ∧
      hands (.tkshare g a b c)
        (setToken s i { tokenOf s i with shares := (tokenOf s i).shares + 1, st := if (tokenOf s i).st = .owned then .shared else (tokenOf s i).st })
        .share (s.cur.rb.toNat % 2 ^ 32)) ∧
    (heldEntry (strandOf s bk).held id = none → ∀ x ∈ [Instr.tklend g a b c, .tklendPass g a b c, .tkret g a c], exec x s = .next s)) ∧
  (∀ (s : State) (h : HeldTok), latestWrite s s.cur.bank s.cur.pkc h + 1 ≤ now s + 12 → dirtyLines s (bankAgent s s.cur.bank) h = [] → handDelay s h = (12, s))) ∧
  (∀ (h : Handoff) (s : State), let i := tokKey s h.tok
    let t0 := tokenOf s i
    (tokCurrent s h.tok = false → exec (.handoffRelease h) s = .next s ∧ exec (.handoffArrival h) s = .next s) ∧
    (tokCurrent s h.tok = true → agPkg h.target = s.dev.pkg → agKind h.target ≠ 1 →
      ∃ t, exec (.handoffRelease h) s = .next t ∧ (∀ j, j ≠ i → tokenOf t j = tokenOf s j) ∧ (tokenOf t i).gen = t0.gen ∧
        (tokenOf t i).base = t0.base ∧ (tokenOf t i).size = t0.size ∧ (tokenOf t i).hscope = h.scope ∧
        (h.kind = .share → (tokenOf t i).grants = h.target :: t0.grants ∧ (tokenOf t i).st = t0.st) ∧
        (h.kind ≠ .share → (tokenOf t i).st = .inFlight ∧ (tokenOf t i).target = h.target ∧ (tokenOf t i).arrived = false ∧ ((tokenOf t i).ret = true ↔ h.kind = .ret)) ∧
        (h.kind = .lend → (tokenOf t i).lender = h.giver) ∧ (h.kind = .pass → (tokenOf t i).lender = noAgent)) ∧
    (tokCurrent s h.tok = true → agPkg h.target = s.dev.pkg → agKind h.target = 1 → h.kind = .lend →
      ∃ t, exec (.handoffRelease h) s = .next t ∧ (tokenOf t i).holder = h.target ∧ (tokenOf t i).st = (if h.giver = noAgent then .owned else .lent)) ∧
    (tokCurrent s h.tok = true → agPkg h.target = s.dev.pkg → t0.st = .inFlight → t0.target = h.target → agentGone s h.target = false →
      (h.kind = .lend ∨ h.kind = .pass → agKind h.target = 0 →
        (∀ b, agentBank s h.target = some b → WaitFor.take h.tok false ∉ (strandOf s b).wait) →
        exec (.handoffArrival h) s = .next (setToken s i { t0 with arrived := true })) ∧
      (h.kind = .ret → ∃ t, exec (.handoffArrival h) s = .next t ∧ (∀ j, j ≠ i → tokenOf t j = tokenOf s j) ∧
        tokenOf t i = { t0 with st := .owned, holder := h.target, lender := noAgent, target := noAgent, arrived := false, ret := false })))

/-! ## The B engine (R291 to R299) -/

/-- A B word at its engine (R296): slice i of its operands is read 32 + i slice times after the issue, and written at the end of its slice time
(`bsum` writes at the end); the word ends when its busy time is over. The results of its elements (R295): the exact result, wrapped into d's width or,
with the saturate bit, clamped to it. -/
def Obligations.BankWordsWorkSliceBySlice : Prop :=  (∀ (g : BitVec 4) (a b d : BitVec 5) (x u : BitVec 1) (c : BitVec 2) (n : BitVec 4) (s : State), guardOn s g = true → s.cur.drain = false →
    ∀ i ∈ [Instr.badd g a b d x u, .bsub g a b d x u, .bmul g a b d x u, .bmac g a b d x u, .bcmp g a b d x c, .blog g a b d n, .bsum g a d x u],
      encode i = [s.cur.word] →
      let r := curRow s
      let id := (rowOf s r).nextMacro
      let k := s.cur
      let ts := bTs k.word k
      ∃ t, exec i s = .next t ∧ OnlyRow s t r ∧ OnlyEngines (rowOf s r) (rowOf t r) ∧ (rowOf t r).tiles = (rowOf s r).tiles ∧
        (rowOf t r).creels = (rowOf s r).creels ∧ (macroAt t r id).map (·.word) = some k.word ∧
        (∀ j, j < bSlices (bRecA k) →
          Posts s t (32 + j * ts) (stepEvent id bRead j (sliceVas s k (bRecA k) j) 128 false 1) ∧
          (i ≠ .bsum g a d x u → Posts s t (32 + j * ts) (stepEvent id (bRead + 1) j (sliceVas s k (bRecB k) j) 128 false 2) ∧
            Posts s t (32 + j * ts + ts - 1) (stepEvent id bWrite j (sliceVas s k (bRecD k) j) 128 true 3))) ∧
        (i = .bsum g a d x u → ∀ j, j < bWidth (bRecD k) →
          Posts s t (32 + bSlices (bRecA k) * ts + j)
            (stepEventIn id bWrite j (sumVas s k (bSlices (bRecA k)) j) 128 true 3 0 (sumMasks k (bSlices (bRecA k))))) ∧
        Posts s t (bBusy k.word k - 1) (stepEvent id bEnd 0 [] 0 false 0)) ∧
  (∀ f wa wb wd x y z : Nat, 0 < wd →
    let sg := bitOf f 0
    let A := elemInt sg wa x
    let B := elemInt sg wb y
    let fits (r : Int) (v : Nat) : Prop :=
      (bitOf f 1 = false → (v : Int) = r % 2 ^ wd) ∧
      (bitOf f 1 = true → sg = false → (v : Int) = max 0 (min r (2 ^ wd - 1))) ∧
      (bitOf f 1 = true → sg = true → signedOf wd v = max (-(2 ^ (wd - 1))) (min r (2 ^ (wd - 1) - 1)))
    fits (A + B) (bankElem 1 f wa wb wd x y z) ∧ fits (A - B) (bankElem 2 f wa wb wd x y z) ∧ fits (A * B) (bankElem 3 f wa wb wd x y z) ∧
    fits (elemInt sg wd z + A * B) (bankElem 4 f wa wb wd x y z))

/-! ## Fences, realign, slots and barriers (R156 to R159, R250, R251, R344 to R355) -/

/-- `fence` (R251): for each class of its mask, later accesses perform no sooner than Fc; the other classes stay as they were. `realign` (R344, R345):
armed with its K and slack, every zone of the group stops at the end of kc K. `srdef` and `srkill` (R157 to R159): the record is read at t + 3 and
defines its slot under its next generation; a slot retired is no longer live. -/
def Obligations.FencesRealignAndSlots : Prop :=  (∀ (g : BitVec 4) (a b : BitVec 5) (c : BitVec 4) (m : BitVec 16) (s : State), guardOn s g = true → s.cur.drain = false →
    let bk := s.cur.bank
    (∃ t, exec (.fence g c m) s = .next t ∧ OnlyBank s t bk ∧ t.agenda = s.agenda ∧ SameRegisters (strandOf s bk) (strandOf t bk) ∧
      now s ≤ fenceKc s m.toNat ∧
      (∀ i, i < 16 → m.getLsbD i = true → (strandOf t bk).fences.getD i 0 = max ((strandOf s bk).fences.getD i 0) (fenceKc s m.toNat)) ∧
      (∀ i, i < 16 → m.getLsbD i = false → (strandOf t bk).fences.getD i 0 = (strandOf s bk).fences.getD i 0)) ∧
    (∃ t, exec (.realign g a b c) s = .next t ∧ OnlyBank s t bk ∧ SameRegisters (strandOf s bk) (strandOf t bk) ∧
      (strandOf t bk).realign = some (s.cur.ra.toNat, s.cur.rb.toNat % 2 ^ 32, s.cur) ∧
      ∀ y ∈ (groupOf s s.cur.grp).zones, ∃ e ∈ t.agenda, e.clk = .kern s.cur.grp y.z ∧ e.at_ = max s.cur.ra.toNat y.kc ∧ e.pay = .ev (.realignStop s.cur.grp y.z)) ∧
    (∃ t, exec (.srdef g a b) s = .next t ∧ OnlyAgenda s t ∧ Posts s t 3 (.accessPerform
      { op := .srdef (s.cur.rb.toNat % 4096) b.toNat, va := s.cur.ra.toNat, pa := 0, len := 64, cls := 0, lag := 3, sel := 1 })) ∧
    exec (.srkill g a) s = .next (landLater s 1 (.srkill s.cur.ra) 0)) ∧
  (∀ (slot reg : Nat) (img : ShapeImg) (s : State), reg ≠ 0 →
    let bk := s.cur.bank
    let z := bankStack bk
    let g := (strandOf s bk).grp
    ∃ t, exec (.resultLand { kind := .srdef slot img reg, flags := 0 }) s = .next t ∧
      slotOf t z g slot = { live := true, gen := nextGen (slotOf s z g slot).gen, img := img, defAt := some s.hkc } ∧
      sreg (strandOf t bk) reg = BitVec.ofNat 64 (nextGen (slotOf s z g slot).gen * 4096 + slot)) ∧
  (∀ (h : Dword) (s : State),
    let bk := s.cur.bank
    let z := bankStack bk
    let g := (strandOf s bk).grp
    let j := h.toNat % 4096
    (killStale s bk h = false → ∃ t, exec (.resultLand { kind := .srkill h, flags := 0 }) s = .next t ∧ (slotOf t z g j).live = false ∧
      (slotOf t z g j).gen = nextGen (slotOf s z g j).gen ∧ t.banks = s.banks) ∧
    (killStale s bk h = true → (killRec s s.cur h).cause = 0x0C ∧
      exec (.resultLand { kind := .srkill h, flags := 0 }) s =
        .next (lateFault s 0 (.ev (.resultLand { kind := .srkill h, flags := 0 })) (killRec s s.cur h) [])))

/-- The barrier words (R353, R354): `barm` and `barm.free` reach the hub λ later, within the slip that R342 allows; `barr` arrives when the strand's
writes have performed, 12 kc after its issue at least; `barr.q` lands the mirror's phase 12 kc later, and one of another package's barrier a free bit
(log entry 150); a timed `bwait` meets its deadline, and a loose one waits, and ends 1 kc later where it is satisfied already; one on another
package's barrier waits for what its hub answers (log entry 150). Barriers at the hub (R348 to R355): arming a free barrier sets its counts; an
arrival counts one and takes its credit; the one that completes both trips the barrier, which flips its phase and starts anew. A message that the
barrier's state refuses, or an event for another context's, is logged and changes no barrier, and a package it came from hears of it (R349); one
event or credit too many makes it faulted. A notice sets its stack's mirror. -/
def Obligations.BarriersCountAndTrip : Prop :=
  ((∀ (g : BitVec 4) (a b : BitVec 5) (c : BitVec 4) (s : State), guardOn s g = true → s.cur.drain = false →
    let bk := s.cur.bank
    let z := bankStack bk
    let x := bankGroup s bk
    let i := barKey s s.cur.ra
    let tellsHub (v : Instr) (m : BarmMsg) : Prop := ∃ t, exec v s = .next t ∧ OnlyAgenda s t ∧ s.agenda <+: t.agenda ∧
      ∃ e ∈ t.agenda, e.clk = .hub ∧ s.hkc < e.at_ ∧ s.hkc + lam s z 8 ≤ e.at_ + slip s (9 * z + 8) s.hkc (s.hkc + lam s z 8) false ∧
        e.at_ ≤ s.hkc + lam s z 8 + slip s (9 * z + 8) s.hkc (s.hkc + lam s z 8) false ∧ e.pay = .ev (.barmArrival m)
    tellsHub (.barm g a b) { free := false, idx := s.cur.ra.toNat % 4096, ctx := x.ctx, kern := x.kern, n := s.cur.rb.toNat % 2 ^ 16,
                             bytes := s.cur.rb.toNat / 2 ^ 16 % 2 ^ 40, sig := s.cur.ra.getLsbD 12, ctr := s.cur.ra.toNat / 2 ^ 13 % 2 ^ 22 } ∧
    tellsHub (.barmFree g a) { free := true, idx := s.cur.ra.toNat % 4096, ctx := x.ctx, kern := x.kern, n := 0, bytes := 0, sig := false, ctr := 0 } ∧
    (∃ t d, exec (.barr g a c) s = .next t ∧ OnlyAgenda s t ∧ 12 ≤ d ∧ latestAnyWrite s bk s.cur.pkc < now s + d ∧
      Posts s t d (.resultLand { kind := .barArrive (s.cur.ra.toNat / 4096 % 16) (s.cur.ra.toNat % 4096), flags := 0 })) ∧
    exec (.barrQ g a b c) s = .next (landLater s 12 (.barPhase i b.toNat) 0) ∧
    (4096 ≤ i → ∃ t, exec (.bwait g a b c) s = .next t ∧ OnlyBank s t bk ∧ SameRegisters (strandOf s bk) (strandOf t bk) ∧
      .barrier (waitKey s s.cur) (mirrorOf s z (waitKey s s.cur)).phase (mirrorOf s z (waitKey s s.cur)).trips s.cur.pkc s.cur.waddr ∈ (strandOf t bk).wait ∧
      ∃ e ∈ t.agenda, e.clk = .hub ∧ s.hkc < e.at_ ∧ ∃ n, e.pay = .ev (.barrierNotice n) ∧ n.stack = z ∧ n.idx = waitKey s s.cur ∧ n.state ∈ [3, 4]) ∧
    (i < 4096 → timedNow s bk = true → ∃ t, exec (.bwait g a b c) s = .next t ∧ OnlyAgenda s t ∧
      Posts s t (s.cur.rb.toNat % 2 ^ 32) (.bwaitDeadline i (mirrorOf s z i).trips)) ∧
    (i < 4096 → timedNow s bk = false → ∃ t, exec (.bwait g a b c) s = .next t ∧ OnlyBank s t bk ∧ SameRegisters (strandOf s bk) (strandOf t bk) ∧
      .barrier i (s.cur.rb.getLsbD 32) (mirrorOf s z i).trips s.cur.pkc s.cur.waddr ∈ (strandOf t bk).wait ∧
      ((mirrorOf s z i).phase ≠ s.cur.rb.getLsbD 32 → Posts s t 1 (.resultLand { kind := .barPassed i, flags := 0 })) ∧
      ((mirrorOf s z i).phase = s.cur.rb.getLsbD 32 → t.agenda = s.agenda))) ∧
  (∀ (i reg : Nat) (s : State), let bk := s.cur.bank
    ∃ t, exec (.resultLand { kind := .barPhase i reg, flags := 0 }) s = .next t ∧ OnlyBankRow s t bk ∧
      rowOf t (bankRow bk) = { rowOf s (bankRow bk) with wlog := (rowOf t (bankRow bk)).wlog } ∧
      (reg = 0 → sreg (strandOf t bk) reg = 0) ∧ (reg ≠ 0 → 4096 ≤ i → sreg (strandOf t bk) reg = 0 ∨ sreg (strandOf t bk) reg = 1) ∧
      (reg ≠ 0 → i < 4096 → sreg (strandOf t bk) reg = if (mirrorOf s (bankStack bk) i).phase then 1 else 0))) ∧
  ((∀ (m : BarmMsg) (s : State), let x := barrierOf s m.idx
    (m.free = false → x.state = 0 → ∃ t, exec (.barmArrival m) s = .next t ∧ OnlyBarrier s t m.idx ∧ barrierOf t m.idx =
      { state := 1, phase := false, pending := m.bytes, arr := 0, ctx := m.ctx, n := m.n, bytes := m.bytes, sig := m.sig, c := m.ctr, trips := 0, kern := m.kern }) ∧
    (m.free = true → x.state ≠ 0 → ∃ t, exec (.barmArrival m) s = .next t ∧ OnlyBarrier s t m.idx ∧ (barrierOf t m.idx).state = 0) ∧
    ((m.free = true ↔ x.state = 0) → s.cur.pkc = 0 → s.cur.word = 0 → exec (.barmArrival m) s = .next (logRec s 3 1 0 m.ctx m.idx none))) ∧
  (∀ (e : BarEvent) (s : State), let x := barrierOf s e.idx
    (e.idx = 0 → exec (.barrierEvent e) s = .next s) ∧
    (e.idx ≠ 0 → x.state ∈ [0, 4] ∨ x.ctx ≠ e.ctx → exec (.barrierEvent e) s =
      .next (sendRefusal (logRec s 3 1 0 e.ctx (e.idx + e.credit % 2 ^ 40 * 2 ^ 16) none) e) ∧ (e.back = 0 → ∀ u, sendRefusal u e = u)) ∧
    (e.idx ≠ 0 → x.state ∉ [0, 4] → x.ctx = e.ctx →
      (x.pending < e.credit ∨ x.arr = x.n → ∃ t, exec (.barrierEvent e) s = .next t ∧ barrierOf t e.idx = { x with state := 4 } ∧ t.mem = s.mem ∧
        ∀ j, j ≠ e.idx → barrierOf t j = barrierOf s j) ∧
      (e.credit ≤ x.pending → x.arr ≠ x.n → (x.arr + 1 ≠ x.n ∨ x.pending ≠ e.credit) →
        ∃ t, exec (.barrierEvent e) s = .next t ∧ OnlyBarrier s t e.idx ∧ barrierOf t e.idx = { x with state := 2, arr := x.arr + 1, pending := x.pending - e.credit }) ∧
      (x.arr + 1 = x.n → x.pending = e.credit →
        ∃ t, exec (.barrierEvent e) s = .next t ∧
          barrierOf t e.idx = { x with state := 3, phase := !x.phase, trips := x.trips + 1, arr := 0, pending := x.bytes } ∧
          (∀ j, j ≠ e.idx → barrierOf t j = barrierOf s j) ∧ (x.sig = false → OnlyBarrier s t e.idx)))) ∧
  (∀ (n : BarNotice) (s : State), timedWaits s n.stack n.idx = [] → looseWaits s n.stack n.idx = [] →
    ∃ t, exec (.barrierNotice n) s = .next t ∧ mirrorOf t n.stack n.idx = { state := n.state, ctx := n.ctx, phase := n.phase, trips := n.trips } ∧
      t = { s with agenda := t.agenda, stackTab := t.stackTab } ∧ (∀ z i, (z, i) ≠ (n.stack, n.idx) → mirrorOf t z i = mirrorOf s z i)) ∧
  (∀ (i k : Nat) (s : State),
    (deadlineMet s s.cur i k = true → exec (.bwaitDeadline i k) s = .next s) ∧
    (deadlineMet s s.cur i k = false → (waitRec s s.cur i 0x13).cause = 0x13 ∧ (waitRec s s.cur i 0x13).opsel = 12 ∧
      exec (.bwaitDeadline i k) s = .next (lateFault s 5 (.ev (.bwaitDeadline i k)) (waitRec s s.cur i 0x13) []))))

/-! ## Packets, queues of engines, jobs (R55 to R65, R162, R163, R253 to R273, R296) -/

/-- PACKET_HEADER (R56, R57, R62 to R65, R101): a packet that passes its checks sends each of its words that is not guarded off to its engine, C words
in its own kc and the others 1 (S), 2 (X), 3 (V) or at least 4 (M, B) kc later; unless a word of it steers control, the packet that follows, or the
back edge of a loop that ends here, is fetched next. A packet that fails has no effect, and its strand takes the failing check's fault; one that must
wait waits. -/
def Obligations.PacketsSendTheirWords : Prop :=  ∀ (i : BitVec 8) (n : BitVec 3) (j : BitVec 13) (s : State),
    let b := s.cur.bank
    let hdr := (strandOf s b).cp
    let verdict := validate s b hdr n.toNat (i.toNat + 256 * j.toNat)
    (∀ c f, verdict = .fault c f → (dispatchRec s c f).cause = f.cause ∧ exec (.packetHeader i n j) s = .next (dispatchFault s b c f)) ∧
    (verdict = .hold → exec (.packetHeader i n j) s = .next (holdPacket s b)) ∧
    (∀ ws, verdict = .go ws → ∃ t, exec (.packetHeader i n j) s = .next t ∧
      (∀ k, SameRegisters (strandOf s k) (strandOf t k)) ∧ SameMemory s t ∧ t.tokens = s.tokens ∧ t.groups = s.groups ∧ t.stackTab = s.stackTab ∧
      (∀ p c, (p, c) ∈ ws → wordEng p.word ∈ [0, 1, 3, 4] → ∃ e ∈ t.agenda, e.clk = ctxClk c ∧
        e.at_ = c.pkc + (if wordEng p.word = 0 then 0 else if wordEng p.word = 4 then 1 else if wordEng p.word = 3 then 2 else 3) ∧ e.pay = .word p.word) ∧
      (∀ p c, (p, c) ∈ ws → wordEng p.word = 2 → ∃ e ∈ t.agenda, e.ctx = c ∧ c.pkc + 4 ≤ e.at_ ∧
        e.pay = .ev (.mQueueIssue (bankRow c.bank) (groupOf s c.grp).win)) ∧
      (∀ p c, (p, c) ∈ ws → wordEng p.word = 5 → ∃ e ∈ t.agenda, e.ctx = c ∧ c.pkc + 4 ≤ e.at_ ∧ e.pay = .ev (.bQueueIssue (bankRow c.bank))) ∧
      ((∃ x ∈ ws, steers x.1.ins = true) → (strandOf t b).cp = hdr) ∧
      ((∀ x ∈ ws, steers x.1.ins = false) → (strandOf t b).cp = (loopBack (strandOf s b).loops (hdr + 4 * (1 + n.toNat))).1 ∧
        (strandOf t b).loops = (loopBack (strandOf s b).loops (hdr + 4 * (1 + n.toNat))).2 ∧ ∃ e ∈ t.agenda, e.pay = .fetch b ∧ (packetCtx s b hdr n.toNat).pkc < e.at_))

/-- M_QUEUE_ISSUE and B_QUEUE_ISSUE (R162, R163, R296): the word at the head of its row's queue that may issue leaves the queue for its engine in this
kc; one that may not waits a kc more; a product whose rectangle does not issue as one faults. CHAIN_PARTIAL_ARRIVAL (R181, R182): the edge buffer
takes a partial, and one for an entry in use raises 0x12 where kernel time runs. -/
def Obligations.EngineQueuesIssueInOrder : Prop :=  (∀ (row win : Nat) (q : QWord) (s : State), let c := s.cur
    let r := rowOf s row
    headWord r c = some q →
      (mMayIssue s q.word c r (now s) = true → rectFault s q (now s) = none → ∃ t, exec (.mQueueIssue row win) s = .next t ∧ OnlyRow s t row ∧
        rowOf t row = { r with mq := (rowOf t row).mq, foq := (rowOf t row).foq } ∧ (∀ y ∈ (rowOf t row).mq ++ (rowOf t row).foq, y.ctx ≠ c) ∧
        s.agenda <+: t.agenda ∧ ∃ e ∈ t.agenda, e.clk = ctxClk c ∧ e.at_ = now s ∧ e.pay = .word c.word ∧ e.ctx.bank = c.bank ∧ e.ctx.arg = now s) ∧
      (mMayIssue s q.word c r (now s) = false → ∃ t, exec (.mQueueIssue row win) s = .next t ∧ OnlyRow s t row ∧ (rowOf t row).tiles = r.tiles ∧
        ∃ e ∈ t.agenda, e.clk = ctxClk c ∧ e.at_ = now s + 1 ∧ e.ctx = c ∧ e.pay = .ev (.mQueueIssue row win)) ∧
      (∀ f, mMayIssue s q.word c r (now s) = true → rectFault s q (now s) = some f → f.cause ∈ [0x12, 0x13] ∧
        exec (.mQueueIssue row win) s =
          .next (lateFault (setRow (killRect s q (now s)) row (unqueue (rowOf (killRect s q (now s)) row) c)) 2 (.ev (.mQueueIssue row win)) f []))) ∧
  (∀ (row : Nat) (q : QWord) (s : State), let c := s.cur
    let r := rowOf s row
    r.bq.head? = some q → q.ctx = c →
      (bankBusy r c = false → ∃ t, exec (.bQueueIssue row) s = .next t ∧ OnlyRow s t row ∧ rowOf t row = { r with bq := r.bq.tail } ∧
        s.agenda <+: t.agenda ∧ ∃ e ∈ t.agenda, e.clk = ctxClk c ∧ e.at_ = now s ∧ e.pay = .word c.word) ∧
      (bankBusy r c = true → ∃ t, exec (.bQueueIssue row) s = .next t ∧ OnlyRow s t row ∧
        ∃ e ∈ t.agenda, e.clk = ctxClk c ∧ e.at_ = now s + 1 ∧ e.ctx = c ∧ e.pay = .ev (.bQueueIssue row))) ∧
  (∀ (p : Partial) (s : State),
    (∀ b, rowBank s p.grp p.row = some b → Sparse.find (rowOf s p.row).edge p.entry = none →
      ∃ l, exec (.chainPartialArrival p) s =
        .next (setRow s p.row { rowOf s p.row with edge := (rowOf s p.row).edge.put p.entry p.vals, arrBad := l }) ∧ ((rowOf s p.row).arrBad = [] → l = [])) ∧
    (∀ b v, rowBank s p.grp p.row = some b → Sparse.find (rowOf s p.row).edge p.entry = some v → bankRuns s b = true →
      (edgeRec s b p.entry).cause = 0x12 ∧ exec (.chainPartialArrival p) s = .next (strandFault s b (edgeRec s b p.entry))) ∧
    (rowBank s p.grp p.row = none → exec (.chainPartialArrival p) s = .next s))

/-- `xjob` and `xjobf` (R268, R270): the card captured becomes a job of its scheduler, ready where no live job's regions meet its own, and the job's
agent id lands in sb 2 kc later. JOB_PACKET (R320): a card that passes its checks becomes a job of the hub's scheduler, submitted by the host agent;
one that fails stops its queue. Jobs run (R253, R270 to R272): a ready job that its scheduler chooses makes its accesses, and completes later, parks
with the writes that it has left, or faults; one parked tries again, one that must wait is looked at again in the next hub kc, and a refresh slot
holds the accesses of either until it is over (R376). A job that completes credits its barrier, gives up its slot, and the jobs that waited for it
alone are ready. -/
def Obligations.JobsAreSubmittedAndComplete : Prop :=
  ((∀ (g : BitVec 4) (a b : BitVec 5) (s : State), guardOn s g = true → s.cur.drain = false →
    let bk := s.cur.bank
    let k := cardOf s.cur
    let sched := cardSched k (bankStack bk)
    let key := sched * 64 + freeSlot s sched
    ∀ i ∈ [Instr.xjob g a b, .xjobf g a b], ∃ t, exec i s = .next t ∧
      (∃ j, Sparse.find t.jobs key = some j ∧ j.card = k ∧ j.submitter = bankAgent s bk ∧ j.agent = jobAgent s key ∧ j.serial = s.nextJob ∧
        j.edges = edgesOf s sched k ∧ (j.st = if edgesOf s sched k = [] then .ready else .queued)) ∧
      (∀ n, n ≠ key → Sparse.find t.jobs n = Sparse.find s.jobs n) ∧ t.nextJob = s.nextJob + 1 ∧ SameRegisters (strandOf s bk) (strandOf t bk) ∧
      (∀ n, n ≠ bk → strandOf t n = strandOf s n) ∧ SameMemory s t ∧ t.tokens = s.tokens ∧ t.rows = s.rows ∧
      Posts s t 2 (.resultLand { kind := .regs [.s b.toNat (BitVec.ofNat 64 (jobAgent s key))], flags := 0 })) ∧
  (∀ s : State, let q := s.cur.arg
    let a := fieldAt s (headAddr s q) 8 8
    let k : BitVec 1024 := BitVec.ofNat 1024 (fieldAt s a 0 128)
    (∀ f, jobPacketFail s q a k = some f → exec .jobPacket s = .next (stopQueue s q 3 f.2 f.1 0)) ∧
    (jobPacketFail s q a k = none → (queueOf s q).ctx < 256 → ∃ t j, exec .jobPacket s = .next t ∧ Sparse.find t.jobs (512 + freeSlot s 8) = some j ∧ j.card = k ∧
      j.submitter = hostAgent s (queueOf s q).ctx ∧ j.serial = s.nextJob ∧ j.sched = 8 ∧
      ∀ n, n ≠ 512 + freeSlot s 8 → Sparse.find t.jobs n = Sparse.find s.jobs n))) ∧
  ((∀ (n : Nat) (j : Job) (s : State), Sparse.find s.jobs n = some j →
    (j.st ≠ .ready → ¬(j.st = .running ∧ j.held = true) → exec (.jobStart n) s = .next s) ∧ (j.st ≠ .parked → exec (.jobUnpark n) s = .next s) ∧ (j.st ≠ .running → exec (.jobComplete n) s = .next s) ∧
    (j.st = .ready → startHeld s j = true ∨ chosen s n j = false → exec (.jobStart n) s = .next (postJob s 1 (.jobStart n))) ∧
    (jobHold s j ≠ 0 →
      (j.st = .ready ∧ startHeld s j = false ∧ chosen s n j = true ∨ j.st = .running ∧ j.held = true → exec (.jobStart n) s =
        .next (postJob { s with jobs := s.jobs.put n { j with st := .running, held := true } } (jobHold s j) (.jobStart n))) ∧
      (j.st = .parked → exec (.jobUnpark n) s = .next (postJob s (jobHold s j) (.jobUnpark n)))) ∧
    (∀ i, (i = .jobStart n ∧ (j.st = .ready ∧ startHeld s j = false ∧ chosen s n j = true ∨ j.st = .running ∧ j.held = true)) ∨
        (i = .jobUnpark n ∧ j.st = .parked) → jobHold s j = 0 →
      (∀ u d x, runJob s n j = .runs u d → Sparse.find u.jobs n = some x → ∃ t k, exec i s = .next t ∧ t.mem = u.mem ∧
        Sparse.find t.jobs n = some { x with st := .running, todo := [], held := false } ∧ ∃ e ∈ t.agenda, e.clk = .hub ∧ e.at_ = u.hkc + (1 + d + k) ∧ e.pay = .ev (.jobComplete n)) ∧
      (∀ u l x, runJob s n j = .parks u l → Sparse.find u.jobs n = some x → ∃ t, exec i s = .next t ∧ t.mem = u.mem ∧
        Sparse.find t.jobs n = some { x with st := .parked, todo := l, held := false } ∧
        ∃ e ∈ t.agenda, e.clk = .hub ∧ e.at_ = u.hkc + 1 ∧ e.pay = .ev (.jobUnpark n)) ∧
      (∀ u c x a, runJob s n j = .faults u c x a → (jobRec u j c x a).cause = c ∧ exec i s = .next (faultJob u n j c x a)))) ∧
  (∀ (n : Nat) (j : Job) (s : State), Sparse.find s.jobs n = some j → j.st = .running → Sparse.wf s.jobs = true → cardNtok j.card = 0 → cardFo j.card = false →
    ∃ t, exec (.jobComplete n) s = .next t ∧ Sparse.find t.jobs n = none ∧ SameMemory s t ∧ t.banks = s.banks ∧
      (∃ e ∈ t.agenda, e.clk = .hub ∧ ∃ v, e.pay = .ev (.barrierEvent v) ∧ v.idx = cardBar j.card ∧ v.credit = cardCredit j.card ∧ v.ctx = j.ctx) ∧
      ∀ m x, m ≠ n → Sparse.find s.jobs m = some x → (j.serial ∉ x.edges → Sparse.find t.jobs m = some x) ∧
        (x.edges = [j.serial] → x.st = .queued → Sparse.find t.jobs m = some { x with edges := [], st := .ready } ∧
          ∃ e ∈ t.agenda, e.clk = .hub ∧ e.at_ = s.hkc ∧ e.pay = .ev (.jobStart m))))

/-! ## Strands and groups (R82 to R93, R307, R343 to R345, R369 to R373, R452) -/

/-- A freeze and its end (R343): the zone in which it begins stops at once, its strands freeze, and notices go to the group's other zones that run;
with the last cause of a stop gone, the hub releases the group while a strand of it goes on, and every zone resumes the same number of frames after
it stopped. While a cause remains, FREEZE_RELEASE does nothing. -/
def Obligations.FreezesStopAndRelease : Prop :=  (∀ (s : State) (g z : Nat) (why : StopFor), let x := groupOf s g
    let t := freezeGroup s g z why
    (groupOf t g).stops = why :: x.stops ∧ (∀ y ∈ (groupOf t g).zones, y.z = z → y.go = false) ∧
    (∀ y ∈ x.zones, y.z ≠ z → y.go = true → ∃ e ∈ t.agenda, e.clk = .hub ∧ e.at_ = s.hkc + lam s z 8 + lam s 8 y.z ∧ e.pay = .stop g y.z) ∧
    (∀ b, (strandOf s b).grp = g → bankStack b = z → (strandOf s b).st = .running →
      strandOf t b = { strandOf s b with st := .frozen, prev := .running }) ∧
    (∀ b, (strandOf s b).grp ≠ g ∨ bankStack b ≠ z → strandOf t b = strandOf s b)) ∧
  (∀ (s : State) (g z : Nat) (why : StopFor), (groupOf s g).stops = [why] → let t := endStop s g z why
    (groupOf t g).stops = [] ∧ t.banks = s.banks ∧ ∃ e ∈ t.agenda, e.clk = .hub ∧ e.at_ = s.hkc + lam s z 8 ∧ e.pay = .ev (.freezeRelease g)) ∧
  (∀ (g : Nat) (s : State), let x := groupOf s g
    (x.stops ≠ [] → exec (.freezeRelease g) s = .next s) ∧
    (x.stops = [] → x.restart = none → allStrands s g (fun y => y == .done || y == .yielded) = false → (∀ e ∈ s.agenda, ∀ z, e.pay ≠ .stop g z) →
      ∃ t p, exec (.freezeRelease g) s = .next t ∧ 1 ≤ p ∧
        (groupOf t g).zones = x.zones.map (fun y => if y.go then y else { y with resN := some (y.stopN + p) }) ∧
        (x.st = .frozen → (groupOf t g).st = .running) ∧ t.banks = s.banks))

/-- Waits, interrupts, timers and the debugger (R83, R92, R370): the end of a wait at issue lets the held packet issue; an armed timer and a message
of the runtime make an interrupt pending with its detail; a halted strand's group stands, and the strand takes its state back at its resumption, a
running one to stand until its group is released; a banked-out strand whose page is in takes its core back, which issues its packets 4 kc later;
PAGER_RELEASE brings the page in once no refresh slot holds its move (R376), and lets the strands that waited for it go on. -/
def Obligations.WaitsInterruptsAndTheDebugger : Prop :=  (∀ (b : Nat) (s : State), let t0 := strandOf s b
    ∃ t, exec (.looseWaitEnd b) s = .next t ∧ OnlyBank s t b ∧ SameRegisters t0 (strandOf t b) ∧ (strandOf t b).cp = t0.cp ∧
      (strandOf t b).wait = t0.wait.filter (fun w => w != .issue) ∧
      (t0.st = .waiting → (∀ w ∈ t0.wait, w = .issue) → (strandOf t b).st = (if bankRuns s b then .running else .frozen) ∧
        (bankRuns s b = false → (strandOf t b).prev = .running) ∧ ∃ e ∈ t.agenda, e.pay = .fetch b ∧ e.clk = ctxClk e.ctx ∧ e.ctx.bank = b)) ∧
  (∀ (b sub detail : Nat) (s : State), let t0 := strandOf s b
    let t := postInterrupt s b sub detail
    (t0.st ∈ [.unloaded, .yielded, .done, .failed] → t = s) ∧
    (t0.st ∉ [.unloaded, .yielded, .done, .failed] → Sparse.find (strandOf t b).pend sub = some (detail % 2 ^ 32) ∧
      (∀ k, k ≠ sub → Sparse.find (strandOf t b).pend k = Sparse.find t0.pend k) ∧ SameRegisters t0 (strandOf t b) ∧ (strandOf t b).st = t0.st ∧
      (∀ j, j ≠ b → strandOf t j = strandOf s j) ∧ SameMemory s t)) ∧
  (∀ (b n : Nat) (s : State), let t0 := strandOf s b
    exec (.runtimeMessagePost b n) s = .next (postInterrupt s b 2 n) ∧
    (∃ t, exec (.timerArm b n) s = .next t ∧ OnlyBank s t b ∧ strandOf t b = { t0 with timer := some n } ∧
      (t0.st ≠ .unloaded → ∃ e ∈ t.agenda, e.clk = .kern t0.grp (bankStack b) ∧ e.at_ = max n (bankKc s b) ∧ e.pay = .ev (.interruptTimerExpiry b))) ∧
    (∀ k, t0.timer = some k → k ≤ bankKc s b → exec (.interruptTimerExpiry b) s = .next (postInterrupt (setStrand s b { t0 with timer := none }) b 1 k)) ∧
    ((∀ k, t0.timer = some k → bankKc s b < k) → exec (.interruptTimerExpiry b) s = .next s)) ∧
  (∀ s : State, let b := s.cur.arg
    let t0 := strandOf s b
    (t0.st ∈ [.unloaded, .failed, .halted] → exec .debuggerHalt s = .next s) ∧
    (t0.st ∉ [.unloaded, .failed, .halted] → ∃ t, exec .debuggerHalt s = .next t ∧
      strandOf t b = { t0 with st := .halted, prev := if t0.st = .frozen then t0.prev else t0.st } ∧
      .debugger ∈ (groupOf t t0.grp).stops ∧ ∀ y ∈ (groupOf t t0.grp).zones, y.z = bankStack b → y.go = false) ∧
    (t0.st ≠ .halted → exec .debuggerResume s = .next s) ∧
    (t0.st = .halted → ∃ t, exec .debuggerResume s = .next t ∧
      strandOf t b = { t0 with st := if t0.prev = .running then .frozen else t0.prev, stale := false,
                               prev := if t0.prev = .bankedOut then (if pageAway s b then .waiting else .ready) else t0.prev } ∧
      (∀ j, j ≠ b → strandOf t j = strandOf s j) ∧ (groupOf t t0.grp).stops = eraseStop (groupOf s t0.grp).stops .debugger ∧
      (t0.prev = .waiting → t0.ie = true → t0.trap = false →
        ∃ e ∈ t.agenda, e.clk = .kern t0.grp (bankStack b) ∧ e.at_ = bankKc s b ∧ e.pay = .ev (.interruptTaken b)))) ∧
  (∀ (b : Nat) (s : State), let t0 := strandOf s b
    let r := bankRow b
    (t0.st ≠ .bankedOut ∨ t0.prev ≠ .ready → exec (.bankedOutReturn b) s = .next s) ∧
    (t0.st = .bankedOut → t0.prev = .ready → ∃ t, exec (.bankedOutReturn b) s = .next t ∧ strandOf t b = { t0 with st := .frozen, prev := .running } ∧
      (rowOf t r).run = b % 2 ∧ (rowOf t r).runFrom = (stackOf s (bankStack b)).zkc + 4 ∧
      (∀ j, j ≠ r → rowOf t j = rowOf s j) ∧ SameMemory s t)) ∧
  (∀ (n : Nat) (s : State),
    (Sparse.find s.pages n = none → exec (.pagerRelease n) s = .next s) ∧
    (∀ j, Sparse.find s.pages n = some j → moveHeld s j ≠ 0 → exec (.pagerRelease n) s = .next (postHub s (moveHeld s j) (.pagerRelease n))) ∧
    (∀ j f, Sparse.find s.pages n = some j → Sparse.find s.frames j.frame = some f → moveHeld s j = 0 →
      let u := pageIn { s with pages := s.pages.drop n } j
      exec (.pagerRelease n) s = .next (j.drained.foldl drainedReady (j.banks.foldl heldReady u)) ∧
      ∃ f2, Sparse.find u.frames j.frame = some f2 ∧ f2.va = f.va ∧ f2.ctx = f.ctx ∧ (f.st ≠ .moving → f2 = f) ∧
        (f.st = .moving → f2.st = if paPkg j.back = s.dev.pkg ∧ rangeDead s (paLocal j.back) (pageBytes j.size) = true then .poisoned else .resident)))

/-- `realign` at the zones and the hub (R345): a zone stops at the end of kc K and reports; when every zone has, and every strand armed the same K,
the hub releases the group, P frames later in every zone; a strand that armed another takes 0x0D, and what the others armed is over. A slack that runs out raises 0x13 at F = K + 1, and
withdraws the release. A checker mismatch (R93, R372, R373) cancels the running group's buffer phase with a record of cause 0x30, and the third on a
core fails its strands and raises 0x33; the management path clears the count. PHASE_RESTART (R155, R307, R452): once no kept card waits and no
resubmitted card's job runs, every strand that goes on is ready at its snapshot, the group's slots hold its images anew, and its kernel time stands at
K0 in every zone. -/
def Obligations.RealignsMismatchesAndPhaseRestarts : Prop :=
  ((∀ (g z : Nat) (s : State), let x := groupOf s g
    let y := gzone x z
    (y.go = false ∨ anyArmed s g y.kc = false → exec (.realignStop g z) s = .next s) ∧
    (y.go = true → anyArmed s g y.kc = true → x.withdrawn = false → ∃ t, exec (.realignStop g z) s = .next t ∧
      (gzone (groupOf t g) z).kc = y.kc + 1 ∧ (gzone (groupOf t g) z).go = false ∧ (gzone (groupOf t g) z).reported = true ∧ .realign ∈ (groupOf t g).stops ∧
      (∀ b, (strandOf s b).grp = g → bankStack b = z → (strandOf s b).st = .running → strandOf t b = { strandOf s b with st := .frozen, prev := .running }) ∧
      ∃ e ∈ t.agenda, e.clk = .hub ∧ e.at_ = s.hkc + lam s z 8 ∧ e.pay = .ev (.realignRelease g))) ∧
  (∀ (g : Nat) (s : State), let x := groupOf s g
    (x.stops.contains .realign = false ∨ (∃ y ∈ x.zones, y.reported = false) → exec (.realignRelease g) s = .next s) ∧
    (x.stops = [.realign] → allStrands s g (fun y => y == .done || y == .yielded) = false → (∀ y ∈ x.zones, y.reported = true) → (∀ e ∈ s.agenda, e.pay ≠ .ev (.realignRelease g)) →
      ((∀ b ∈ realignParties s g, realignDiffers s g b = false) → ∃ t p, exec (.realignRelease g) s = .next t ∧ (groupOf t g).stops = [] ∧
        (groupOf t g).zones = x.zones.map (fun y => if y.go then y else { y with resN := some (y.stopN + p) }) ∧ t.banks = s.banks) ∧
      (∀ b, (realignParties s g).find? (realignDiffers s g) = some b → ∃ t r, exec (.realignRelease g) s = .next t ∧ r.cause = 0x0D ∧
        (∀ y, (strandOf s y).grp = g → (strandOf s y).st ≠ .unloaded → (strandOf t y).realign = none) ∧ ∃ e ∈ t.agenda, e.clk = .kern g (bankStack b) ∧ e.at_ = (gzone x (bankStack b)).kc ∧ e.pay = .enter b r))) ∧
  (∀ (b : Nat) (s : State), let g := (strandOf s b).grp
    let x := groupOf s g
    let s1 := setGroup (dropEntries s (slackOver s g (bankStack b))) g { x with stops := eraseStop x.stops .realign, withdrawn := true }
    (realignLate s b = false → exec (.realignTimeout b) s = .next s) ∧
    (realignLate s b = true → (realignRec s1 s.cur).cause = 0x13 ∧ (realignRec s1 s.cur).opsel = 2 ∧
      exec (.realignTimeout b) s = .next (takeException s1 b (realignRec s1 s.cur) (gzone x (bankStack b)).kc s.cur [] none)))) ∧
  ((∀ s : State, let r := s.cur.arg
    let x := rowOf s r
    let b := 2 * r + x.run
    let t0 := strandOf s b
    let c : Ctx := { Ctx.none with bank := b, grp := t0.grp, pkc := bankKc s b, waddr := t0.cp }
    let s1 := setRow s r { x with mism := x.mism + 1, failed := x.failed || decide (2 ≤ x.mism) }
    let f := mkRec s1 c 0x30 0 0 0 false false
    let s2 := failStrand (failStrand s1 (2 * r)) (2 * r + 1)
    (t0.st = .unloaded → exec .checkerMismatch s = .next s) ∧
    (t0.st ≠ .unloaded → x.mism < 2 → f.cause = 0x30 ∧
      exec .checkerMismatch s = .next (phaseCancel (logRec s1 2 2 (kernelOf s (groupOf s t0.grp).kern).tag (groupOf s t0.grp).ctx r (some f)) t0.grp f)) ∧
    (t0.st ≠ .unloaded → 2 ≤ x.mism → rowGroups s1 r = [t0.grp] → (groupOf s t0.grp).st = .running →
      exec .checkerMismatch s = .next (fatal s2 t0.grp (mkRec s2 c 0x33 0 0 0 false false)) ∧ (rowOf s2 r).failed = true ∧
      ∀ j ∈ [2 * r, 2 * r + 1], (strandOf s j).st ≠ .unloaded → (strandOf s2 j).st = .failed) ∧
    (∃ t, exec .coreCountClear s = .next t ∧ OnlyRow s t r ∧ rowOf t r = { x with mism := 0, failed := false })) ∧
  (∀ (g : Nat) (s : State), let x := groupOf s g
    (restCards (resubmitCards s g) g ≠ [] ∨ phaseJobs (resubmitCards s g) g = true →
      exec (.phaseRestart g) s = .next (postHub (resubmitCards s g) 1 (.phaseRestart g))) ∧
    (restCards s g = [] → phaseJobs s g = false → Sparse.wf s.banks = true → ∃ t, exec (.phaseRestart g) s = .next t ∧ (groupOf t g).restart = none ∧
      (∀ y ∈ (groupOf t g).zones, y.kc = restartKc s g ∧ y.go = false ∧ y.resN.isSome) ∧
      ((x.zones.map (·.z)).Nodup → ∀ y ∈ x.zones,
        (stackOf t y.z).slots = freshSlots (kernelOf s x.kern).shapes g (stackOf s y.z).slots) ∧
      (∀ b ∈ goingBanks s g, strandOf t b =
        { atStart (strandOf s b) (restartPoint (strandOf s b) (startRegs s g)).1 (restartPoint (strandOf s b) (startRegs s g)).2.1 with st := .ready, prev := .ready }) ∧
      (∀ b, b ∉ goingBanks s g → strandOf t b = strandOf s b))))

/-! ## Clocks and frames, power, yields, shoot-downs (R124, R287, R309, R338, R376, R378) -/

/-- The clocks (R338): a hub kc advances every zone's clock by one, unless the zone stretches it, and leaves memory as it is but for the blocks of groups
that start; at the frame's end kernel time moves to the first kc of the next frame, where the frame pulse, every 15,712 hub kc, starts every zone that
waits for it. A package that takes its pulse from the west passes its own by, and one that does not passes the west's by (R339). A released zone of a group resumes in its frame at its kc. REFRESH_SLOT
(R376, R378) advances its cell's scrub by 32 lines, and leaves memory without flipped bits as it is. -/
def Obligations.ClocksAndFrames : Prop :=  (∀ (s : State) (z : Nat), (tick s).hkc = s.hkc + 1 ∧ ((∀ e ∈ s.groups, e.2.started = true) → SameMemory s (tick s)) ∧
    (s.dev.powered = true → z ∈ liveStacks s → (stackOf s z).f + 1 < 15616 → stretches { s with hkc := s.hkc + 1, turned := false } z = false →
      (stackOf (tick s) z).zkc = (stackOf s z).zkc + 1 ∧ (stackOf (tick s) z).f = (stackOf s z).f + 1)) ∧
  (∀ s : State, let z := s.cur.arg
    ∃ t, exec .frameEnd s = .next t ∧ t = { s with stackTab := t.stackTab, groups := t.groups } ∧ stackOf t z = { stackOf s z with f := 15616 } ∧
      (∀ j, j ≠ z → stackOf t j = stackOf s j) ∧
      ∀ g, groupOf t g = { groupOf s g with zones := (groupOf s g).zones.map (fun y => if y.z = z ∧ y.go then { y with kc := y.kc + 1 } else y) }) ∧
  (∀ s : State, let master := pulseMaster s
    (s.cur.arg = 1 → master = true → exec .framePulse s = .next s) ∧
    (s.cur.arg ≠ 1 → master = false → exec .framePulse s = .next (postHub s 1 .framePulse)) ∧
    ((s.cur.arg = 1 ↔ master = false) → ∃ t, exec .framePulse s = .next t ∧ ((∀ e ∈ s.groups, e.2.started = true) → SameMemory s t) ∧ t.rows = s.rows ∧
      t.tokens = s.tokens ∧ t.dev.pulseAt = s.hkc ∧
      (∀ z ∈ liveStacks s, 15616 ≤ (stackOf s z).f → stackOf t z = { stackOf s z with frameN := (stackOf s z).frameN + 1, f := 0, stretched := 0 }) ∧
      (∀ z, (stackOf s z).f < 15616 → stackOf t z = stackOf s z) ∧
      ∃ e ∈ t.agenda, e.clk = .hub ∧ e.at_ = s.hkc + 15712 ∧ e.pay = .ev .framePulse)) ∧
  (∀ (s : State) (g z : Nat), resumeDue (stackOf s z) (gzone (groupOf s g) z) = true →
    (gzone (groupOf (resumeZone s z) g) z).go = true ∧ (gzone (groupOf (resumeZone s z) g) z).kc = (gzone (groupOf s g) z).kc) ∧
  (∀ s : State, let c := s.cur.arg
    let x := s.cells.getD c Cell.fresh
    s.flips = [] → exec .refreshSlot s = .next { s with cells := s.cells.put c { x with rewrite := [], scrub := (x.scrub + 32) % 8388608 } })

/-- The power of a row (R124): a row that no placed strand uses drains; once its word path is empty and its engines idle it counts 16 kc and is gated,
and its vector state, accumulators, creels and edge buffers are lost; a gated row wakes in 512 kc, and one that still drains is on again at once. Where
no strand needs a row that has woken, its gating is requested again. -/
def Obligations.RowsAreGatedAndWoken : Prop :=  ∀ s : State, let r := s.cur.arg
    let x := rowOf s r
    let goes (i : Instr) (p : Power) (after : Option (Nat × Instr)) : Prop := ∃ t, exec i s = .next t ∧ OnlyRow s t r ∧
      rowOf t r = { x with pwr := p, pwrGen := x.pwrGen + 1 } ∧
      (∀ n j, after = some (n, j) → ∃ e ∈ t.agenda, e.clk = .zone (r / 16) ∧ e.at_ = (stackOf s (r / 16)).zkc + n ∧ e.ctx.arg = r ∧ e.ctx.pkc = x.pwrGen + 1 ∧ e.pay = .ev j)
    let leaves (i : Instr) : Prop := exec i s = .next s
    (x.pwr = .on → arrayUsed s r = false → goes .gateRequest .draining (some (0, .drainingQuiet))) ∧
    (x.pwr ≠ .on ∨ arrayUsed s r = true → leaves .gateRequest) ∧
    (x.pwr = .draining → arrayQuiet s r = true → goes .drainingQuiet .drainingQuiet (some (16, .gateCounterExpiry))) ∧
    (x.pwr = .draining → arrayQuiet s r = false → ∃ t, exec .drainingQuiet s = .next t ∧ OnlyAgenda s t ∧
      ∃ e ∈ t.agenda, e.clk = .zone (r / 16) ∧ e.at_ = (stackOf s (r / 16)).zkc + 1 ∧ e.pay = .ev .drainingQuiet) ∧
    (x.pwr ≠ .draining → leaves .drainingQuiet) ∧
    (x.pwr = .gated → goes .wakeRequest .waking (some (512, .wakeComplete))) ∧
    (x.pwr ∈ [.draining, .drainingQuiet] → goes .wakeRequest .on none) ∧ (x.pwr ∈ [.on, .waking] → leaves .wakeRequest) ∧
    (∀ i p q, (i, p, q) ∈ [(Instr.gateCounterExpiry, Power.drainingQuiet, Power.gated), (.wakeComplete, .waking, .on)] →
      (x.pwr ≠ p ∨ x.pwrGen ≠ s.cur.pkc → leaves i) ∧
      (x.pwr = p → x.pwrGen = s.cur.pkc → ∃ t, exec i s = .next t ∧ (rowOf t r).pwr = q ∧ (∀ j, j ≠ r → rowOf t j = rowOf s j) ∧
        (∀ b ∈ [2 * r, 2 * r + 1], strandOf t b = { strandOf s b with v := [], x := [], k := [], q := [], vbad := [] }) ∧
        (∀ b, b ∉ [2 * r, 2 * r + 1] → strandOf t b = strandOf s b) ∧ SameMemory s t ∧
        (q = .gated ∨ arrayUsed s r = true → t.agenda = s.agenda) ∧
        (q = .on → arrayUsed s r = false → ∃ e ∈ t.agenda, e.clk = .hub ∧ e.at_ = s.hkc ∧ e.ctx.arg = r ∧ e.pay = .ev .gateRequest) ∧
        (q = .gated → (rowOf t r).tiles = [] ∧ (rowOf t r).creels = [] ∧ (rowOf t r).edge = [] ∧ (rowOf t r).arrBad = [])))

/-- Yield requests (R309, R310): the hub's request reaches every zone of a group that holds rows, where each of its strands has `yreq` 0b11, `ydl` d
kc ahead, and interrupt 0x11 pending; a deadline that expires pre-empts the group by force, which then holds no row. -/
def Obligations.YieldRequestsReachTheirGroup : Prop :=  (∀ (g d : Nat) (s : State), let x := groupOf s g
    (holdsRows x = false → exec (.yieldRequestPost g d) s = .next s ∧ ∀ z, exec (.yieldRequestArm g z d) s = .next s) ∧
    (holdsRows x = true → ∃ t, exec (.yieldRequestPost g d) s = .next t ∧ (groupOf t g).ydcount = d % 2 ^ 32 ∧ (groupOf t g).yreq = x.yreq ||| 1 ∧
      t.banks = s.banks ∧ t.rows = s.rows ∧
      ∀ y ∈ x.zones, ∃ e ∈ t.agenda, e.clk = .hub ∧ e.at_ = s.hkc + lam s 8 y.z ∧ e.pay = .ev (.yieldRequestArm g y.z d)) ∧
    (∀ z, holdsRows x = true → ∃ t, exec (.yieldRequestArm g z d) s = .next t ∧ (groupOf t g).yreq = 3 ∧ t.rows = s.rows ∧
      (∀ b ∈ banksOf s g, bankStack b = z → (strandOf t b).yreq = 3 ∧ (strandOf t b).ydl = (gzone x z).kc + d ∧ SameRegisters (strandOf s b) (strandOf t b) ∧
        ((strandOf s b).st ∉ [.unloaded, .yielded, .done, .failed] → Sparse.find (strandOf t b).pend 0x11 = some (d % 2 ^ 32))) ∧
      (∀ b, b ∉ banksOf s g ∨ bankStack b ≠ z → strandOf t b = strandOf s b) ∧
      (∃ e ∈ t.agenda, e.clk = .kern g z ∧ e.at_ = (gzone x z).kc + d ∧ e.pay = .ev (.yieldDeadlineExpiry g)) ∧
      ∃ e ∈ t.agenda, e.clk = .zone z ∧ e.at_ = (stackOf s z).zkc + d ∧ e.pay = .ev (.yieldDeadlineExpiry g))) ∧
  (∀ (g : Nat) (s : State), let x := groupOf s g
    (deadlineOver s s.cur = true → ∃ t, exec (.yieldDeadlineExpiry g) s = .next t ∧ t = forcePreempt s g ∧ (groupOf t g).st = .yielded ∧ (groupOf t g).zones = []) ∧
    (deadlineOver s s.cur = false → holdsRows x = false ∨ x.yreq.getLsbD 1 = false ∨ s.cur.hand = false → exec (.yieldDeadlineExpiry g) s = .next s))

/-- Shoot-downs (R287, R288): the changes of a kernel's table wait for every stack that holds a copy; a stack acknowledges once none of the kernel's
strands there can reach a node packet; when the last has, the entries change in every copy, one per kc, and 16 kc after the last the shoot-down is over:
the kernel's strands no longer stand at their nodes for it, and a pass of placement follows. Of a kernel whose groups have not all ended nothing else
changes then, and memory only where an offline moves a page (R289). -/
def Obligations.ShootdownsChangeEveryCopy : Prop :=  (∀ (k : Nat) (chg : List WChange) (s : State), let x := kernelOf s k
    let zs := (s.stackTab.filter (fun z => (Sparse.find z.2.tables k).isSome)).map (·.1)
    let wait := if x.st = .completing then [] else zs
    (Sparse.find s.kernels k = none → exec (.shootdownPost k chg) s = .next s) ∧
    ((Sparse.find s.kernels k).isSome → tableWf s (changed chg x.table) = true → (∀ c ∈ chg, c.idx < x.table.length) →
      (x.shoot ≠ [] → exec (.shootdownPost k chg) s = .next (postHub s 1 (.shootdownPost k chg))) ∧
      (x.shoot = [] → ∃ t, exec (.shootdownPost k chg) s = .next t ∧ (kernelOf t k).shoot = chg ∧ (kernelOf t k).shootWait = wait ∧ (kernelOf t k).table = x.table ∧
        SameMemory s t ∧
        (wait = [] → ∃ e ∈ t.agenda, e.clk = .hub ∧ e.at_ = s.hkc + 1 ∧ e.ctx.arg = 0 ∧ e.pay = .ev (.shootdownUpdate k)) ∧
        ∀ z ∈ wait, ∃ e ∈ t.agenda, e.clk = .hub ∧ e.at_ = s.hkc + (lam s 8 z + lam s z 8) ∧ e.pay = .ev (.shootdownAck k z)))) ∧
  (∀ (k z : Nat) (s : State), let x := kernelOf s k
    (z ∉ x.shootWait → exec (.shootdownAck k z) s = .next s) ∧
    (z ∈ x.shootWait → (∃ b ∈ kernelBanks s k z, canReachNode s b = true) → exec (.shootdownAck k z) s = .next (postHub s 1 (.shootdownAck k z))) ∧
    (z ∈ x.shootWait → (∀ b ∈ kernelBanks s k z, canReachNode s b = false) → ∃ t, exec (.shootdownAck k z) s = .next t ∧
      (kernelOf t k).shootWait = x.shootWait.filter (fun y => y != z) ∧ (kernelOf t k).shoot = x.shoot ∧
      ((∀ y ∈ x.shootWait, y = z) → ∃ e ∈ t.agenda, e.clk = .hub ∧ e.at_ = s.hkc + 1 ∧ e.ctx.arg = 0 ∧ e.pay = .ev (.shootdownUpdate k)))) ∧
  (∀ (k : Nat) (s : State), let x := kernelOf s k
    let i := s.cur.arg
    (∀ c, x.shoot[i]? = some c → ∃ t, exec (.shootdownUpdate k) s = .next t ∧ t = { s with agenda := t.agenda, seq := t.seq, stackTab := t.stackTab } ∧
      (∀ z l, Sparse.find (stackOf s z).tables k = some l → Sparse.find (stackOf t z).tables k = some (changed [c] l)) ∧
      ∃ e ∈ t.agenda, e.clk = .hub ∧ e.at_ = s.hkc + (if i + 1 = x.shoot.length then 16 else 1) ∧ e.ctx.arg = i + 1 ∧ e.pay = .ev (.shootdownUpdate k)) ∧
    (x.shoot[i]? = none → ∃ t, exec (.shootdownUpdate k) s = .next t ∧
      (kernelOf t k).table = changed x.shoot x.table ∧ (kernelOf t k).shoot = [] ∧ (kernelOf t k).shootWait = [] ∧
      (∀ z l, Sparse.find (stackOf s z).tables k = some l → Sparse.find (stackOf t z).tables k = some l) ∧
      (∃ e ∈ t.agenda, e.clk = .hub ∧ e.at_ = s.hkc + 1 ∧ e.pay = .ev .placeWave) ∧
      (x.ended < kernelTotal x → (∀ j, j ≠ k → kernelOf t j = kernelOf s j) ∧
        (∀ b, strandOf t b = if (groupOf s (strandOf s b).grp).kern = k then { strandOf s b with shot := false } else strandOf s b) ∧
        ((∀ f ∈ s.frames, f.2.toward = none) → SameMemory s t))))

/-! ## Queues, contexts, kernels (R303, R304, R313 to R336, R396) -/

/-- Packets that act at once: NOP (R316, R321) is performed when it is parsed; SIGNAL (R319) adds to its counter or exchanges it, and sends the host
its message; FENCE (R318, R322) waits until every counter that it names has reached its threshold, read again every 64 hub kc by FENCE_POLL (R322,
R324), whatever becomes of its queue but a disable. MALFORMED_PACKET (R314, R316) stops the queue; QUEUE_LEVEL_AGING (R323) raises the level of a head that still waits, up to its queue's cap.
TOKEN packets (R321): a mint that passes its checks makes its target the owner of a token of the region, in a free entry with the next generation; a
lend, a pass or a return leaves the host agent's entry leaving, and its hand-off stands 12 hub kc after the parse. One that fails stops its queue by
reason 3, with selector 11 and the cause (R454). -/
def Obligations.QueuePacketsAct : Prop :=
  ((∀ s : State, let q := s.cur.arg
    let x := queueOf s q
    s.Inv → Flawless s → x.blk % 256 = 0 → x.ci + 1 < 2 ^ 64 →
      ∃ t, exec .nop s = .next t ∧ OnlyQueue s t q ∧ queueOf t q = { x with ci := x.ci + 1, since := none } ∧
        readNat t (paLocal x.blk + 88) 8 = x.ci + 1 ∧ t.agenda = s.agenda) ∧
  (∀ s : State, let q := s.cur.arg
    let p := headAddr s q
    let pa := fieldAt s p 8 8
    let f := fieldAt s p 24 1
    let u := parsed s q []
    let msgs := if bitOf f 1 then fieldAt s p 26 2 :: s.msix else s.msix
    s.Inv → Flawless s → counterForm s pa = true →
      (paPkg pa ≠ s.dev.pkg → exec .signal s = .next { u with msix := msgs }) ∧
      (paPkg pa = s.dev.pkg → ∃ t, exec .signal s = .next t ∧ t = { u with mem := t.mem, msix := msgs } ∧ (queueOf t q).ci = (queueOf s q).ci + 1 ∧
        readNat t (paLocal pa) 8 = (if bitOf f 0 then fieldAt s p 16 8 else (readNat u (paLocal pa) 8 + fieldAt s p 16 8) % 2 ^ 64) ∧
        ∀ a, (∀ i, i < 8 → homeAddr a ≠ homeAddr (paLocal pa + i)) → readByte t a = readByte u a)) ∧
  (∀ s : State, let q := s.cur.arg
    let x := queueOf s q
    let p := headAddr s q
    let l := (List.range (fieldAt s p 2 1)).map (fun j => ((fenceEntry s p j).2.1, (fenceEntry s p j).1, (fieldAt s p 8 8 + (fenceEntry s p j).2.2) % 2 ^ 64))
    let met := l.all (fun e => decide (e.2.2 ≤ readNat s (baseCommons + 8 * e.2.1) 8))
    Flawless s → x.blk % 256 = 0 → baseHost ≤ paLocal x.blk → (∀ e ∈ l, e.1 = s.dev.pkg) → Sparse.find x.fence x.ci = none →
      ∃ t, exec .fencePacket s = .next t ∧ OnlyQueue s t q ∧
        queueOf t q = { x with ci := x.ci + 1, since := none, st := if met then .idle else .fenced,
                               fence := x.fence ++ [(x.ci, if met then [] else l)] } ∧
        (met = false → ∃ e ∈ t.agenda, e.clk = .hub ∧ e.at_ = s.hkc + 64 ∧ e.ctx.arg = q ∧ e.ctx.pkc = x.ci ∧ e.pay = .ev .fencePoll)) ∧
  (∀ s : State, let q := s.cur.arg
    let x := queueOf s q
    let no := s.cur.pkc
    let l := fenceOf x no
    let met := l.all (fun e => decide (e.2.2 ≤ readNat s (baseCommons + 8 * e.2.1) 8))
    (x.st = .disabled ∨ l = [] → exec .fencePoll s = .next s) ∧
    (Flawless s → x.st ≠ .disabled → l ≠ [] → (∀ e ∈ l, e.1 = s.dev.pkg) → ∃ t, exec .fencePoll s = .next t ∧ OnlyQueue s t q ∧
      (met = true → queueOf t q = { x with st := if x.st = .fenced then .idle else x.st, fence := x.fence.map (fun e => if e.1 = no then (no, []) else e) }) ∧
      (met = false → OnlyAgenda s t ∧ ∃ e ∈ t.agenda, e.clk = .hub ∧ e.at_ = s.hkc + 64 ∧ e.ctx.arg = q ∧ e.ctx.pkc = no ∧ e.pay = .ev .fencePoll))) ∧
  (∀ s : State, let q := s.cur.arg
    Flawless s → ∃ t, exec .malformedPacket s = .next t ∧ StopsQueue s t q (if overflow (queueOf s q) then 2 else 1) 0 0 0) ∧
  (∀ s : State, let q := s.cur.arg
    let x := queueOf s q
    (x.since ≠ some s.cur.pkc → exec .queueLevelAging s = .next s) ∧
    (x.since = some s.cur.pkc → ∃ t, exec .queueLevelAging s = .next t ∧
      t = { s with agenda := t.agenda, seq := t.seq, queues := t.queues } ∧ (∀ j, j ≠ q → queueOf t j = queueOf s j) ∧
      queueOf t q = { x with level := if x.cap < x.bud.prio then x.level else min x.cap (x.level + 1) } ∧
      ∃ e ∈ t.agenda, e.clk = .hub ∧ e.at_ = s.hkc + 2 ^ 20 ∧ e.ctx = s.cur ∧ e.pay = .ev .queueLevelAging))) ∧
  ((∀ s : State, let q := s.cur.arg
    let p := headAddr s q
    let c := (queueOf s q).ctx
    let v : Dword := BitVec.ofNat 64 (fieldAt s p 16 8)
    let tgt := if fieldAt s p 12 4 = noAgent then hostAgent s c else fieldAt s p 12 4
    Flawless s → c < 256 →
      (∀ f, mintCause s c v tgt = some f → ∃ t, exec .tokenMint s = .next t ∧ StopsQueue s t q 3 11 f 0) ∧
      (∀ base z, mintCause s c v tgt = none → regionOf s v = some (base, z) → ∃ t i, exec .tokenMint s = .next t ∧
        (queueOf t q).ci = (queueOf s q).ci + 1 ∧ i < 65536 ∧ (tokenOf s i).st = .free ∧
        tokenOf t i = { Token.free with st := .owned, size := z, base := base, gen := nextTokGen (tokenOf s i).gen, holder := tgt, ctx := c } ∧
        (∀ j, j ≠ i → tokenOf t j = tokenOf s j) ∧
        (∀ b, agKind tgt = 0 → agentBank s tgt = some b → ∃ h, h.id = tokId t i ∧ h.mode = .own ∧ h.dirty = false ∧ h.leaving = false ∧
          (strandOf t b).held = (strandOf s b).held ++ [h]) ∧
        (agKind tgt = 2 → agPkg tgt = s.dev.pkg → ∃ h, h.id = tokId t i ∧ h.mode = .own ∧ h.dirty = false ∧ h.leaving = false ∧
          (contextOf t c).hostHeld = (contextOf s c).hostHeld ++ [h]))) ∧
  (∀ (s : State) (i : Instr) (k : HandKind), (i, k) ∈ [(Instr.tokenLend, HandKind.lend), (.tokenPass, .pass), (.tokenReturn, .ret)] →
    let q := s.cur.arg
    let p := headAddr s q
    let c := (queueOf s q).ctx
    let id := fieldAt s p 8 4
    let tgt := if k = .ret then (tokenOf s (tokKey s id)).lender else fieldAt s p 12 4
    Flawless s → c < 256 → s.dev.pkg < 16 →
      (∀ f, hostHandCause s c id tgt k = some f → ∃ t, exec i s = .next t ∧ StopsQueue s t q 3 11 f 0) ∧
      (hostHandCause s c id tgt k = none → ∃ t, exec i s = .next t ∧ (queueOf t q).ci = (queueOf s q).ci + 1 ∧
        (queueOf t q).pend = (queueOf s q).pend ++ [.until (s.hkc + 12)] ∧ t.tokens = s.tokens ∧ t.banks = s.banks ∧ t.groups = s.groups ∧
        (contextOf t c).hostHeld = (contextOf s c).hostHeld.map (fun h => if h.id = id then { h with leaving := true } else h) ∧
        ∃ e ∈ t.agenda, e.clk = .hub ∧ e.at_ = s.hkc + 12 ∧ ∃ h : Handoff, e.pay = .ev (.handoffRelease h) ∧ h.kind = k ∧ h.tok = id ∧
          h.giver = hostAgent s c ∧ h.target = tgt ∧ h.stamp = s.hkc + 12 ∧ 8 ≤ h.scope)))

/-- The life of a queue (R313, R322) and of a context (R303, R304), and the context's host window table (R396): each is opened, changed, closed or
released where its block is well formed and its number may, and is left as it is otherwise. A context that closes disables its queues, and is freed,
its tokens with it, once no group of it is placed and no job live. -/
def Obligations.QueuesAndContextsOpenAndClose : Prop :=  (∀ (blk : Nat) (s : State), let c := blockCtx s blk
    let q := fieldAt s blk 74 1
    let may := s.dev.ready = true ∧ ((contextOf s c).st = .opened ∨ (contextOf s c).st = .halted) ∧ queueForm s c blk = true ∧ (queueOf s q).st = .disabled ∧
      readNat s (paLocal (fieldAt s blk 80 8)) 8 = 0
    (¬may → exec (.queueEnable blk) s = .next s) ∧
    (may → Flawless s → ∃ t, exec (.queueEnable blk) s = .next t ∧ (∀ j, j ≠ q → queueOf t j = queueOf s j) ∧ t.agenda = s.agenda ∧ t.contexts = s.contexts ∧
      (queueOf t q).st = (if (contextOf s c).st = .halted then .suspended else .idle) ∧ (queueOf t q).ctx = c ∧ (queueOf t q).blk = blk ∧
      (queueOf t q).ring = fieldAt s blk 64 8 ∧ (queueOf t q).k = fieldAt s blk 72 1 ∧ (queueOf t q).bell = fieldAt s blk 80 8 ∧
      (queueOf t q).ci = 0 ∧ (queueOf t q).pend = [] ∧ (queueOf t q).level = (queueOf t q).bud.prio ∧
      (queueOf t q).bud = effective (blockInh s blk) (ownBudget s blk) (contextOf s c).bud)) ∧
  (∀ (q ci : Nat) (s : State), let x := queueOf s q
    let pi := readNat s (paLocal x.bell) 8
    let may := x.st = .stopped ∧ x.ci ≤ ci ∧ ci ≤ pi
    (¬may → exec (.queueRestart q ci) s = .next s) ∧
    (may → Flawless s → ∃ t, exec (.queueRestart q ci) s = .next t ∧ OnlyQueue s t q ∧ queueOf t q =
      { x with st := if (contextOf s x.ctx).st = .halted then .suspended else .idle, ci := ci, pi := pi, since := none })) ∧
  (∀ s : State, let q := s.cur.arg
    Flawless s → ∃ t, exec .queueDisable s = .next t ∧ OnlyQueue s t q ∧ (queueOf t q).st = .disabled ∧ (queueOf t q).ci = (queueOf s q).ci) ∧
  (∀ (blk : Nat) (s : State), let c := blockCtx s blk
    let may := s.dev.ready = true ∧ contextForm s blk = true ∧ (contextOf s c).st = .free
    (¬may → exec (.contextOpen blk) s = .next s) ∧
    (may → ∃ t, exec (.contextOpen blk) s = .next t ∧ t = { s with contexts := t.contexts, freeCtr := s.freeCtr + 1 } ∧ (∀ j, j ≠ c → contextOf t j = contextOf s j) ∧
      (contextOf t c).bud = effective 0x0FFF (ownBudget s blk) Budget.top ∧ (contextOf t c).st = .opened ∧ (contextOf t c).blk = blk ∧ (contextOf t c).recov = fieldAt s blk 64 4 ∧ (contextOf t c).recovk = fieldAt s blk 96 8 ∧
      (contextOf t c).backing = fieldAt s blk 72 8 ∧ (contextOf t c).pool = fieldAt s blk 80 8 ∧ (contextOf t c).ngrp = fieldAt s blk 88 2 ∧
      (contextOf t c).hostTable = [] ∧ (contextOf t c).hostHeld = [])) ∧
  (∀ (c addr n : Nat) (s : State), let tbl := readTable s (paLocal addr) n
    let may := ((contextOf s c).st = .opened ∨ (contextOf s c).st = .halted) ∧ 1 ≤ n ∧ n ≤ 1024 ∧ paPkg addr = s.dev.pkg ∧ tableWf s tbl = true
    (¬may → exec (.hostWindowTableRegister c addr n) s = .next s) ∧
    (may → ∃ t, exec (.hostWindowTableRegister c addr n) s = .next t ∧ t = { s with contexts := t.contexts, frames := t.frames } ∧
      contextOf t c = { contextOf s c with hostTable := tbl } ∧ ∀ j, j ≠ c → contextOf t j = contextOf s j)) ∧
  (∀ s : State, let c := s.cur.arg
    ((contextOf s c).st ≠ .opened → (contextOf s c).st ≠ .halted → exec .contextClose s = .next s) ∧
    ((contextOf s c).st = .opened ∨ (contextOf s c).st = .halted → ∃ t, exec .contextClose s = .next t ∧ (contextOf t c).st = .closing ∧
      (∀ q x, Sparse.find t.queues q = some x → x.ctx = c → x.st = .disabled) ∧
      ∃ e ∈ t.agenda, e.clk = .hub ∧ e.at_ = t.hkc ∧ e.ctx.arg = c ∧ e.pay = .ev .contextFree)) ∧
  (∀ s : State, let c := s.cur.arg
    let busy := ¬(contextGroups s c = [] ∧ ∀ e ∈ s.jobs, e.2.ctx ≠ c)
    ((contextOf s c).st ≠ .closing → exec .contextFree s = .next s) ∧
    ((contextOf s c).st = .closing → busy → ∃ t, exec .contextFree s = .next t ∧ OnlyAgenda s t ∧
      ∃ e ∈ t.agenda, e.clk = .hub ∧ e.at_ = s.hkc + 1 ∧ e.ctx.arg = c ∧ e.pay = .ev .contextFree) ∧
    ((contextOf s c).st = .closing → ¬busy → Sparse.wf s.contexts = true → ∃ t, exec .contextFree s = .next t ∧
      t = { s with tokens := t.tokens, contexts := t.contexts, kernels := t.kernels, groups := t.groups, barriers := t.barriers, frames := t.frames,
                   bounce := t.bounce } ∧
      (∀ f ∈ t.frames, f ∈ s.frames ∧ (f.2.ctx = c → f.2.others ≠ [])) ∧ (∀ l, l ∈ t.bounce ↔ l ∈ s.bounce ∧ l.ctx ≠ c) ∧
      contextOf t c = Context.free ∧ (∀ j, j ≠ c → contextOf t j = contextOf s j) ∧
      (∀ i, (tokenOf s i).ctx = c → (tokenOf t i).st = .free) ∧ (∀ i, (tokenOf s i).ctx ≠ c → tokenOf t i = tokenOf s i) ∧
      (∀ i, (barrierOf s i).ctx = c → (barrierOf t i).kern = 0) ∧ ∀ i, (barrierOf s i).ctx ≠ c → barrierOf t i = barrierOf s i))

/-- The life of a kernel (R325 to R336): LAUNCH refuses a kernel by the first of its checks that fails, with res 3 and a stopped queue, or makes it
pending and asks for a pass of placement; the pass takes the kernel of highest priority, and among these the first parsed; its wave is copied once its rows are awake and the instruction memories
have room, at 256 bytes per hub kc on each stack's link, and released once everything has come and a token entry is free for each of its groups; a
kernel with nothing left is complete or faulted, with its result in its block. -/
def Obligations.KernelsAreLaunchedAndComplete : Prop :=  (∀ s : State, let q := s.cur.arg
    let x := queueOf s q
    let p := headAddr s q
    let a := fieldAt s p 8 8
    let chk := failedCheck (launchChecks s q a (fieldAt s p 24 8))
    let k := newKernel s q p
    s.Inv → Flawless s →
      (∀ n, chk = some n → (a % 256 = 0 → paPkg a = s.dev.pkg → fieldAt (writeRes s a 3) a 104 1 % 4 = 3) ∧ ∃ t, exec .launch s = .next t ∧ StopsQueue (writeRes s a 3) t q 3 0 0 n) ∧
      (chk = none → k.st = .pending ∧ k.blk = a ∧ k.queue = q ∧ k.tag = fieldAt s p 4 4 ∧ k.gx = fieldAt s p 16 2 ∧ k.gy = fieldAt s p 18 2 ∧
        k.gz = fieldAt s p 20 2 ∧ k.code = fieldAt s a 64 8 ∧ k.rR = fieldAt s a 77 1 ∧ k.rS = fieldAt s a 78 1 ∧
        (kernelTotal k ≠ 0 → ∃ t, exec .launch s = .next t ∧ kernelOf t s.nextKernel = k ∧ (∀ n, n ≠ s.nextKernel → kernelOf t n = kernelOf s n) ∧
          t.nextKernel = s.nextKernel + 1 ∧ queueOf t q = { x with ci := x.ci + 1, since := none, pend := x.pend ++ [.kernel s.nextKernel] } ∧
          t.banks = s.banks ∧ t.groups = s.groups ∧ t.tokens = s.tokens ∧ ∃ e ∈ t.agenda, e.clk = .hub ∧ e.at_ = s.hkc ∧ e.pay = .ev .placeWave) ∧
        (kernelTotal k = 0 → ∃ t, exec .launch s = .next t ∧ (kernelOf t s.nextKernel).st = .completing ∧
          ∃ e ∈ t.agenda, e.clk = .hub ∧ e.at_ = t.hkc ∧ e.pay = .ev (.kernelComplete s.nextKernel)))) ∧
  (∀ s : State, (s.dev.thold = true ∨ nextPlaced s = none → exec .placeWave s = .next s) ∧
    (∀ k, nextPlaced s = some k → wantsPlace s k = true ∧ ∀ j ∈ s.kernels.keys, wantsPlace s j = true → placesBefore s j k = false) ∧
    (∀ u w, s.dev.thold = false → choose 65536 s [] = (u, w) → w ≠ [] → ∃ t, exec .placeWave s = .next t ∧
      t = { u with agenda := t.agenda, seq := t.seq, waves := u.waves.put u.nextWave w, nextWave := u.nextWave + 1 } ∧
      ∃ e ∈ t.agenda, e.clk = .hub ∧ e.at_ = u.hkc ∧ e.ctx.arg = 1 ∧ e.pay = .ev (.waveRelease u.nextWave))) ∧
  (∀ (n : Nat) (s : State),
    (Sparse.find s.waves n = none → exec (.waveRelease n) s = .next s) ∧
    (∀ w, Sparse.find s.waves n = some w →
      let again : Prop := ∃ t, exec (.waveRelease n) s = .next t ∧ OnlyAgenda s t ∧
        ∃ e ∈ t.agenda, e.clk = .hub ∧ e.at_ = s.hkc + 1 ∧ e.ctx = s.cur ∧ e.pay = .ev (.waveRelease n)
      (∀ u, s.cur.arg = 0 → loadGroups s w = some u → exec (.waveRelease n) s = .next (releaseWave u n w)) ∧
      (s.cur.arg = 0 → loadGroups s w = none → again) ∧ (s.cur.arg ≠ 0 → waveAwake s w = false ∨ copyWave s w = none → again) ∧
      (∀ u load, s.cur.arg ≠ 0 → waveAwake s w = true → (waveParts s w).foldl copyPart (some (s, [])) = some (u, load) →
        ∃ t, exec (.waveRelease n) s = .next t ∧ t = { u with agenda := t.agenda, seq := t.seq, stackTab := t.stackTab } ∧
          ∃ e ∈ t.agenda, e.clk = .hub ∧ s.hkc ≤ e.at_ ∧ e.ctx.arg = 0 ∧ e.pay = .ev (.waveRelease n) ∧
            ∀ p ∈ load, p.2 ≤ 256 * (e.at_ - max s.hkc (stackOf s p.1).linkFree))) ∧
    (∀ g, (groupOf s g).st ≠ .placing → startGroup s g = s) ∧ (∀ k, (kernelOf (startKernel s k) k).st ≠ .pending)) ∧
  (∀ (k : Nat) (s : State), let kn := kernelOf s k
    let ready := kn.handBy ≤ s.hkc ∧ kernelFlight s k = false ∧ earlierDone s k = true
    (kn.st ≠ .completing → exec (.kernelComplete k) s = .next s) ∧
    (kn.st = .completing → ¬ready → ∃ t, exec (.kernelComplete k) s = .next t ∧ OnlyAgenda s t ∧
      ∃ e ∈ t.agenda, e.clk = .hub ∧ e.at_ = s.hkc + 1 ∧ e.pay = .ev (.kernelComplete k)) ∧
    (kn.st = .completing → ready → (∀ r, (rowOf s r).dcache = []) → s.Inv → Flawless s → ∃ t, exec (.kernelComplete k) s = .next t ∧
      kernelOf t k = { kn with st := if kn.flt then .faulted else .complete } ∧ (∀ n, n ≠ k → kernelOf t n = kernelOf s n) ∧
      t.banks = s.banks ∧ t.tokens = s.tokens ∧ t.queues = s.queues ∧ t.agenda = s.agenda ∧
      (kn.done = 0 → kn.blk % 256 = 0 → paPkg kn.blk = s.dev.pkg → fieldAt t kn.blk 104 1 % 4 = (if kn.flt then 2 else 1)) ∧
      (kn.done ≠ 0 → paPkg kn.done = s.dev.pkg → kn.done % 8 = 0 → readNat t (paLocal kn.done) 8 =
        (readNat (writeRes s kn.blk (if kn.flt then 2 else 1)) (paLocal kn.done) 8 + kn.dinc.toNat) % 2 ^ 64)))

/-! ## Links and the device (R236, R243, R289, R290, R347, R386 to R404) -/

/-- FLIT_RECEIVE (R387, R389, R390): a good flit is taken, the next number of its slot expected, and over an edge link an acknowledgement waits to leave;
one with a bad CRC or out of turn is replayed, what is on its way in its slot comes later by the replay's cost, and over an edge link a request for it
waits to leave; with the sixteenth replay of a frame the link retrains, and a link that carries nothing takes none. A token or a barrier credit that
comes in over an edge link is on its way to its target, a chain partial over the west one is in its row's edge buffer, and a frame pulse over it is the
package's; a link that retrains does not replay. A replay on the wire from the hub to a stack costs 24 kc. REPLAY_COMPLETE gives the link its state
back. The states of a link (R390, R392, R393): a link that is down trains at a request; one whose training passes is up, or degraded with the modules
that are left; the third failure in a row, 262,144 kc of retraining and a request retire it. What is on its way over a link that retires is lost, and
a token in its custody, or on its way over it, is orphaned; a reset makes a retired link down. A one written to the replay count clears its bit. The layouts of payloads are
the model's (log entry 16), and so are the parameters of the CRC (log entry 17). -/
def Obligations.LinksReplayTrainAndRetire : Prop :=
  ((∀ (n : Nat) (f : Flit) (s : State), let l := wireOf n
    let x := linkOf s l
    let k := slotOfFlit s n f
    let u0 := setLink s l { x with expect := x.expect.put k ((flitSeq f + 1) % 4096) }
    let u := if wantsAck l f then ackFlit u0 l k (flitSeq f) false else u0
    let d := replayCost s l
    let vals := (List.range 64).map (fun i => BitVec.ofNat 32 (bitsOf f.payload.toNat (32 * i) 32))
    let y : Link := { x with rply := saturate (x.rply + 1) 0xFFFFFFFF, frameReplays := x.frameReplays + 1, late := x.late.put k (replayDelay x k s.hkc + d, s.hkc) }
    (32 ≤ n → exec (.flitReceive n f) s = .next (if flitCrc f.hdr f.payload = f.crc then s else hubReplay s (n - 32)) ∧
      ∀ e ∈ s.agenda, fromHub (n - 32) e = true → { e with at_ := e.at_ + 24 } ∈ (hubReplay s (n - 32)).agenda) ∧
    (n < 32 → linkCarries x = false → exec (.flitReceive n f) s = .next s) ∧
    (n < 32 → linkCarries x = true → flitGood x k f = true →
      (wantsAck l f = true → ∃ o, linkOf u l = { linkOf u0 l with outq := x.outq ++ [o] } ∧ o.kind = 8 ∧ o.payload = flitSeq f % 4096 + k * 2 ^ 12) ∧
      (9 ≤ flitKind f → exec (.flitReceive n f) s = .next (logRec u 4 1 0 0 l none)) ∧
      (flitKind f < 9 → l < 8 ∨ flitKind f ∉ [1, 3, 4, 6, 8] ∨ (flitKind f = 1 ∧ (l ≠ 9 ∨ edgeStrand s (flitRow f) = none)) ∨ (flitKind f = 6 ∧ l ≠ 9) →
        exec (.flitReceive n f) s = .next u) ∧
      (∀ g r, l = 9 → flitKind f = 1 → edgeStrand s (flitRow f) = some (g, r) → (rowBank s g r).isSome →
        Sparse.find (rowOf s r).edge (nextEdgeEntry (rowOf s r)) = none →
          ∃ m, exec (.flitReceive n f) s =
            .next (setRow u r { rowOf s r with arrBad := m, edge := (rowOf s r).edge.put (nextEdgeEntry (rowOf s r)) vals })) ∧
      (l = 9 → flitKind f = 6 → exec (.flitReceive n f) s = .next (postArg u 0 1 .framePulse)) ∧
      (8 ≤ l → flitKind f = 8 → bitOf f.payload.toNat 13 = false → exec (.flitReceive n f) s = .next
        (setLink u l { linkOf u l with unacked := behind (bitsOf f.payload.toNat 12 1) (bitsOf f.payload.toNat 0 12) (linkOf u l).unacked })) ∧
      (8 ≤ l → flitKind f = 4 → bitsOf f.payload.toNat 12 4 ≠ s.dev.pkg →
        exec (.flitReceive n f) s = .next (sendFlit u (otherEnd l) 0 (flitRow f) 4 (flitStamp f) f.payload.toNat)) ∧
      (8 ≤ l → flitKind f = 4 → bitsOf f.payload.toNat 12 4 = s.dev.pkg → bitOf f.payload.toNat 177 = false → bitOf f.payload.toNat 176 = false → ∃ t, exec (.flitReceive n f) s = .next t ∧ OnlyAgenda u t ∧
        ∃ e ∈ t.agenda, e.clk = .hub ∧ e.at_ = s.hkc ∧ e.pay = .ev (.barrierEvent
          { idx := bitsOf f.payload.toNat 0 12, ctx := bitsOf f.payload.toNat 16 8, credit := bitsOf f.payload.toNat 24 40, src := l - 8 })) ∧
      (8 ≤ l → flitKind f = 3 → agPkg (tokenOfPayload s f).target = s.dev.pkg → bitsOf f.payload.toNat 188 3 = 0 → tokCurrent s (tokenOfPayload s f).tok = true →
        (tokenOfPayload s f).kind ∈ [.lend, .pass] → ∃ t, exec (.flitReceive n f) s = .next t ∧
          (tokenOf t (tokKey s (tokenOfPayload s f).tok)).st = .inFlight ∧
          (tokenOf t (tokKey s (tokenOfPayload s f).tok)).target = (tokenOfPayload s f).target ∧
          (∀ j, j ≠ tokKey s (tokenOfPayload s f).tok → tokenOf t j = tokenOf s j) ∧
          ∃ e ∈ t.agenda, e.pay = .ev (.handoffArrival (tokenOfPayload s f)))) ∧
    (n < 32 → linkCarries x = true → flitGood x k f = false → ∃ t, exec (.flitReceive n f) s = .next t ∧
      t = { s with links := t.links, agenda := t.agenda, seq := t.seq } ∧ (∀ j, j ≠ l → linkOf t j = linkOf s j) ∧
      (l < 8 → (linkOf t l).outq = x.outq) ∧ (8 ≤ l → ∃ o, (linkOf t l).outq = x.outq ++ [o] ∧ o.kind = 8 ∧ o.payload = x.expect.getD k 0 % 4096 + k * 2 ^ 12 + 2 ^ 13) ∧
      (x.frameReplays < 15 → x.st ≠ .retraining →
        linkOf t l = { y with st := .replaying, prev := if x.st = .replaying then x.prev else x.st, since := s.hkc + d, outq := (linkOf t l).outq } ∧
        (∀ e ∈ s.agenda, onEdge e = some (l, k) → { e with at_ := e.at_ + d } ∈ t.agenda) ∧
        (∀ e ∈ s.agenda, onEdge e ≠ some (l, k) → e ∈ t.agenda) ∧ ∃ e ∈ t.agenda, e.clk = .hub ∧ e.at_ = s.hkc + d ∧ e.ctx.arg = l ∧ e.pay = .ev .replayComplete) ∧
      (15 ≤ x.frameReplays → x.st ≠ .retraining →
        linkOf t l = { y with st := .retraining, retr := saturate (x.retr + 1) 0xFFFF, since := s.hkc, fails := 0, outq := (linkOf t l).outq } ∧
        ∃ e ∈ t.agenda, e.clk = .hub ∧ e.at_ = s.hkc + 262144 ∧ e.ctx.arg = l ∧ e.pay = .ev .retrainTimeout) ∧
      (x.st = .retraining → t.agenda = s.agenda ∧ linkOf t l = { x with outq := (linkOf t l).outq }))) ∧
  (∀ s : State, let x := linkOf s s.cur.arg
    (x.st = .replaying → x.since ≤ s.hkc → exec .replayComplete s = .next (setLink s s.cur.arg { x with st := x.prev })) ∧
    (x.st ≠ .replaying ∨ s.hkc < x.since → exec .replayComplete s = .next s))) ∧
  (∀ (s : State) (l : Nat), let x := linkOf s l
    let retires (i : Instr) : Prop := ∃ t, exec i s = .next t ∧ linkOf t l = { x with st := .retired, used := [], outq := [], unacked := [] } ∧ SameMemory s t ∧
      ((∀ e ∈ s.tokens, e.2.st = .inFlight → e.2.shares = 0) → t.banks = s.banks) ∧
      (∀ e ∈ t.agenda, ∀ k, onEdge e ≠ some (l, k)) ∧ (∀ e ∈ s.agenda, (∀ k, onEdge e ≠ some (l, k)) → e ∈ t.agenda) ∧
      (8 ≤ l → l < 10 → ∀ i, (tokenOf s i).st = .inFlight → (tokenOf s i).holder = custodyAgent s l → (tokenOf t i).st = .orphaned) ∧
      (l < 8 → ∀ e ∈ s.agenda, ∀ k h, onEdge e = some (l, k) → e.pay = .ev (.handoffArrival h) → (tokenOf s (tokKey s h.tok)).st = .inFlight →
        (tokenOf t (tokKey s h.tok)).st = .orphaned)
    let idle := ∀ e ∈ s.jobs, e.2.st ≠ .running
    (∀ failed ok, let i := Instr.linkTrainingDone l failed ok
      (x.st ≠ .training → x.st ≠ .retraining → exec i s = .next s) ∧
      (x.st = .training ∨ x.st = .retraining → ok = true → failed < linkWidth l → ∃ t, exec i s = .next t ∧ t = { s with links := t.links, agenda := t.agenda } ∧
        linkOf t l = { x with st := if failed = 0 then .up else .degraded, mods := linkWidth l - failed, fails := 0 } ∧ (∀ j, j ≠ l → linkOf t j = linkOf s j) ∧
        (∀ e ∈ s.agenda, ∀ k, onEdge e = some (l, k) → { e with at_ := e.at_ - retrainHold x s.hkc } ∈ t.agenda)) ∧
      (x.st = .training ∨ x.st = .retraining → ¬(ok = true ∧ failed < linkWidth l) →
        (x.fails + 1 < 3 → exec i s = .next (setLink s l { x with fails := x.fails + 1 })) ∧ (3 ≤ x.fails + 1 → idle → retires i))) ∧
    (s.cur.arg = l →
      (x.st = .retraining → x.since + 262144 ≤ s.hkc → idle → retires .retrainTimeout) ∧
      (x.st ≠ .retraining ∨ s.hkc < x.since + 262144 → exec .retrainTimeout s = .next s) ∧
      (x.st = .down → staysDown s l = false → exec .linkRetrainRequest s = .next (setLink s l { x with st := .training, fails := 0 })) ∧
      (x.st ≠ .down ∨ staysDown s l = true → exec .linkRetrainRequest s = .next s) ∧
      (x.st ≠ .retired → idle → retires .linkRetireRequest) ∧ (x.st = .retired → exec .linkRetireRequest s = .next s) ∧
      (x.st = .retired → exec .linkReset s = .next (setLink s l { Link.down with retr := x.retr, rply := x.rply })) ∧
      (x.st ≠ .retired → exec .linkReset s = .next s)) ∧
    (∀ ones : BitVec 32, x.rply < 2 ^ 32 → ∃ t, exec (.lstatRplyClear l ones) s = .next t ∧ t = { s with links := t.links } ∧
      (∀ j, j ≠ l → linkOf t j = linkOf s j) ∧ linkOf t l = { x with rply := (linkOf t l).rply } ∧
      ∀ n, n < 32 → bitOf (linkOf t l).rply n = (bitOf x.rply n && !ones.getLsbD n)))

/-- Host accesses (R243, R315, R376, R396): an access that the port does not take, or that its context's host window table or the host agent's tokens do
not allow, or that the memory turns away, gets an error status and changes no memory; a refresh slot holds one that they allow until it is over; one
that performs, within a line of this package, reads or writes its bytes. -/
def Obligations.HostAccessesPerform : Prop :=  ∀ (a : HostAcc) (s : State), let c := bitsOf a.off 40 8
    let x := contextOf s c
    let segs := segsOf x.hostTable (a.len + 1) (bitsOf a.off 0 40) a.len
    let pass := (x.st = .opened ∨ x.st = .halted) ∧ (segs.foldl (fun n g => n + g.len) 0) = a.len ∧ (a.wr = true → a.data.length = a.len) ∧
      (a.wr = true → commonsOk segs = true) ∧
      (∀ g ∈ segs, hostSegOk s x.hostTable a.wr g = true ∧ hostTokenOk s x.hostHeld x.hostTable a.wr g = true)
    (hostPortOpen s = false ∨ ¬pass → ∃ t, exec (.hostMemAccess a) s = .next t ∧ t.replies = (false, []) :: s.replies ∧
      t = { s with replies := t.replies, elog := t.elog, elogWr := t.elogWr, elogRd := t.elogRd, elogSeq := t.elogSeq, elogLost := t.elogLost }) ∧
    (hostPortOpen s = true → pass → hostHold s segs ≠ 0 → exec (.hostMemAccess a) s = .next (postHub s (hostHold s segs) (.hostMemAccess a))) ∧
    (hostPortOpen s = true → pass → hostHold s segs = 0 → (∃ g ∈ segs, hostSegFinds s c a.wr g = false) → ∃ t, exec (.hostMemAccess a) s = .next t ∧
      t.replies = (false, []) :: s.replies ∧ SameMemory s t ∧ t.banks = s.banks ∧ t.contexts = s.contexts) ∧
    (∀ g, hostPortOpen s = true → pass → segs = [g] → hostHold s segs = 0 → hostSegFinds s c a.wr g = true → paPkg g.pa = s.dev.pkg →
        paLocal g.pa % 64 + a.len ≤ 64 → s.Inv → Flawless s →
      (a.wr = false → exec (.hostMemAccess a) s = .next { s with replies := (true, readBytes s (paLocal g.pa) a.len) :: s.replies }) ∧
      (a.wr = true → ∃ t, exec (.hostMemAccess a) s = .next t ∧ t.replies = (true, []) :: s.replies ∧
        t = { s with mem := t.mem, contexts := t.contexts, replies := t.replies } ∧ readBytes t (paLocal g.pa) a.len = a.data ∧
        ∀ b, (∀ i, i < a.len → homeAddr b ≠ homeAddr (paLocal g.pa + i)) → readByte t b = readByte s b))

/-- Bring-up (R397, R398): with a verified firmware bank, stacks that train and a package number in range that no linked neighbour has the package is
ready, its memories but the host's cleared, its links trained and its frames begun; else it stays held at the step that fails. A package number set by the side-band stands for the next bring-up.
What management reads and writes (R386, R401, R403, R404): the error log's read index and its count of lost records; firmware goes into the bank that
is not running, and is verified; a measurement digests the running image, the fuses and the latency table; a sensor that reads hot holds the release
of waves, with one record, and the last that reads cool again resumes it. How the firmware is verified and digested is free (log entry 5). -/
def Obligations.PackagesComeUpAndAreManaged : Prop :=
  ((∀ s : State, let n := packageNumber s.part s.dev
    let held (k : Nat) : Prop := ∃ t, exec .powerUp s = .next t ∧ t.dev.fail = true ∧ t.dev.ready = false ∧ t.dev.step = k ∧ t.banks = [] ∧ t.agenda = []
    (s.dev.fwAok = false → s.dev.fwBok = false → held 0) ∧
    (s.dev.fwAok = true ∨ s.dev.fwBok = true → stackFails s.part = true → held 0) ∧
    (s.dev.fwAok = true ∨ s.dev.fwBok = true → stackFails s.part = false → numberFails s.part s.dev = true → held 1) ∧
    (s.dev.fwAok = true ∨ s.dev.fwBok = true → stackFails s.part = false → numberFails s.part s.dev = false → s.Inv → n.1 ≤ 15 ∧ n.2 ≤ 15 ∧ ∃ t, exec .powerUp s = .next t ∧ t.dev.ready = true ∧ t.dev.fail = false ∧
      t.dev.step = 4 ∧ t.dev.fwbank = !s.dev.fwAok ∧ t.dev.pkg = n.1 ∧ t.dev.east = n.2 ∧ t.banks = [] ∧ t.groups = [] ∧ t.kernels = [] ∧ t.queues = [] ∧
      t.contexts = [] ∧ t.tokens = [] ∧ t.barriers = [] ∧ t.part = s.part ∧
      (∀ a, readByte t a = if baseHost ≤ homeAddr a then readByte s a else 0) ∧ ∃ e ∈ t.agenda, e.clk = .hub ∧ e.at_ = t.hkc + 15712 ∧ e.pay = .ev .framePulse)) ∧
  (∀ (n east : Nat) (s : State), exec (.packageNumberSet n east) s = .next { s with dev := { s.dev with pkgSet := some (n, east) } })) ∧
  ((∀ (n : Nat) (ones : BitVec 32) (s : State), exec (.elogRdWrite n) s = .next { s with elogRd := n % 32768 } ∧
    (s.elogLost < 2 ^ 32 → ∃ t, exec (.elogLostClear ones) s = .next t ∧ t = { s with elogLost := t.elogLost } ∧
      ∀ k, k < 32 → bitOf t.elogLost k = (bitOf s.elogLost k && !ones.getLsbD k))) ∧
  (∀ (image sig : List Byte) (s : State),
    (s.dev.fwbank = false → exec (.firmwareUpdate image sig) s = .next { s with dev := { s.dev with fwB := image, fwBok := Config.verifies image sig } }) ∧
    (s.dev.fwbank = true → exec (.firmwareUpdate image sig) s = .next { s with dev := { s.dev with fwA := image, fwAok := Config.verifies image sig } }) ∧
    (exec .measurementRequest s = .next { s with dev := { s.dev with measured :=
      [Config.digest (if s.dev.fwbank then s.dev.fwB else s.dev.fwA), Config.digest (fuseBytes s.part), Config.digest (latencyBytes s)] } })) ∧
  (∀ s : State, let n := s.cur.arg
    (∃ t, exec .temperatureHigh s = .next t ∧ t.dev.thold = true ∧ SameMemory s t ∧ t.banks = s.banks ∧ t.agenda = s.agenda ∧
      (n < 8 → (stackOf t n).hot = true) ∧ (8 ≤ n → t.dev.hubHot = true) ∧ (s.dev.thold = true → t.elog = s.elog) ∧
      (s.dev.thold = false → (s.elogWr + 1) % 32768 ≠ s.elogRd → ∃ r, Sparse.find t.elog s.elogWr = some r ∧ r.src = 5 ∧ r.sev = 1 ∧ r.det = n)) ∧
    (∃ t, exec .temperatureNormal s = .next t ∧ SameMemory s t ∧ t.banks = s.banks ∧ (n < 8 → (stackOf t n).hot = false) ∧ (8 ≤ n → t.dev.hubHot = false) ∧
      (s.dev.thold = true → allCool t = true → t.dev.thold = false ∧ ∃ e ∈ t.agenda, e.clk = .hub ∧ e.at_ = s.hkc ∧ e.pay = .ev .placeWave) ∧
      (allCool t = false → t.dev.thold = s.dev.thold ∧ t.agenda = s.agenda))))

/-- What management does to tokens and barriers (R236, R347, R353, R354): it mints a token of a region, or again one that is lost or orphaned; arms a
barrier that is not armed, and frees one that is. Stacks taken offline (R289, R290), where no group is placed: STACK_OFFLINE moves every page homed on
the stack elsewhere, or is refused at the first that can go nowhere and leaves the stack in service; FORCED_OFFLINE loses them and the
pages of its scratchpads and its SRAM, with the tokens of their regions. The context 0 of a management mint and the form of its answer are the model's choice (log entry 15). -/
def Obligations.ManagementMintsArmsAndTakesStacksOff : Prop :=
  ((∀ (v : Dword) (s : State), let i := tokKey s (v.toNat % 2 ^ 32)
    let x := tokenOf s i
    let named := tokCurrent s (v.toNat % 2 ^ 32) = true ∧ tokHome (v.toNat % 2 ^ 32) = s.dev.pkg
    (regionOf s v = none → exec (.managementPathTkmint true v) s = .next (reply s false [0x05])) ∧
    (∀ r, regionOf s v = some r → anyFree s = false ∨ tokRoom s 0 = false → exec (.managementPathTkmint true v) s = .next (reply s false [0x08])) ∧
    (∀ base z, regionOf s v = some (base, z) → anyFree s = true → tokRoom s 0 = true →
      ∃ t j, exec (.managementPathTkmint true v) s = .next t ∧ j < 65536 ∧ (tokenOf s j).st = .free ∧
      t = { s with tokens := t.tokens, freeCtr := t.freeCtr, replies := (true, leBytes 8 (tokId t j)) :: s.replies } ∧
      (∀ k, k ≠ j → tokenOf t k = tokenOf s k) ∧
      tokenOf t j = { Token.free with st := .owned, size := z, base := base, gen := nextTokGen (tokenOf s j).gen, holder := managementAgent s, ctx := 0 }) ∧
    (named → x.st = .lost ∨ x.st = .orphaned → ∃ t, exec (.managementPathTkmint false v) s = .next t ∧
      t = { s with tokens := t.tokens, replies := (true, leBytes 8 (tokId t i)) :: s.replies } ∧ (∀ k, k ≠ i → tokenOf t k = tokenOf s k) ∧ (tokenOf t i).st = .owned ∧ (tokenOf t i).base = x.base ∧
      (tokenOf t i).size = x.size ∧ (tokenOf t i).gen = nextTokGen x.gen ∧ (tokenOf t i).holder = managementAgent s ∧ (tokenOf t i).shares = 0) ∧
    (¬named → exec (.managementPathTkmint false v) s = .next (reply s false [0x0C])) ∧
    (named → x.st ≠ .lost → x.st ≠ .orphaned → exec (.managementPathTkmint false v) s = .next (reply s false [0x05]))) ∧
  (∀ (m : BarmMsg) (s : State), let i := m.idx % 4096
    let u : State := { s with cur := Ctx.none }
    (i = 0 → exec (.managementPathBarrierArm m) s = .next s) ∧
    (i ≠ 0 → (barrierOf s i).state = 0 → ∃ t, exec (.managementPathBarrierArm m) s = .next t ∧ OnlyBarrier u t i ∧ (barrierOf t i).state = 1 ∧
      (barrierOf t i).n = m.n % 2 ^ 16 ∧ (barrierOf t i).bytes = m.bytes % 2 ^ 40 ∧ (barrierOf t i).pending = m.bytes % 2 ^ 40 ∧ (barrierOf t i).arr = 0 ∧
      (barrierOf t i).ctx = m.ctx ∧ (barrierOf t i).sig = m.sig) ∧
    (i ≠ 0 → (barrierOf s i).state ≠ 0 → exec (.managementPathBarrierArm m) s = .next (logRec u 3 1 0 m.ctx i none))) ∧
  (∀ (n : Nat) (s : State), let i := n % 4096
    let u : State := { s with cur := Ctx.none }
    (i = 0 → exec (.managementPathBarrierFree n) s = .next s) ∧
    (i ≠ 0 → (barrierOf s i).state ≠ 0 → ∃ t, exec (.managementPathBarrierFree n) s = .next t ∧ OnlyBarrier u t i ∧ barrierOf t i = Barrier.free) ∧
    (i ≠ 0 → (barrierOf s i).state = 0 → exec (.managementPathBarrierFree n) s = .next (logRec u 3 1 0 0 i none)))) ∧
  (∀ s : State, let z := s.cur.arg
    let u := setStack s z { stackOf s z with online := false }
    (stackPresent s z = false → exec .stackOffline s = .next s ∧ exec .forcedOffline s = .next s) ∧
    (stackPresent s z = true → (∀ e ∈ s.groups, holdsRows e.2 = false) →
      (∀ t, evacuateAll u z (allHomed s z) = (true, t) → exec .stackOffline s = .next t) ∧
      (∀ t, evacuateAll u z (allHomed s z) = (false, t) → exec .stackOffline s = .next (setStack t z { stackOf t z with online := true })) ∧
      (allHomed s z = [] → exec .stackOffline s = .next u) ∧ (allPages s z = [] → exec .forcedOffline s = .next u) ∧
      (∃ t, exec .forcedOffline s = .next t ∧ t = { u with frames := t.frames, tokens := t.tokens } ∧
        (Sparse.wf s.frames = true → ∀ p ∈ allPages s z, ∃ f, frameAt t ((frameOf s p.1 p.2).getD (paLocal (wePa p.2))) = some f ∧ f.2.st = .lost) ∧
        (∀ p ∈ allPages s z, ∀ i, i < 65536 → regionMeets s i ((frameOf s p.1 p.2).getD (paLocal (wePa p.2))) (Nat.log2 (pageBytes (weSize p.2))) = true →
          (tokenOf t i).st = .lost))))

/-- When a push or a pop completes, and with what (R57, R144, R145, R146). Under its guard `vpush` completes for every stream and source where the lanes
that `k0` picks have room: they are appended in lane order, and none picked changes nothing. `vpush.bal` completes as `vpush` where its row's partner
runs no strand of its group, and else where both streams have room for them together: each entry goes to the shorter stream, and on a tie to the even
row's. `vpop` completes for every stream and mask, of an empty stream with zeros and no lane; its values land 2 kc later. Guarded off, none of them has
an effect. -/
def Obligations.PushesAndPopsComplete : Prop :=  ∀ (g : BitVec 4) (d a b : BitVec 6) (n : BitVec 1) (s : State),
    let bk := s.cur.bank
    let ws := (List.range 128).filterMap (fun l => if (maskOf (curStrand s) 0).getLsbD l then some (lane (srcV s a) l) else none)
    let holds (u : State) (x : Nat) (l : List Word) : State := setStrand u x { strandOf u x with q := (strandOf u x).q.put d.toNat l }
    let q (x : Nat) := streamOf (strandOf s x) d.toNat
    (guardOn s g = false → ∀ i ∈ [Instr.vpush g d a, .vpushBal g d a, .vpop g d a b n], exec i s = .next s) ∧
    (guardOn s g = true →
      ((q bk).length + ws.length ≤ 512 →
        exec (.vpush g d a) s = .next (holds s bk (q bk ++ ws)) ∧ (ws = [] → ∀ j, streamOf (strandOf (holds s bk (q bk ++ ws)) bk) j = streamOf (curStrand s) j)) ∧
      (pairBank s bk = none → (q bk).length + ws.length ≤ 512 → exec (.vpushBal g d a) s = .next (holds s bk (q bk ++ ws))) ∧
      (∀ o, pairBank s bk = some o → (q bk).length ≤ 512 → (q o).length ≤ 512 → (q bk).length + (q o).length + ws.length ≤ 1024 →
        let even := if bankRow bk % 2 = 0 then bk else o
        let odd := if bankRow bk % 2 = 0 then o else bk
        let r := balance ws (q even) (q odd)
        exec (.vpushBal g d a) s = .next (holds (holds s even r.1) odd r.2)) ∧
      (let src := streamOf (curStrand s) a.toNat
       let c := min 128 src.length
       let x : Vec := ofLanes (fun l => if l < c then src.getD l 0 else 0)
       let k : Mask := ofMaskBits (fun l => decide (l < c))
       let t := landLater (setStrand s bk { curStrand s with q := (curStrand s).q.put a.toNat (src.drop c) }) 2
         (.regs (vecWrites (latchOf s) d n x ++ [.k b.toNat k])) 0
       exec (.vpop g d a b n) s = .next t ∧ (∀ l, l < 128 → lane x l = if l < c then src.getD l 0 else 0) ∧
         (∀ l, l < 128 → k.getLsbD l = decide (l < c)) ∧ (src = [] → (∀ l, l < 128 → lane x l = 0) ∧ k = 0))) ∧
    (∀ (w : Word) (l e f : List Word), balance [] e f = (e, f) ∧
      balance (w :: l) e f = if e.length ≤ f.length then balance l (e ++ [w]) f else balance l e (f ++ [w]))

/-- Where control words, V memory words and host accesses complete (R57, R62, R69, R98, R99, R100, R141, R142, R396), each under conditions on the state
and its operands alone. Under its guard a `br`, `call` or `jr` takes its strand to its target, fetched 3 kc later plus the target's idle; `call` and `jr`
post their link for 1 kc later. A `loop` or `loopi` runs under no guard: a count of 0 takes the strand past the body, fetched 2 kc later plus the idle,
any other count pushes an entry and takes it to the body, fetched 1 kc later plus the idle. Under its guard a `vld`, `vst` or `vldg` sends one access and
changes nothing else. A host access that the port takes, its context's table and tokens allow, no refresh slot holds and the memory finds is answered: a
write with no bytes, a read with as many as it asked for. -/
def Obligations.BranchesLoopsVectorAndHostAccessesComplete : Prop :=
  (∀ (g : BitVec 4) (o : BitVec 19) (d a : BitVec 5) (s : State), guardOn s g = true →
    let b := s.cur.bank
    let dest : Nat := ((s.cur.hdr : Int) + 4 * o.toInt).toNat
    let goes (t : State) (n : Nat) : Prop := (strandOf t b).cp = n ∧ SameRegisters (strandOf s b) (strandOf t b) ∧ OnlyBank s t b ∧
      ∃ e ∈ t.agenda, e.pay = .fetch b ∧ e.clk = ctxClk s.cur ∧ e.at_ = now s + 3 + idleAt s b n
    let links (t : State) (r : Nat) : Prop := s.cur.drain = false → ∃ e ∈ t.agenda, e.clk = ctxClk s.cur ∧ e.at_ = now s + 1 ∧
      e.pay = .ev (.resultLand { kind := .regs [.s r (BitVec.ofNat 64 s.cur.nxt)], flags := 0 })
    (∃ t, Sys2Proof.Machine.exec (.br g o) s = .next t ∧ goes t dest ∧ (strandOf t b).loops = popLoops (strandOf s b).loops dest) ∧
    (∃ t, Sys2Proof.Machine.exec (.call g o) s = .next t ∧ goes t dest ∧ links t 1 ∧ (strandOf t b).loops = (strandOf s b).loops) ∧
    (∃ t, Sys2Proof.Machine.exec (.jr g d a) s = .next t ∧ goes t (srcS s a).toNat ∧ links t d.toNat ∧
      (strandOf t b).loops = popLoops (strandOf s b).loops (srcS s a).toNat)) ∧
  (∀ (a : BitVec 5) (l : BitVec 14) (c : BitVec 10) (l2 : BitVec 9) (s : State),
    let b := s.cur.bank
    let begins (t : State) (n len : Nat) : Prop := SameRegisters (strandOf s b) (strandOf t b) ∧ OnlyBank s t b ∧
      (n = 0 → (strandOf t b).cp = s.cur.nxt + 4 * len ∧ (strandOf t b).loops = (strandOf s b).loops ∧
        ∃ e ∈ t.agenda, e.pay = .fetch b ∧ e.clk = ctxClk s.cur ∧ e.at_ = now s + 2 + idleAt s b (s.cur.nxt + 4 * len)) ∧
      (n ≠ 0 → (strandOf t b).cp = s.cur.nxt ∧
        (strandOf t b).loops = { start := s.cur.nxt, stop := s.cur.nxt + 4 * len, left := n } :: (strandOf s b).loops ∧
        ∃ e ∈ t.agenda, e.pay = .fetch b ∧ e.clk = ctxClk s.cur ∧ e.at_ = now s + 1 + idleAt s b s.cur.nxt)
    (∃ t, Sys2Proof.Machine.exec (.loop a l) s = .next t ∧ begins t ((srcS s a).toNat % 2 ^ 32) l.toNat) ∧
    (∃ t, Sys2Proof.Machine.exec (.loopi c l2) s = .next t ∧ begins t (loopCount s.cur.pre c) l2.toNat)) ∧
  (∀ (g : BitVec 4) (d i : BitVec 6) (b : BitVec 5) (o c : BitVec 4) (k : BitVec 2) (s : State), guardOn s g = true → s.cur.drain = false →
    let va := (s.cur.ra + BitVec.ofNat 64 (o.toNat * 512)).toNat
    let pa := (translate s.cur va).getD 0
    let one (t : State) (n : Nat) (a : Access) : Prop := t = { s with agenda := t.agenda, seq := s.seq + 1 } ∧
      ∃ e, t.agenda = s.agenda ++ [e] ∧ e.clk = ctxClk s.cur ∧ e.at_ = now s + n ∧ e.ctx = s.cur ∧ e.pay = .ev (.accessPerform a)
    (∃ t, Sys2Proof.Machine.exec (.vld g d b o c) s = .next t ∧
      one t (vLatency s.cur.bank pa - 1) { op := .vload d.toNat false (latchOf s), va := va, pa := pa, len := 512, cls := c.toNat, lag := 1 }) ∧
    (∃ t, Sys2Proof.Machine.exec (.vst g d b o c) s = .next t ∧
      one t (vLatency s.cur.bank pa - 1) { op := .vstore (vecOf (curStrand s) d.toNat), va := va, pa := pa, len := 512, cls := c.toNat, lag := 0 }) ∧
    (∃ t, Sys2Proof.Machine.exec (.vldg g d i b k) s = .next t ∧
      one t 7
        { op := .vgather d.toNat false (latchOf s) ((List.range 128).map (fun l => gatherLane s s.cur.ra (lane (vecOf (curStrand s) i.toNat) l))),
          va := s.cur.ra.toNat, pa := 0, len := 4, cls := k.toNat, lag := 1 })) ∧
  (∀ (a : HostAcc) (s : State), let c := bitsOf a.off 40 8
    let x := contextOf s c
    let segs := segsOf x.hostTable (a.len + 1) (bitsOf a.off 0 40) a.len
    hostPortOpen s = true → (x.st = .opened ∨ x.st = .halted) → (segs.foldl (fun n g => n + g.len) 0) = a.len →
    (a.wr = true → a.data.length = a.len ∧ commonsOk segs = true) →
    (∀ g ∈ segs, hostSegOk s x.hostTable a.wr g = true ∧ hostTokenOk s x.hostHeld x.hostTable a.wr g = true) →
    hostHold s segs = 0 → (∀ g ∈ segs, hostSegFinds s c a.wr g = true) →
    (a.wr = true → ∃ t, Sys2Proof.Machine.exec (.hostMemAccess a) s = .next t ∧ t.replies = (true, []) :: s.replies ∧ t.banks = s.banks) ∧
    (a.wr = false → ∃ t bs, Sys2Proof.Machine.exec (.hostMemAccess a) s = .next t ∧ t.replies = (true, bs) :: s.replies ∧ bs.length = a.len ∧
      t.banks = s.banks))
end

