-- ==== Sys2Proof/Laws/Sparse.lean ====
section
/-! SUPPORT. The laws of sparse maps: what a read finds after a write or a removal, and that the keys stay strictly rising. -/

namespace Sys2Proof

@[simp] theorem Sparse.find_put_self {α : Type} (m : Sparse α) (k : Nat) (x : α) : Sparse.find (Sparse.put m k x) k = some x := by
  induction m with
  | nil => simp [Sparse.put, Sparse.find]
  | cons e t ih =>
    obtain ⟨a, y⟩ := e
    simp only [Sparse.put]
    split
    · simp [Sparse.find]
    · split
      · simp [Sparse.find]
      · rename_i h; simp [Sparse.find, ih, Ne.symm h]

theorem Sparse.find_put_ne {α : Type} (m : Sparse α) {k j : Nat} (x : α) (h : j ≠ k) :
    Sparse.find (Sparse.put m k x) j = Sparse.find m j := by
  induction m with
  | nil => simp [Sparse.put, Sparse.find, Ne.symm h]
  | cons e t ih =>
    obtain ⟨a, y⟩ := e
    simp only [Sparse.put]
    split
    · simp [Sparse.find, Ne.symm h]
    · split
      · rename_i hk; subst hk; simp [Sparse.find, Ne.symm h]
      · simp only [Sparse.find, ih]

@[simp] theorem Sparse.getD_put_self {α : Type} (m : Sparse α) (k : Nat) (x d : α) : Sparse.getD (Sparse.put m k x) k d = x := by
  simp [Sparse.getD]

theorem Sparse.getD_put_ne {α : Type} (m : Sparse α) {k j : Nat} (x d : α) (h : j ≠ k) :
    Sparse.getD (Sparse.put m k x) j d = Sparse.getD m j d := by
  simp [Sparse.getD, Sparse.find_put_ne m x h]

/-- A write at `k` leaves the keys rising from any bound that lies at or below `k`. -/
theorem Sparse.risesFrom_put {α : Type} (m : Sparse α) (lo k : Nat) (x : α) (hm : Sparse.risesFrom lo m = true) (hk : lo ≤ k) :
    Sparse.risesFrom lo (Sparse.put m k x) = true := by
  induction m generalizing lo with
  | nil => simp [Sparse.put, Sparse.risesFrom, hk]
  | cons e t ih =>
    obtain ⟨a, y⟩ := e
    simp only [Sparse.risesFrom, Bool.and_eq_true, decide_eq_true_eq] at hm
    simp only [Sparse.put]
    split
    · rename_i h
      simp only [Sparse.risesFrom, Bool.and_eq_true, decide_eq_true_eq]
      exact ⟨hk, by omega, hm.2⟩
    · split
      · rename_i h; subst h; simp [Sparse.risesFrom, hk, hm.2]
      · simp only [Sparse.risesFrom, Bool.and_eq_true, decide_eq_true_eq]
        exact ⟨hm.1, ih (a + 1) hm.2 (by omega)⟩

/-- A write keeps the canonical form of the keys. -/
theorem Sparse.wf_put {α : Type} (m : Sparse α) (k : Nat) (x : α) (hm : Sparse.wf m = true) : Sparse.wf (Sparse.put m k x) = true :=
  Sparse.risesFrom_put m 0 k x hm (Nat.zero_le k)

end Sys2Proof
end

