-- ==== Sys2Proof/Laws/State.lean ====
section
/-! SUPPORT. One lemma per field and update: what each of the state's named updates leaves and sets, and what the readers find after
it. -/

namespace Sys2Proof.Machine

@[simp] theorem setStrand_hkc (s : State) (b : Nat) (t : Strand) : (setStrand s b t).hkc = s.hkc := rfl
@[simp] theorem setStrand_turned (s : State) (b : Nat) (t : Strand) : (setStrand s b t).turned = s.turned := rfl
@[simp] theorem setStrand_seq (s : State) (b : Nat) (t : Strand) : (setStrand s b t).seq = s.seq := rfl
@[simp] theorem setStrand_freeCtr (s : State) (b : Nat) (t : Strand) : (setStrand s b t).freeCtr = s.freeCtr := rfl
@[simp] theorem setStrand_cur (s : State) (b : Nat) (t : Strand) : (setStrand s b t).cur = s.cur := rfl
@[simp] theorem setStrand_inputs (s : State) (b : Nat) (t : Strand) : (setStrand s b t).inputs = s.inputs := rfl
@[simp] theorem setStrand_agenda (s : State) (b : Nat) (t : Strand) : (setStrand s b t).agenda = s.agenda := rfl
@[simp] theorem setStrand_mem (s : State) (b : Nat) (t : Strand) : (setStrand s b t).mem = s.mem := rfl
@[simp] theorem setStrand_part (s : State) (b : Nat) (t : Strand) : (setStrand s b t).part = s.part := rfl
@[simp] theorem setStrand_dev (s : State) (b : Nat) (t : Strand) : (setStrand s b t).dev = s.dev := rfl
@[simp] theorem setStrand_stacks (s : State) (b : Nat) (t : Strand) : (setStrand s b t).stackTab = s.stackTab := rfl
@[simp] theorem setStrand_rows (s : State) (b : Nat) (t : Strand) : (setStrand s b t).rows = s.rows := rfl
@[simp] theorem setStrand_banks (s : State) (b : Nat) (t : Strand) : (setStrand s b t).banks = s.banks.put b t := rfl
@[simp] theorem setStrand_contexts (s : State) (b : Nat) (t : Strand) : (setStrand s b t).contexts = s.contexts := rfl
@[simp] theorem setStrand_queues (s : State) (b : Nat) (t : Strand) : (setStrand s b t).queues = s.queues := rfl
@[simp] theorem setStrand_lastServed (s : State) (b : Nat) (t : Strand) : (setStrand s b t).lastServed = s.lastServed := rfl
@[simp] theorem setStrand_kernels (s : State) (b : Nat) (t : Strand) : (setStrand s b t).kernels = s.kernels := rfl
@[simp] theorem setStrand_nextKernel (s : State) (b : Nat) (t : Strand) : (setStrand s b t).nextKernel = s.nextKernel := rfl
@[simp] theorem setStrand_groups (s : State) (b : Nat) (t : Strand) : (setStrand s b t).groups = s.groups := rfl
@[simp] theorem setStrand_waves (s : State) (b : Nat) (t : Strand) : (setStrand s b t).waves = s.waves := rfl
@[simp] theorem setStrand_nextWave (s : State) (b : Nat) (t : Strand) : (setStrand s b t).nextWave = s.nextWave := rfl
@[simp] theorem setStrand_tokens (s : State) (b : Nat) (t : Strand) : (setStrand s b t).tokens = s.tokens := rfl
@[simp] theorem setStrand_barriers (s : State) (b : Nat) (t : Strand) : (setStrand s b t).barriers = s.barriers := rfl
@[simp] theorem setStrand_jobs (s : State) (b : Nat) (t : Strand) : (setStrand s b t).jobs = s.jobs := rfl
@[simp] theorem setStrand_nextJob (s : State) (b : Nat) (t : Strand) : (setStrand s b t).nextJob = s.nextJob := rfl
@[simp] theorem setStrand_links (s : State) (b : Nat) (t : Strand) : (setStrand s b t).links = s.links := rfl
@[simp] theorem setStrand_elog (s : State) (b : Nat) (t : Strand) : (setStrand s b t).elog = s.elog := rfl
@[simp] theorem setStrand_elogSeq (s : State) (b : Nat) (t : Strand) : (setStrand s b t).elogSeq = s.elogSeq := rfl
@[simp] theorem setStrand_elogWr (s : State) (b : Nat) (t : Strand) : (setStrand s b t).elogWr = s.elogWr := rfl
@[simp] theorem setStrand_elogRd (s : State) (b : Nat) (t : Strand) : (setStrand s b t).elogRd = s.elogRd := rfl
@[simp] theorem setStrand_elogLost (s : State) (b : Nat) (t : Strand) : (setStrand s b t).elogLost = s.elogLost := rfl
@[simp] theorem setStrand_frames (s : State) (b : Nat) (t : Strand) : (setStrand s b t).frames = s.frames := rfl
@[simp] theorem setStrand_pages (s : State) (b : Nat) (t : Strand) : (setStrand s b t).pages = s.pages := rfl
@[simp] theorem setStrand_nextPage (s : State) (b : Nat) (t : Strand) : (setStrand s b t).nextPage = s.nextPage := rfl
@[simp] theorem setStrand_bounce (s : State) (b : Nat) (t : Strand) : (setStrand s b t).bounce = s.bounce := rfl
@[simp] theorem setStrand_cells (s : State) (b : Nat) (t : Strand) : (setStrand s b t).cells = s.cells := rfl
@[simp] theorem setStrand_flips (s : State) (b : Nat) (t : Strand) : (setStrand s b t).flips = s.flips := rfl
@[simp] theorem setStrand_sramBad (s : State) (b : Nat) (t : Strand) : (setStrand s b t).sramBad = s.sramBad := rfl
@[simp] theorem setStrand_sramCount (s : State) (b : Nat) (t : Strand) : (setStrand s b t).sramCount = s.sramCount := rfl
@[simp] theorem setStrand_msix (s : State) (b : Nat) (t : Strand) : (setStrand s b t).msix = s.msix := rfl
@[simp] theorem setStrand_sent (s : State) (b : Nat) (t : Strand) : (setStrand s b t).sent = s.sent := rfl
@[simp] theorem setStrand_replies (s : State) (b : Nat) (t : Strand) : (setStrand s b t).replies = s.replies := rfl

@[simp] theorem strandOf_setStrand_self (s : State) (b : Nat) (t : Strand) : strandOf (setStrand s b t) b = t := Sparse.getD_put_self _ _ _ _
theorem strandOf_setStrand_ne (s : State) (b j : Nat) (t : Strand) (h : j ≠ b) : strandOf (setStrand s b t) j = strandOf s j := Sparse.getD_put_ne _ _ _ h
@[simp] theorem rowOf_setStrand (s : State) (b j : Nat) (t : Strand) : rowOf (setStrand s b t) j = rowOf s j := rfl
@[simp] theorem stackOf_setStrand (s : State) (b j : Nat) (t : Strand) : stackOf (setStrand s b t) j = stackOf s j := rfl
@[simp] theorem groupOf_setStrand (s : State) (b j : Nat) (t : Strand) : groupOf (setStrand s b t) j = groupOf s j := rfl
@[simp] theorem kernelOf_setStrand (s : State) (b j : Nat) (t : Strand) : kernelOf (setStrand s b t) j = kernelOf s j := rfl
@[simp] theorem contextOf_setStrand (s : State) (b j : Nat) (t : Strand) : contextOf (setStrand s b t) j = contextOf s j := rfl
@[simp] theorem queueOf_setStrand (s : State) (b j : Nat) (t : Strand) : queueOf (setStrand s b t) j = queueOf s j := rfl
@[simp] theorem tokenOf_setStrand (s : State) (b j : Nat) (t : Strand) : tokenOf (setStrand s b t) j = tokenOf s j := rfl
@[simp] theorem barrierOf_setStrand (s : State) (b j : Nat) (t : Strand) : barrierOf (setStrand s b t) j = barrierOf s j := rfl
@[simp] theorem linkOf_setStrand (s : State) (b j : Nat) (t : Strand) : linkOf (setStrand s b t) j = linkOf s j := rfl
@[simp] theorem readByte_setStrand (s : State) (b a : Nat) (t : Strand) : readByte (setStrand s b t) a = readByte s a := rfl

@[simp] theorem setRow_hkc (s : State) (r : Nat) (x : Row) : (setRow s r x).hkc = s.hkc := rfl
@[simp] theorem setRow_turned (s : State) (r : Nat) (x : Row) : (setRow s r x).turned = s.turned := rfl
@[simp] theorem setRow_seq (s : State) (r : Nat) (x : Row) : (setRow s r x).seq = s.seq := rfl
@[simp] theorem setRow_freeCtr (s : State) (r : Nat) (x : Row) : (setRow s r x).freeCtr = s.freeCtr := rfl
@[simp] theorem setRow_cur (s : State) (r : Nat) (x : Row) : (setRow s r x).cur = s.cur := rfl
@[simp] theorem setRow_inputs (s : State) (r : Nat) (x : Row) : (setRow s r x).inputs = s.inputs := rfl
@[simp] theorem setRow_agenda (s : State) (r : Nat) (x : Row) : (setRow s r x).agenda = s.agenda := rfl
@[simp] theorem setRow_mem (s : State) (r : Nat) (x : Row) : (setRow s r x).mem = s.mem := rfl
@[simp] theorem setRow_part (s : State) (r : Nat) (x : Row) : (setRow s r x).part = s.part := rfl
@[simp] theorem setRow_dev (s : State) (r : Nat) (x : Row) : (setRow s r x).dev = s.dev := rfl
@[simp] theorem setRow_stacks (s : State) (r : Nat) (x : Row) : (setRow s r x).stackTab = s.stackTab := rfl
@[simp] theorem setRow_rows (s : State) (r : Nat) (x : Row) : (setRow s r x).rows = s.rows.put r x := rfl
@[simp] theorem setRow_banks (s : State) (r : Nat) (x : Row) : (setRow s r x).banks = s.banks := rfl
@[simp] theorem setRow_contexts (s : State) (r : Nat) (x : Row) : (setRow s r x).contexts = s.contexts := rfl
@[simp] theorem setRow_queues (s : State) (r : Nat) (x : Row) : (setRow s r x).queues = s.queues := rfl
@[simp] theorem setRow_lastServed (s : State) (r : Nat) (x : Row) : (setRow s r x).lastServed = s.lastServed := rfl
@[simp] theorem setRow_kernels (s : State) (r : Nat) (x : Row) : (setRow s r x).kernels = s.kernels := rfl
@[simp] theorem setRow_nextKernel (s : State) (r : Nat) (x : Row) : (setRow s r x).nextKernel = s.nextKernel := rfl
@[simp] theorem setRow_groups (s : State) (r : Nat) (x : Row) : (setRow s r x).groups = s.groups := rfl
@[simp] theorem setRow_waves (s : State) (r : Nat) (x : Row) : (setRow s r x).waves = s.waves := rfl
@[simp] theorem setRow_nextWave (s : State) (r : Nat) (x : Row) : (setRow s r x).nextWave = s.nextWave := rfl
@[simp] theorem setRow_tokens (s : State) (r : Nat) (x : Row) : (setRow s r x).tokens = s.tokens := rfl
@[simp] theorem setRow_barriers (s : State) (r : Nat) (x : Row) : (setRow s r x).barriers = s.barriers := rfl
@[simp] theorem setRow_jobs (s : State) (r : Nat) (x : Row) : (setRow s r x).jobs = s.jobs := rfl
@[simp] theorem setRow_nextJob (s : State) (r : Nat) (x : Row) : (setRow s r x).nextJob = s.nextJob := rfl
@[simp] theorem setRow_links (s : State) (r : Nat) (x : Row) : (setRow s r x).links = s.links := rfl
@[simp] theorem setRow_elog (s : State) (r : Nat) (x : Row) : (setRow s r x).elog = s.elog := rfl
@[simp] theorem setRow_elogSeq (s : State) (r : Nat) (x : Row) : (setRow s r x).elogSeq = s.elogSeq := rfl
@[simp] theorem setRow_elogWr (s : State) (r : Nat) (x : Row) : (setRow s r x).elogWr = s.elogWr := rfl
@[simp] theorem setRow_elogRd (s : State) (r : Nat) (x : Row) : (setRow s r x).elogRd = s.elogRd := rfl
@[simp] theorem setRow_elogLost (s : State) (r : Nat) (x : Row) : (setRow s r x).elogLost = s.elogLost := rfl
@[simp] theorem setRow_frames (s : State) (r : Nat) (x : Row) : (setRow s r x).frames = s.frames := rfl
@[simp] theorem setRow_pages (s : State) (r : Nat) (x : Row) : (setRow s r x).pages = s.pages := rfl
@[simp] theorem setRow_nextPage (s : State) (r : Nat) (x : Row) : (setRow s r x).nextPage = s.nextPage := rfl
@[simp] theorem setRow_bounce (s : State) (r : Nat) (x : Row) : (setRow s r x).bounce = s.bounce := rfl
@[simp] theorem setRow_cells (s : State) (r : Nat) (x : Row) : (setRow s r x).cells = s.cells := rfl
@[simp] theorem setRow_flips (s : State) (r : Nat) (x : Row) : (setRow s r x).flips = s.flips := rfl
@[simp] theorem setRow_sramBad (s : State) (r : Nat) (x : Row) : (setRow s r x).sramBad = s.sramBad := rfl
@[simp] theorem setRow_sramCount (s : State) (r : Nat) (x : Row) : (setRow s r x).sramCount = s.sramCount := rfl
@[simp] theorem setRow_msix (s : State) (r : Nat) (x : Row) : (setRow s r x).msix = s.msix := rfl
@[simp] theorem setRow_sent (s : State) (r : Nat) (x : Row) : (setRow s r x).sent = s.sent := rfl
@[simp] theorem setRow_replies (s : State) (r : Nat) (x : Row) : (setRow s r x).replies = s.replies := rfl

@[simp] theorem strandOf_setRow (s : State) (r j : Nat) (x : Row) : strandOf (setRow s r x) j = strandOf s j := rfl
@[simp] theorem rowOf_setRow_self (s : State) (r : Nat) (x : Row) : rowOf (setRow s r x) r = x := Sparse.getD_put_self _ _ _ _
theorem rowOf_setRow_ne (s : State) (r j : Nat) (x : Row) (h : j ≠ r) : rowOf (setRow s r x) j = rowOf s j := Sparse.getD_put_ne _ _ _ h
@[simp] theorem stackOf_setRow (s : State) (r j : Nat) (x : Row) : stackOf (setRow s r x) j = stackOf s j := rfl
@[simp] theorem groupOf_setRow (s : State) (r j : Nat) (x : Row) : groupOf (setRow s r x) j = groupOf s j := rfl
@[simp] theorem kernelOf_setRow (s : State) (r j : Nat) (x : Row) : kernelOf (setRow s r x) j = kernelOf s j := rfl
@[simp] theorem contextOf_setRow (s : State) (r j : Nat) (x : Row) : contextOf (setRow s r x) j = contextOf s j := rfl
@[simp] theorem queueOf_setRow (s : State) (r j : Nat) (x : Row) : queueOf (setRow s r x) j = queueOf s j := rfl
@[simp] theorem tokenOf_setRow (s : State) (r j : Nat) (x : Row) : tokenOf (setRow s r x) j = tokenOf s j := rfl
@[simp] theorem barrierOf_setRow (s : State) (r j : Nat) (x : Row) : barrierOf (setRow s r x) j = barrierOf s j := rfl
@[simp] theorem linkOf_setRow (s : State) (r j : Nat) (x : Row) : linkOf (setRow s r x) j = linkOf s j := rfl
@[simp] theorem readByte_setRow (s : State) (r a : Nat) (x : Row) : readByte (setRow s r x) a = readByte s a := rfl

@[simp] theorem setStack_hkc (s : State) (z : Nat) (x : Stack) : (setStack s z x).hkc = s.hkc := rfl
@[simp] theorem setStack_turned (s : State) (z : Nat) (x : Stack) : (setStack s z x).turned = s.turned := rfl
@[simp] theorem setStack_seq (s : State) (z : Nat) (x : Stack) : (setStack s z x).seq = s.seq := rfl
@[simp] theorem setStack_freeCtr (s : State) (z : Nat) (x : Stack) : (setStack s z x).freeCtr = s.freeCtr := rfl
@[simp] theorem setStack_cur (s : State) (z : Nat) (x : Stack) : (setStack s z x).cur = s.cur := rfl
@[simp] theorem setStack_inputs (s : State) (z : Nat) (x : Stack) : (setStack s z x).inputs = s.inputs := rfl
@[simp] theorem setStack_agenda (s : State) (z : Nat) (x : Stack) : (setStack s z x).agenda = s.agenda := rfl
@[simp] theorem setStack_mem (s : State) (z : Nat) (x : Stack) : (setStack s z x).mem = s.mem := rfl
@[simp] theorem setStack_part (s : State) (z : Nat) (x : Stack) : (setStack s z x).part = s.part := rfl
@[simp] theorem setStack_dev (s : State) (z : Nat) (x : Stack) : (setStack s z x).dev = s.dev := rfl
@[simp] theorem setStack_stacks (s : State) (z : Nat) (x : Stack) : (setStack s z x).stackTab = s.stackTab.put z x := rfl
@[simp] theorem setStack_rows (s : State) (z : Nat) (x : Stack) : (setStack s z x).rows = s.rows := rfl
@[simp] theorem setStack_banks (s : State) (z : Nat) (x : Stack) : (setStack s z x).banks = s.banks := rfl
@[simp] theorem setStack_contexts (s : State) (z : Nat) (x : Stack) : (setStack s z x).contexts = s.contexts := rfl
@[simp] theorem setStack_queues (s : State) (z : Nat) (x : Stack) : (setStack s z x).queues = s.queues := rfl
@[simp] theorem setStack_lastServed (s : State) (z : Nat) (x : Stack) : (setStack s z x).lastServed = s.lastServed := rfl
@[simp] theorem setStack_kernels (s : State) (z : Nat) (x : Stack) : (setStack s z x).kernels = s.kernels := rfl
@[simp] theorem setStack_nextKernel (s : State) (z : Nat) (x : Stack) : (setStack s z x).nextKernel = s.nextKernel := rfl
@[simp] theorem setStack_groups (s : State) (z : Nat) (x : Stack) : (setStack s z x).groups = s.groups := rfl
@[simp] theorem setStack_waves (s : State) (z : Nat) (x : Stack) : (setStack s z x).waves = s.waves := rfl
@[simp] theorem setStack_nextWave (s : State) (z : Nat) (x : Stack) : (setStack s z x).nextWave = s.nextWave := rfl
@[simp] theorem setStack_tokens (s : State) (z : Nat) (x : Stack) : (setStack s z x).tokens = s.tokens := rfl
@[simp] theorem setStack_barriers (s : State) (z : Nat) (x : Stack) : (setStack s z x).barriers = s.barriers := rfl
@[simp] theorem setStack_jobs (s : State) (z : Nat) (x : Stack) : (setStack s z x).jobs = s.jobs := rfl
@[simp] theorem setStack_nextJob (s : State) (z : Nat) (x : Stack) : (setStack s z x).nextJob = s.nextJob := rfl
@[simp] theorem setStack_links (s : State) (z : Nat) (x : Stack) : (setStack s z x).links = s.links := rfl
@[simp] theorem setStack_elog (s : State) (z : Nat) (x : Stack) : (setStack s z x).elog = s.elog := rfl
@[simp] theorem setStack_elogSeq (s : State) (z : Nat) (x : Stack) : (setStack s z x).elogSeq = s.elogSeq := rfl
@[simp] theorem setStack_elogWr (s : State) (z : Nat) (x : Stack) : (setStack s z x).elogWr = s.elogWr := rfl
@[simp] theorem setStack_elogRd (s : State) (z : Nat) (x : Stack) : (setStack s z x).elogRd = s.elogRd := rfl
@[simp] theorem setStack_elogLost (s : State) (z : Nat) (x : Stack) : (setStack s z x).elogLost = s.elogLost := rfl
@[simp] theorem setStack_frames (s : State) (z : Nat) (x : Stack) : (setStack s z x).frames = s.frames := rfl
@[simp] theorem setStack_pages (s : State) (z : Nat) (x : Stack) : (setStack s z x).pages = s.pages := rfl
@[simp] theorem setStack_nextPage (s : State) (z : Nat) (x : Stack) : (setStack s z x).nextPage = s.nextPage := rfl
@[simp] theorem setStack_bounce (s : State) (z : Nat) (x : Stack) : (setStack s z x).bounce = s.bounce := rfl
@[simp] theorem setStack_cells (s : State) (z : Nat) (x : Stack) : (setStack s z x).cells = s.cells := rfl
@[simp] theorem setStack_flips (s : State) (z : Nat) (x : Stack) : (setStack s z x).flips = s.flips := rfl
@[simp] theorem setStack_sramBad (s : State) (z : Nat) (x : Stack) : (setStack s z x).sramBad = s.sramBad := rfl
@[simp] theorem setStack_sramCount (s : State) (z : Nat) (x : Stack) : (setStack s z x).sramCount = s.sramCount := rfl
@[simp] theorem setStack_msix (s : State) (z : Nat) (x : Stack) : (setStack s z x).msix = s.msix := rfl
@[simp] theorem setStack_sent (s : State) (z : Nat) (x : Stack) : (setStack s z x).sent = s.sent := rfl
@[simp] theorem setStack_replies (s : State) (z : Nat) (x : Stack) : (setStack s z x).replies = s.replies := rfl

@[simp] theorem strandOf_setStack (s : State) (z j : Nat) (x : Stack) : strandOf (setStack s z x) j = strandOf s j := rfl
@[simp] theorem rowOf_setStack (s : State) (z j : Nat) (x : Stack) : rowOf (setStack s z x) j = rowOf s j := rfl
@[simp] theorem stackOf_setStack_self (s : State) (z : Nat) (x : Stack) : stackOf (setStack s z x) z = x := Sparse.getD_put_self _ _ _ _
theorem stackOf_setStack_ne (s : State) (z j : Nat) (x : Stack) (h : j ≠ z) : stackOf (setStack s z x) j = stackOf s j := Sparse.getD_put_ne _ _ _ h
@[simp] theorem groupOf_setStack (s : State) (z j : Nat) (x : Stack) : groupOf (setStack s z x) j = groupOf s j := rfl
@[simp] theorem kernelOf_setStack (s : State) (z j : Nat) (x : Stack) : kernelOf (setStack s z x) j = kernelOf s j := rfl
@[simp] theorem contextOf_setStack (s : State) (z j : Nat) (x : Stack) : contextOf (setStack s z x) j = contextOf s j := rfl
@[simp] theorem queueOf_setStack (s : State) (z j : Nat) (x : Stack) : queueOf (setStack s z x) j = queueOf s j := rfl
@[simp] theorem tokenOf_setStack (s : State) (z j : Nat) (x : Stack) : tokenOf (setStack s z x) j = tokenOf s j := rfl
@[simp] theorem barrierOf_setStack (s : State) (z j : Nat) (x : Stack) : barrierOf (setStack s z x) j = barrierOf s j := rfl
@[simp] theorem linkOf_setStack (s : State) (z j : Nat) (x : Stack) : linkOf (setStack s z x) j = linkOf s j := rfl
@[simp] theorem readByte_setStack (s : State) (z a : Nat) (x : Stack) : readByte (setStack s z x) a = readByte s a := rfl

@[simp] theorem setGroup_hkc (s : State) (g : Nat) (x : Group) : (setGroup s g x).hkc = s.hkc := rfl
@[simp] theorem setGroup_turned (s : State) (g : Nat) (x : Group) : (setGroup s g x).turned = s.turned := rfl
@[simp] theorem setGroup_seq (s : State) (g : Nat) (x : Group) : (setGroup s g x).seq = s.seq := rfl
@[simp] theorem setGroup_freeCtr (s : State) (g : Nat) (x : Group) : (setGroup s g x).freeCtr = s.freeCtr := rfl
@[simp] theorem setGroup_cur (s : State) (g : Nat) (x : Group) : (setGroup s g x).cur = s.cur := rfl
@[simp] theorem setGroup_inputs (s : State) (g : Nat) (x : Group) : (setGroup s g x).inputs = s.inputs := rfl
@[simp] theorem setGroup_agenda (s : State) (g : Nat) (x : Group) : (setGroup s g x).agenda = s.agenda := rfl
@[simp] theorem setGroup_mem (s : State) (g : Nat) (x : Group) : (setGroup s g x).mem = s.mem := rfl
@[simp] theorem setGroup_part (s : State) (g : Nat) (x : Group) : (setGroup s g x).part = s.part := rfl
@[simp] theorem setGroup_dev (s : State) (g : Nat) (x : Group) : (setGroup s g x).dev = s.dev := rfl
@[simp] theorem setGroup_stacks (s : State) (g : Nat) (x : Group) : (setGroup s g x).stackTab = s.stackTab := rfl
@[simp] theorem setGroup_rows (s : State) (g : Nat) (x : Group) : (setGroup s g x).rows = s.rows := rfl
@[simp] theorem setGroup_banks (s : State) (g : Nat) (x : Group) : (setGroup s g x).banks = s.banks := rfl
@[simp] theorem setGroup_contexts (s : State) (g : Nat) (x : Group) : (setGroup s g x).contexts = s.contexts := rfl
@[simp] theorem setGroup_queues (s : State) (g : Nat) (x : Group) : (setGroup s g x).queues = s.queues := rfl
@[simp] theorem setGroup_lastServed (s : State) (g : Nat) (x : Group) : (setGroup s g x).lastServed = s.lastServed := rfl
@[simp] theorem setGroup_kernels (s : State) (g : Nat) (x : Group) : (setGroup s g x).kernels = s.kernels := rfl
@[simp] theorem setGroup_nextKernel (s : State) (g : Nat) (x : Group) : (setGroup s g x).nextKernel = s.nextKernel := rfl
@[simp] theorem setGroup_groups (s : State) (g : Nat) (x : Group) : (setGroup s g x).groups = s.groups.put g x := rfl
@[simp] theorem setGroup_waves (s : State) (g : Nat) (x : Group) : (setGroup s g x).waves = s.waves := rfl
@[simp] theorem setGroup_nextWave (s : State) (g : Nat) (x : Group) : (setGroup s g x).nextWave = s.nextWave := rfl
@[simp] theorem setGroup_tokens (s : State) (g : Nat) (x : Group) : (setGroup s g x).tokens = s.tokens := rfl
@[simp] theorem setGroup_barriers (s : State) (g : Nat) (x : Group) : (setGroup s g x).barriers = s.barriers := rfl
@[simp] theorem setGroup_jobs (s : State) (g : Nat) (x : Group) : (setGroup s g x).jobs = s.jobs := rfl
@[simp] theorem setGroup_nextJob (s : State) (g : Nat) (x : Group) : (setGroup s g x).nextJob = s.nextJob := rfl
@[simp] theorem setGroup_links (s : State) (g : Nat) (x : Group) : (setGroup s g x).links = s.links := rfl
@[simp] theorem setGroup_elog (s : State) (g : Nat) (x : Group) : (setGroup s g x).elog = s.elog := rfl
@[simp] theorem setGroup_elogSeq (s : State) (g : Nat) (x : Group) : (setGroup s g x).elogSeq = s.elogSeq := rfl
@[simp] theorem setGroup_elogWr (s : State) (g : Nat) (x : Group) : (setGroup s g x).elogWr = s.elogWr := rfl
@[simp] theorem setGroup_elogRd (s : State) (g : Nat) (x : Group) : (setGroup s g x).elogRd = s.elogRd := rfl
@[simp] theorem setGroup_elogLost (s : State) (g : Nat) (x : Group) : (setGroup s g x).elogLost = s.elogLost := rfl
@[simp] theorem setGroup_frames (s : State) (g : Nat) (x : Group) : (setGroup s g x).frames = s.frames := rfl
@[simp] theorem setGroup_pages (s : State) (g : Nat) (x : Group) : (setGroup s g x).pages = s.pages := rfl
@[simp] theorem setGroup_nextPage (s : State) (g : Nat) (x : Group) : (setGroup s g x).nextPage = s.nextPage := rfl
@[simp] theorem setGroup_bounce (s : State) (g : Nat) (x : Group) : (setGroup s g x).bounce = s.bounce := rfl
@[simp] theorem setGroup_cells (s : State) (g : Nat) (x : Group) : (setGroup s g x).cells = s.cells := rfl
@[simp] theorem setGroup_flips (s : State) (g : Nat) (x : Group) : (setGroup s g x).flips = s.flips := rfl
@[simp] theorem setGroup_sramBad (s : State) (g : Nat) (x : Group) : (setGroup s g x).sramBad = s.sramBad := rfl
@[simp] theorem setGroup_sramCount (s : State) (g : Nat) (x : Group) : (setGroup s g x).sramCount = s.sramCount := rfl
@[simp] theorem setGroup_msix (s : State) (g : Nat) (x : Group) : (setGroup s g x).msix = s.msix := rfl
@[simp] theorem setGroup_sent (s : State) (g : Nat) (x : Group) : (setGroup s g x).sent = s.sent := rfl
@[simp] theorem setGroup_replies (s : State) (g : Nat) (x : Group) : (setGroup s g x).replies = s.replies := rfl

@[simp] theorem strandOf_setGroup (s : State) (g j : Nat) (x : Group) : strandOf (setGroup s g x) j = strandOf s j := rfl
@[simp] theorem rowOf_setGroup (s : State) (g j : Nat) (x : Group) : rowOf (setGroup s g x) j = rowOf s j := rfl
@[simp] theorem stackOf_setGroup (s : State) (g j : Nat) (x : Group) : stackOf (setGroup s g x) j = stackOf s j := rfl
@[simp] theorem groupOf_setGroup_self (s : State) (g : Nat) (x : Group) : groupOf (setGroup s g x) g = x := Sparse.getD_put_self _ _ _ _
theorem groupOf_setGroup_ne (s : State) (g j : Nat) (x : Group) (h : j ≠ g) : groupOf (setGroup s g x) j = groupOf s j := Sparse.getD_put_ne _ _ _ h
@[simp] theorem kernelOf_setGroup (s : State) (g j : Nat) (x : Group) : kernelOf (setGroup s g x) j = kernelOf s j := rfl
@[simp] theorem contextOf_setGroup (s : State) (g j : Nat) (x : Group) : contextOf (setGroup s g x) j = contextOf s j := rfl
@[simp] theorem queueOf_setGroup (s : State) (g j : Nat) (x : Group) : queueOf (setGroup s g x) j = queueOf s j := rfl
@[simp] theorem tokenOf_setGroup (s : State) (g j : Nat) (x : Group) : tokenOf (setGroup s g x) j = tokenOf s j := rfl
@[simp] theorem barrierOf_setGroup (s : State) (g j : Nat) (x : Group) : barrierOf (setGroup s g x) j = barrierOf s j := rfl
@[simp] theorem linkOf_setGroup (s : State) (g j : Nat) (x : Group) : linkOf (setGroup s g x) j = linkOf s j := rfl
@[simp] theorem readByte_setGroup (s : State) (g a : Nat) (x : Group) : readByte (setGroup s g x) a = readByte s a := rfl

@[simp] theorem setKernel_hkc (s : State) (k : Nat) (x : Kernel) : (setKernel s k x).hkc = s.hkc := rfl
@[simp] theorem setKernel_turned (s : State) (k : Nat) (x : Kernel) : (setKernel s k x).turned = s.turned := rfl
@[simp] theorem setKernel_seq (s : State) (k : Nat) (x : Kernel) : (setKernel s k x).seq = s.seq := rfl
@[simp] theorem setKernel_freeCtr (s : State) (k : Nat) (x : Kernel) : (setKernel s k x).freeCtr = s.freeCtr := rfl
@[simp] theorem setKernel_cur (s : State) (k : Nat) (x : Kernel) : (setKernel s k x).cur = s.cur := rfl
@[simp] theorem setKernel_inputs (s : State) (k : Nat) (x : Kernel) : (setKernel s k x).inputs = s.inputs := rfl
@[simp] theorem setKernel_agenda (s : State) (k : Nat) (x : Kernel) : (setKernel s k x).agenda = s.agenda := rfl
@[simp] theorem setKernel_mem (s : State) (k : Nat) (x : Kernel) : (setKernel s k x).mem = s.mem := rfl
@[simp] theorem setKernel_part (s : State) (k : Nat) (x : Kernel) : (setKernel s k x).part = s.part := rfl
@[simp] theorem setKernel_dev (s : State) (k : Nat) (x : Kernel) : (setKernel s k x).dev = s.dev := rfl
@[simp] theorem setKernel_stacks (s : State) (k : Nat) (x : Kernel) : (setKernel s k x).stackTab = s.stackTab := rfl
@[simp] theorem setKernel_rows (s : State) (k : Nat) (x : Kernel) : (setKernel s k x).rows = s.rows := rfl
@[simp] theorem setKernel_banks (s : State) (k : Nat) (x : Kernel) : (setKernel s k x).banks = s.banks := rfl
@[simp] theorem setKernel_contexts (s : State) (k : Nat) (x : Kernel) : (setKernel s k x).contexts = s.contexts := rfl
@[simp] theorem setKernel_queues (s : State) (k : Nat) (x : Kernel) : (setKernel s k x).queues = s.queues := rfl
@[simp] theorem setKernel_lastServed (s : State) (k : Nat) (x : Kernel) : (setKernel s k x).lastServed = s.lastServed := rfl
@[simp] theorem setKernel_kernels (s : State) (k : Nat) (x : Kernel) : (setKernel s k x).kernels = s.kernels.put k x := rfl
@[simp] theorem setKernel_nextKernel (s : State) (k : Nat) (x : Kernel) : (setKernel s k x).nextKernel = s.nextKernel := rfl
@[simp] theorem setKernel_groups (s : State) (k : Nat) (x : Kernel) : (setKernel s k x).groups = s.groups := rfl
@[simp] theorem setKernel_waves (s : State) (k : Nat) (x : Kernel) : (setKernel s k x).waves = s.waves := rfl
@[simp] theorem setKernel_nextWave (s : State) (k : Nat) (x : Kernel) : (setKernel s k x).nextWave = s.nextWave := rfl
@[simp] theorem setKernel_tokens (s : State) (k : Nat) (x : Kernel) : (setKernel s k x).tokens = s.tokens := rfl
@[simp] theorem setKernel_barriers (s : State) (k : Nat) (x : Kernel) : (setKernel s k x).barriers = s.barriers := rfl
@[simp] theorem setKernel_jobs (s : State) (k : Nat) (x : Kernel) : (setKernel s k x).jobs = s.jobs := rfl
@[simp] theorem setKernel_nextJob (s : State) (k : Nat) (x : Kernel) : (setKernel s k x).nextJob = s.nextJob := rfl
@[simp] theorem setKernel_links (s : State) (k : Nat) (x : Kernel) : (setKernel s k x).links = s.links := rfl
@[simp] theorem setKernel_elog (s : State) (k : Nat) (x : Kernel) : (setKernel s k x).elog = s.elog := rfl
@[simp] theorem setKernel_elogSeq (s : State) (k : Nat) (x : Kernel) : (setKernel s k x).elogSeq = s.elogSeq := rfl
@[simp] theorem setKernel_elogWr (s : State) (k : Nat) (x : Kernel) : (setKernel s k x).elogWr = s.elogWr := rfl
@[simp] theorem setKernel_elogRd (s : State) (k : Nat) (x : Kernel) : (setKernel s k x).elogRd = s.elogRd := rfl
@[simp] theorem setKernel_elogLost (s : State) (k : Nat) (x : Kernel) : (setKernel s k x).elogLost = s.elogLost := rfl
@[simp] theorem setKernel_frames (s : State) (k : Nat) (x : Kernel) : (setKernel s k x).frames = s.frames := rfl
@[simp] theorem setKernel_pages (s : State) (k : Nat) (x : Kernel) : (setKernel s k x).pages = s.pages := rfl
@[simp] theorem setKernel_nextPage (s : State) (k : Nat) (x : Kernel) : (setKernel s k x).nextPage = s.nextPage := rfl
@[simp] theorem setKernel_bounce (s : State) (k : Nat) (x : Kernel) : (setKernel s k x).bounce = s.bounce := rfl
@[simp] theorem setKernel_cells (s : State) (k : Nat) (x : Kernel) : (setKernel s k x).cells = s.cells := rfl
@[simp] theorem setKernel_flips (s : State) (k : Nat) (x : Kernel) : (setKernel s k x).flips = s.flips := rfl
@[simp] theorem setKernel_sramBad (s : State) (k : Nat) (x : Kernel) : (setKernel s k x).sramBad = s.sramBad := rfl
@[simp] theorem setKernel_sramCount (s : State) (k : Nat) (x : Kernel) : (setKernel s k x).sramCount = s.sramCount := rfl
@[simp] theorem setKernel_msix (s : State) (k : Nat) (x : Kernel) : (setKernel s k x).msix = s.msix := rfl
@[simp] theorem setKernel_sent (s : State) (k : Nat) (x : Kernel) : (setKernel s k x).sent = s.sent := rfl
@[simp] theorem setKernel_replies (s : State) (k : Nat) (x : Kernel) : (setKernel s k x).replies = s.replies := rfl

@[simp] theorem strandOf_setKernel (s : State) (k j : Nat) (x : Kernel) : strandOf (setKernel s k x) j = strandOf s j := rfl
@[simp] theorem rowOf_setKernel (s : State) (k j : Nat) (x : Kernel) : rowOf (setKernel s k x) j = rowOf s j := rfl
@[simp] theorem stackOf_setKernel (s : State) (k j : Nat) (x : Kernel) : stackOf (setKernel s k x) j = stackOf s j := rfl
@[simp] theorem groupOf_setKernel (s : State) (k j : Nat) (x : Kernel) : groupOf (setKernel s k x) j = groupOf s j := rfl
@[simp] theorem kernelOf_setKernel_self (s : State) (k : Nat) (x : Kernel) : kernelOf (setKernel s k x) k = x := Sparse.getD_put_self _ _ _ _
theorem kernelOf_setKernel_ne (s : State) (k j : Nat) (x : Kernel) (h : j ≠ k) : kernelOf (setKernel s k x) j = kernelOf s j := Sparse.getD_put_ne _ _ _ h
@[simp] theorem contextOf_setKernel (s : State) (k j : Nat) (x : Kernel) : contextOf (setKernel s k x) j = contextOf s j := rfl
@[simp] theorem queueOf_setKernel (s : State) (k j : Nat) (x : Kernel) : queueOf (setKernel s k x) j = queueOf s j := rfl
@[simp] theorem tokenOf_setKernel (s : State) (k j : Nat) (x : Kernel) : tokenOf (setKernel s k x) j = tokenOf s j := rfl
@[simp] theorem barrierOf_setKernel (s : State) (k j : Nat) (x : Kernel) : barrierOf (setKernel s k x) j = barrierOf s j := rfl
@[simp] theorem linkOf_setKernel (s : State) (k j : Nat) (x : Kernel) : linkOf (setKernel s k x) j = linkOf s j := rfl
@[simp] theorem readByte_setKernel (s : State) (k a : Nat) (x : Kernel) : readByte (setKernel s k x) a = readByte s a := rfl

@[simp] theorem setContext_hkc (s : State) (c : Nat) (x : Context) : (setContext s c x).hkc = s.hkc := rfl
@[simp] theorem setContext_turned (s : State) (c : Nat) (x : Context) : (setContext s c x).turned = s.turned := rfl
@[simp] theorem setContext_seq (s : State) (c : Nat) (x : Context) : (setContext s c x).seq = s.seq := rfl
@[simp] theorem setContext_freeCtr (s : State) (c : Nat) (x : Context) : (setContext s c x).freeCtr = s.freeCtr := rfl
@[simp] theorem setContext_cur (s : State) (c : Nat) (x : Context) : (setContext s c x).cur = s.cur := rfl
@[simp] theorem setContext_inputs (s : State) (c : Nat) (x : Context) : (setContext s c x).inputs = s.inputs := rfl
@[simp] theorem setContext_agenda (s : State) (c : Nat) (x : Context) : (setContext s c x).agenda = s.agenda := rfl
@[simp] theorem setContext_mem (s : State) (c : Nat) (x : Context) : (setContext s c x).mem = s.mem := rfl
@[simp] theorem setContext_part (s : State) (c : Nat) (x : Context) : (setContext s c x).part = s.part := rfl
@[simp] theorem setContext_dev (s : State) (c : Nat) (x : Context) : (setContext s c x).dev = s.dev := rfl
@[simp] theorem setContext_stacks (s : State) (c : Nat) (x : Context) : (setContext s c x).stackTab = s.stackTab := rfl
@[simp] theorem setContext_rows (s : State) (c : Nat) (x : Context) : (setContext s c x).rows = s.rows := rfl
@[simp] theorem setContext_banks (s : State) (c : Nat) (x : Context) : (setContext s c x).banks = s.banks := rfl
@[simp] theorem setContext_contexts (s : State) (c : Nat) (x : Context) : (setContext s c x).contexts = s.contexts.put c x := rfl
@[simp] theorem setContext_queues (s : State) (c : Nat) (x : Context) : (setContext s c x).queues = s.queues := rfl
@[simp] theorem setContext_lastServed (s : State) (c : Nat) (x : Context) : (setContext s c x).lastServed = s.lastServed := rfl
@[simp] theorem setContext_kernels (s : State) (c : Nat) (x : Context) : (setContext s c x).kernels = s.kernels := rfl
@[simp] theorem setContext_nextKernel (s : State) (c : Nat) (x : Context) : (setContext s c x).nextKernel = s.nextKernel := rfl
@[simp] theorem setContext_groups (s : State) (c : Nat) (x : Context) : (setContext s c x).groups = s.groups := rfl
@[simp] theorem setContext_waves (s : State) (c : Nat) (x : Context) : (setContext s c x).waves = s.waves := rfl
@[simp] theorem setContext_nextWave (s : State) (c : Nat) (x : Context) : (setContext s c x).nextWave = s.nextWave := rfl
@[simp] theorem setContext_tokens (s : State) (c : Nat) (x : Context) : (setContext s c x).tokens = s.tokens := rfl
@[simp] theorem setContext_barriers (s : State) (c : Nat) (x : Context) : (setContext s c x).barriers = s.barriers := rfl
@[simp] theorem setContext_jobs (s : State) (c : Nat) (x : Context) : (setContext s c x).jobs = s.jobs := rfl
@[simp] theorem setContext_nextJob (s : State) (c : Nat) (x : Context) : (setContext s c x).nextJob = s.nextJob := rfl
@[simp] theorem setContext_links (s : State) (c : Nat) (x : Context) : (setContext s c x).links = s.links := rfl
@[simp] theorem setContext_elog (s : State) (c : Nat) (x : Context) : (setContext s c x).elog = s.elog := rfl
@[simp] theorem setContext_elogSeq (s : State) (c : Nat) (x : Context) : (setContext s c x).elogSeq = s.elogSeq := rfl
@[simp] theorem setContext_elogWr (s : State) (c : Nat) (x : Context) : (setContext s c x).elogWr = s.elogWr := rfl
@[simp] theorem setContext_elogRd (s : State) (c : Nat) (x : Context) : (setContext s c x).elogRd = s.elogRd := rfl
@[simp] theorem setContext_elogLost (s : State) (c : Nat) (x : Context) : (setContext s c x).elogLost = s.elogLost := rfl
@[simp] theorem setContext_frames (s : State) (c : Nat) (x : Context) : (setContext s c x).frames = s.frames := rfl
@[simp] theorem setContext_pages (s : State) (c : Nat) (x : Context) : (setContext s c x).pages = s.pages := rfl
@[simp] theorem setContext_nextPage (s : State) (c : Nat) (x : Context) : (setContext s c x).nextPage = s.nextPage := rfl
@[simp] theorem setContext_bounce (s : State) (c : Nat) (x : Context) : (setContext s c x).bounce = s.bounce := rfl
@[simp] theorem setContext_cells (s : State) (c : Nat) (x : Context) : (setContext s c x).cells = s.cells := rfl
@[simp] theorem setContext_flips (s : State) (c : Nat) (x : Context) : (setContext s c x).flips = s.flips := rfl
@[simp] theorem setContext_sramBad (s : State) (c : Nat) (x : Context) : (setContext s c x).sramBad = s.sramBad := rfl
@[simp] theorem setContext_sramCount (s : State) (c : Nat) (x : Context) : (setContext s c x).sramCount = s.sramCount := rfl
@[simp] theorem setContext_msix (s : State) (c : Nat) (x : Context) : (setContext s c x).msix = s.msix := rfl
@[simp] theorem setContext_sent (s : State) (c : Nat) (x : Context) : (setContext s c x).sent = s.sent := rfl
@[simp] theorem setContext_replies (s : State) (c : Nat) (x : Context) : (setContext s c x).replies = s.replies := rfl

@[simp] theorem strandOf_setContext (s : State) (c j : Nat) (x : Context) : strandOf (setContext s c x) j = strandOf s j := rfl
@[simp] theorem rowOf_setContext (s : State) (c j : Nat) (x : Context) : rowOf (setContext s c x) j = rowOf s j := rfl
@[simp] theorem stackOf_setContext (s : State) (c j : Nat) (x : Context) : stackOf (setContext s c x) j = stackOf s j := rfl
@[simp] theorem groupOf_setContext (s : State) (c j : Nat) (x : Context) : groupOf (setContext s c x) j = groupOf s j := rfl
@[simp] theorem kernelOf_setContext (s : State) (c j : Nat) (x : Context) : kernelOf (setContext s c x) j = kernelOf s j := rfl
@[simp] theorem contextOf_setContext_self (s : State) (c : Nat) (x : Context) : contextOf (setContext s c x) c = x := Sparse.getD_put_self _ _ _ _
theorem contextOf_setContext_ne (s : State) (c j : Nat) (x : Context) (h : j ≠ c) : contextOf (setContext s c x) j = contextOf s j := Sparse.getD_put_ne _ _ _ h
@[simp] theorem queueOf_setContext (s : State) (c j : Nat) (x : Context) : queueOf (setContext s c x) j = queueOf s j := rfl
@[simp] theorem tokenOf_setContext (s : State) (c j : Nat) (x : Context) : tokenOf (setContext s c x) j = tokenOf s j := rfl
@[simp] theorem barrierOf_setContext (s : State) (c j : Nat) (x : Context) : barrierOf (setContext s c x) j = barrierOf s j := rfl
@[simp] theorem linkOf_setContext (s : State) (c j : Nat) (x : Context) : linkOf (setContext s c x) j = linkOf s j := rfl
@[simp] theorem readByte_setContext (s : State) (c a : Nat) (x : Context) : readByte (setContext s c x) a = readByte s a := rfl

@[simp] theorem setQueue_hkc (s : State) (q : Nat) (x : Queue) : (setQueue s q x).hkc = s.hkc := rfl
@[simp] theorem setQueue_turned (s : State) (q : Nat) (x : Queue) : (setQueue s q x).turned = s.turned := rfl
@[simp] theorem setQueue_seq (s : State) (q : Nat) (x : Queue) : (setQueue s q x).seq = s.seq := rfl
@[simp] theorem setQueue_freeCtr (s : State) (q : Nat) (x : Queue) : (setQueue s q x).freeCtr = s.freeCtr := rfl
@[simp] theorem setQueue_cur (s : State) (q : Nat) (x : Queue) : (setQueue s q x).cur = s.cur := rfl
@[simp] theorem setQueue_inputs (s : State) (q : Nat) (x : Queue) : (setQueue s q x).inputs = s.inputs := rfl
@[simp] theorem setQueue_agenda (s : State) (q : Nat) (x : Queue) : (setQueue s q x).agenda = s.agenda := rfl
@[simp] theorem setQueue_mem (s : State) (q : Nat) (x : Queue) : (setQueue s q x).mem = s.mem := rfl
@[simp] theorem setQueue_part (s : State) (q : Nat) (x : Queue) : (setQueue s q x).part = s.part := rfl
@[simp] theorem setQueue_dev (s : State) (q : Nat) (x : Queue) : (setQueue s q x).dev = s.dev := rfl
@[simp] theorem setQueue_stacks (s : State) (q : Nat) (x : Queue) : (setQueue s q x).stackTab = s.stackTab := rfl
@[simp] theorem setQueue_rows (s : State) (q : Nat) (x : Queue) : (setQueue s q x).rows = s.rows := rfl
@[simp] theorem setQueue_banks (s : State) (q : Nat) (x : Queue) : (setQueue s q x).banks = s.banks := rfl
@[simp] theorem setQueue_contexts (s : State) (q : Nat) (x : Queue) : (setQueue s q x).contexts = s.contexts := rfl
@[simp] theorem setQueue_queues (s : State) (q : Nat) (x : Queue) : (setQueue s q x).queues = s.queues.put q x := rfl
@[simp] theorem setQueue_lastServed (s : State) (q : Nat) (x : Queue) : (setQueue s q x).lastServed = s.lastServed := rfl
@[simp] theorem setQueue_kernels (s : State) (q : Nat) (x : Queue) : (setQueue s q x).kernels = s.kernels := rfl
@[simp] theorem setQueue_nextKernel (s : State) (q : Nat) (x : Queue) : (setQueue s q x).nextKernel = s.nextKernel := rfl
@[simp] theorem setQueue_groups (s : State) (q : Nat) (x : Queue) : (setQueue s q x).groups = s.groups := rfl
@[simp] theorem setQueue_waves (s : State) (q : Nat) (x : Queue) : (setQueue s q x).waves = s.waves := rfl
@[simp] theorem setQueue_nextWave (s : State) (q : Nat) (x : Queue) : (setQueue s q x).nextWave = s.nextWave := rfl
@[simp] theorem setQueue_tokens (s : State) (q : Nat) (x : Queue) : (setQueue s q x).tokens = s.tokens := rfl
@[simp] theorem setQueue_barriers (s : State) (q : Nat) (x : Queue) : (setQueue s q x).barriers = s.barriers := rfl
@[simp] theorem setQueue_jobs (s : State) (q : Nat) (x : Queue) : (setQueue s q x).jobs = s.jobs := rfl
@[simp] theorem setQueue_nextJob (s : State) (q : Nat) (x : Queue) : (setQueue s q x).nextJob = s.nextJob := rfl
@[simp] theorem setQueue_links (s : State) (q : Nat) (x : Queue) : (setQueue s q x).links = s.links := rfl
@[simp] theorem setQueue_elog (s : State) (q : Nat) (x : Queue) : (setQueue s q x).elog = s.elog := rfl
@[simp] theorem setQueue_elogSeq (s : State) (q : Nat) (x : Queue) : (setQueue s q x).elogSeq = s.elogSeq := rfl
@[simp] theorem setQueue_elogWr (s : State) (q : Nat) (x : Queue) : (setQueue s q x).elogWr = s.elogWr := rfl
@[simp] theorem setQueue_elogRd (s : State) (q : Nat) (x : Queue) : (setQueue s q x).elogRd = s.elogRd := rfl
@[simp] theorem setQueue_elogLost (s : State) (q : Nat) (x : Queue) : (setQueue s q x).elogLost = s.elogLost := rfl
@[simp] theorem setQueue_frames (s : State) (q : Nat) (x : Queue) : (setQueue s q x).frames = s.frames := rfl
@[simp] theorem setQueue_pages (s : State) (q : Nat) (x : Queue) : (setQueue s q x).pages = s.pages := rfl
@[simp] theorem setQueue_nextPage (s : State) (q : Nat) (x : Queue) : (setQueue s q x).nextPage = s.nextPage := rfl
@[simp] theorem setQueue_bounce (s : State) (q : Nat) (x : Queue) : (setQueue s q x).bounce = s.bounce := rfl
@[simp] theorem setQueue_cells (s : State) (q : Nat) (x : Queue) : (setQueue s q x).cells = s.cells := rfl
@[simp] theorem setQueue_flips (s : State) (q : Nat) (x : Queue) : (setQueue s q x).flips = s.flips := rfl
@[simp] theorem setQueue_sramBad (s : State) (q : Nat) (x : Queue) : (setQueue s q x).sramBad = s.sramBad := rfl
@[simp] theorem setQueue_sramCount (s : State) (q : Nat) (x : Queue) : (setQueue s q x).sramCount = s.sramCount := rfl
@[simp] theorem setQueue_msix (s : State) (q : Nat) (x : Queue) : (setQueue s q x).msix = s.msix := rfl
@[simp] theorem setQueue_sent (s : State) (q : Nat) (x : Queue) : (setQueue s q x).sent = s.sent := rfl
@[simp] theorem setQueue_replies (s : State) (q : Nat) (x : Queue) : (setQueue s q x).replies = s.replies := rfl

@[simp] theorem strandOf_setQueue (s : State) (q j : Nat) (x : Queue) : strandOf (setQueue s q x) j = strandOf s j := rfl
@[simp] theorem rowOf_setQueue (s : State) (q j : Nat) (x : Queue) : rowOf (setQueue s q x) j = rowOf s j := rfl
@[simp] theorem stackOf_setQueue (s : State) (q j : Nat) (x : Queue) : stackOf (setQueue s q x) j = stackOf s j := rfl
@[simp] theorem groupOf_setQueue (s : State) (q j : Nat) (x : Queue) : groupOf (setQueue s q x) j = groupOf s j := rfl
@[simp] theorem kernelOf_setQueue (s : State) (q j : Nat) (x : Queue) : kernelOf (setQueue s q x) j = kernelOf s j := rfl
@[simp] theorem contextOf_setQueue (s : State) (q j : Nat) (x : Queue) : contextOf (setQueue s q x) j = contextOf s j := rfl
@[simp] theorem queueOf_setQueue_self (s : State) (q : Nat) (x : Queue) : queueOf (setQueue s q x) q = x := Sparse.getD_put_self _ _ _ _
theorem queueOf_setQueue_ne (s : State) (q j : Nat) (x : Queue) (h : j ≠ q) : queueOf (setQueue s q x) j = queueOf s j := Sparse.getD_put_ne _ _ _ h
@[simp] theorem tokenOf_setQueue (s : State) (q j : Nat) (x : Queue) : tokenOf (setQueue s q x) j = tokenOf s j := rfl
@[simp] theorem barrierOf_setQueue (s : State) (q j : Nat) (x : Queue) : barrierOf (setQueue s q x) j = barrierOf s j := rfl
@[simp] theorem linkOf_setQueue (s : State) (q j : Nat) (x : Queue) : linkOf (setQueue s q x) j = linkOf s j := rfl
@[simp] theorem readByte_setQueue (s : State) (q a : Nat) (x : Queue) : readByte (setQueue s q x) a = readByte s a := rfl

@[simp] theorem setToken_hkc (s : State) (i : Nat) (x : Token) : (setToken s i x).hkc = s.hkc := rfl
@[simp] theorem setToken_turned (s : State) (i : Nat) (x : Token) : (setToken s i x).turned = s.turned := rfl
@[simp] theorem setToken_seq (s : State) (i : Nat) (x : Token) : (setToken s i x).seq = s.seq := rfl
@[simp] theorem setToken_freeCtr (s : State) (i : Nat) (x : Token) : (setToken s i x).freeCtr = s.freeCtr := rfl
@[simp] theorem setToken_cur (s : State) (i : Nat) (x : Token) : (setToken s i x).cur = s.cur := rfl
@[simp] theorem setToken_inputs (s : State) (i : Nat) (x : Token) : (setToken s i x).inputs = s.inputs := rfl
@[simp] theorem setToken_agenda (s : State) (i : Nat) (x : Token) : (setToken s i x).agenda = s.agenda := rfl
@[simp] theorem setToken_mem (s : State) (i : Nat) (x : Token) : (setToken s i x).mem = s.mem := rfl
@[simp] theorem setToken_part (s : State) (i : Nat) (x : Token) : (setToken s i x).part = s.part := rfl
@[simp] theorem setToken_dev (s : State) (i : Nat) (x : Token) : (setToken s i x).dev = s.dev := rfl
@[simp] theorem setToken_stacks (s : State) (i : Nat) (x : Token) : (setToken s i x).stackTab = s.stackTab := rfl
@[simp] theorem setToken_rows (s : State) (i : Nat) (x : Token) : (setToken s i x).rows = s.rows := rfl
@[simp] theorem setToken_banks (s : State) (i : Nat) (x : Token) : (setToken s i x).banks = s.banks := rfl
@[simp] theorem setToken_contexts (s : State) (i : Nat) (x : Token) : (setToken s i x).contexts = s.contexts := rfl
@[simp] theorem setToken_queues (s : State) (i : Nat) (x : Token) : (setToken s i x).queues = s.queues := rfl
@[simp] theorem setToken_lastServed (s : State) (i : Nat) (x : Token) : (setToken s i x).lastServed = s.lastServed := rfl
@[simp] theorem setToken_kernels (s : State) (i : Nat) (x : Token) : (setToken s i x).kernels = s.kernels := rfl
@[simp] theorem setToken_nextKernel (s : State) (i : Nat) (x : Token) : (setToken s i x).nextKernel = s.nextKernel := rfl
@[simp] theorem setToken_groups (s : State) (i : Nat) (x : Token) : (setToken s i x).groups = s.groups := rfl
@[simp] theorem setToken_waves (s : State) (i : Nat) (x : Token) : (setToken s i x).waves = s.waves := rfl
@[simp] theorem setToken_nextWave (s : State) (i : Nat) (x : Token) : (setToken s i x).nextWave = s.nextWave := rfl
@[simp] theorem setToken_tokens (s : State) (i : Nat) (x : Token) : (setToken s i x).tokens = s.tokens.put i x := rfl
@[simp] theorem setToken_barriers (s : State) (i : Nat) (x : Token) : (setToken s i x).barriers = s.barriers := rfl
@[simp] theorem setToken_jobs (s : State) (i : Nat) (x : Token) : (setToken s i x).jobs = s.jobs := rfl
@[simp] theorem setToken_nextJob (s : State) (i : Nat) (x : Token) : (setToken s i x).nextJob = s.nextJob := rfl
@[simp] theorem setToken_links (s : State) (i : Nat) (x : Token) : (setToken s i x).links = s.links := rfl
@[simp] theorem setToken_elog (s : State) (i : Nat) (x : Token) : (setToken s i x).elog = s.elog := rfl
@[simp] theorem setToken_elogSeq (s : State) (i : Nat) (x : Token) : (setToken s i x).elogSeq = s.elogSeq := rfl
@[simp] theorem setToken_elogWr (s : State) (i : Nat) (x : Token) : (setToken s i x).elogWr = s.elogWr := rfl
@[simp] theorem setToken_elogRd (s : State) (i : Nat) (x : Token) : (setToken s i x).elogRd = s.elogRd := rfl
@[simp] theorem setToken_elogLost (s : State) (i : Nat) (x : Token) : (setToken s i x).elogLost = s.elogLost := rfl
@[simp] theorem setToken_frames (s : State) (i : Nat) (x : Token) : (setToken s i x).frames = s.frames := rfl
@[simp] theorem setToken_pages (s : State) (i : Nat) (x : Token) : (setToken s i x).pages = s.pages := rfl
@[simp] theorem setToken_nextPage (s : State) (i : Nat) (x : Token) : (setToken s i x).nextPage = s.nextPage := rfl
@[simp] theorem setToken_bounce (s : State) (i : Nat) (x : Token) : (setToken s i x).bounce = s.bounce := rfl
@[simp] theorem setToken_cells (s : State) (i : Nat) (x : Token) : (setToken s i x).cells = s.cells := rfl
@[simp] theorem setToken_flips (s : State) (i : Nat) (x : Token) : (setToken s i x).flips = s.flips := rfl
@[simp] theorem setToken_sramBad (s : State) (i : Nat) (x : Token) : (setToken s i x).sramBad = s.sramBad := rfl
@[simp] theorem setToken_sramCount (s : State) (i : Nat) (x : Token) : (setToken s i x).sramCount = s.sramCount := rfl
@[simp] theorem setToken_msix (s : State) (i : Nat) (x : Token) : (setToken s i x).msix = s.msix := rfl
@[simp] theorem setToken_sent (s : State) (i : Nat) (x : Token) : (setToken s i x).sent = s.sent := rfl
@[simp] theorem setToken_replies (s : State) (i : Nat) (x : Token) : (setToken s i x).replies = s.replies := rfl

@[simp] theorem strandOf_setToken (s : State) (i j : Nat) (x : Token) : strandOf (setToken s i x) j = strandOf s j := rfl
@[simp] theorem rowOf_setToken (s : State) (i j : Nat) (x : Token) : rowOf (setToken s i x) j = rowOf s j := rfl
@[simp] theorem stackOf_setToken (s : State) (i j : Nat) (x : Token) : stackOf (setToken s i x) j = stackOf s j := rfl
@[simp] theorem groupOf_setToken (s : State) (i j : Nat) (x : Token) : groupOf (setToken s i x) j = groupOf s j := rfl
@[simp] theorem kernelOf_setToken (s : State) (i j : Nat) (x : Token) : kernelOf (setToken s i x) j = kernelOf s j := rfl
@[simp] theorem contextOf_setToken (s : State) (i j : Nat) (x : Token) : contextOf (setToken s i x) j = contextOf s j := rfl
@[simp] theorem queueOf_setToken (s : State) (i j : Nat) (x : Token) : queueOf (setToken s i x) j = queueOf s j := rfl
@[simp] theorem tokenOf_setToken_self (s : State) (i : Nat) (x : Token) : tokenOf (setToken s i x) i = x := Sparse.getD_put_self _ _ _ _
theorem tokenOf_setToken_ne (s : State) (i j : Nat) (x : Token) (h : j ≠ i) : tokenOf (setToken s i x) j = tokenOf s j := Sparse.getD_put_ne _ _ _ h
@[simp] theorem barrierOf_setToken (s : State) (i j : Nat) (x : Token) : barrierOf (setToken s i x) j = barrierOf s j := rfl
@[simp] theorem linkOf_setToken (s : State) (i j : Nat) (x : Token) : linkOf (setToken s i x) j = linkOf s j := rfl
@[simp] theorem readByte_setToken (s : State) (i a : Nat) (x : Token) : readByte (setToken s i x) a = readByte s a := rfl

@[simp] theorem setBarrier_hkc (s : State) (i : Nat) (x : Barrier) : (setBarrier s i x).hkc = s.hkc := rfl
@[simp] theorem setBarrier_turned (s : State) (i : Nat) (x : Barrier) : (setBarrier s i x).turned = s.turned := rfl
@[simp] theorem setBarrier_seq (s : State) (i : Nat) (x : Barrier) : (setBarrier s i x).seq = s.seq := rfl
@[simp] theorem setBarrier_freeCtr (s : State) (i : Nat) (x : Barrier) : (setBarrier s i x).freeCtr = s.freeCtr := rfl
@[simp] theorem setBarrier_cur (s : State) (i : Nat) (x : Barrier) : (setBarrier s i x).cur = s.cur := rfl
@[simp] theorem setBarrier_inputs (s : State) (i : Nat) (x : Barrier) : (setBarrier s i x).inputs = s.inputs := rfl
@[simp] theorem setBarrier_agenda (s : State) (i : Nat) (x : Barrier) : (setBarrier s i x).agenda = s.agenda := rfl
@[simp] theorem setBarrier_mem (s : State) (i : Nat) (x : Barrier) : (setBarrier s i x).mem = s.mem := rfl
@[simp] theorem setBarrier_part (s : State) (i : Nat) (x : Barrier) : (setBarrier s i x).part = s.part := rfl
@[simp] theorem setBarrier_dev (s : State) (i : Nat) (x : Barrier) : (setBarrier s i x).dev = s.dev := rfl
@[simp] theorem setBarrier_stacks (s : State) (i : Nat) (x : Barrier) : (setBarrier s i x).stackTab = s.stackTab := rfl
@[simp] theorem setBarrier_rows (s : State) (i : Nat) (x : Barrier) : (setBarrier s i x).rows = s.rows := rfl
@[simp] theorem setBarrier_banks (s : State) (i : Nat) (x : Barrier) : (setBarrier s i x).banks = s.banks := rfl
@[simp] theorem setBarrier_contexts (s : State) (i : Nat) (x : Barrier) : (setBarrier s i x).contexts = s.contexts := rfl
@[simp] theorem setBarrier_queues (s : State) (i : Nat) (x : Barrier) : (setBarrier s i x).queues = s.queues := rfl
@[simp] theorem setBarrier_lastServed (s : State) (i : Nat) (x : Barrier) : (setBarrier s i x).lastServed = s.lastServed := rfl
@[simp] theorem setBarrier_kernels (s : State) (i : Nat) (x : Barrier) : (setBarrier s i x).kernels = s.kernels := rfl
@[simp] theorem setBarrier_nextKernel (s : State) (i : Nat) (x : Barrier) : (setBarrier s i x).nextKernel = s.nextKernel := rfl
@[simp] theorem setBarrier_groups (s : State) (i : Nat) (x : Barrier) : (setBarrier s i x).groups = s.groups := rfl
@[simp] theorem setBarrier_waves (s : State) (i : Nat) (x : Barrier) : (setBarrier s i x).waves = s.waves := rfl
@[simp] theorem setBarrier_nextWave (s : State) (i : Nat) (x : Barrier) : (setBarrier s i x).nextWave = s.nextWave := rfl
@[simp] theorem setBarrier_tokens (s : State) (i : Nat) (x : Barrier) : (setBarrier s i x).tokens = s.tokens := rfl
@[simp] theorem setBarrier_barriers (s : State) (i : Nat) (x : Barrier) : (setBarrier s i x).barriers = s.barriers.put i x := rfl
@[simp] theorem setBarrier_jobs (s : State) (i : Nat) (x : Barrier) : (setBarrier s i x).jobs = s.jobs := rfl
@[simp] theorem setBarrier_nextJob (s : State) (i : Nat) (x : Barrier) : (setBarrier s i x).nextJob = s.nextJob := rfl
@[simp] theorem setBarrier_links (s : State) (i : Nat) (x : Barrier) : (setBarrier s i x).links = s.links := rfl
@[simp] theorem setBarrier_elog (s : State) (i : Nat) (x : Barrier) : (setBarrier s i x).elog = s.elog := rfl
@[simp] theorem setBarrier_elogSeq (s : State) (i : Nat) (x : Barrier) : (setBarrier s i x).elogSeq = s.elogSeq := rfl
@[simp] theorem setBarrier_elogWr (s : State) (i : Nat) (x : Barrier) : (setBarrier s i x).elogWr = s.elogWr := rfl
@[simp] theorem setBarrier_elogRd (s : State) (i : Nat) (x : Barrier) : (setBarrier s i x).elogRd = s.elogRd := rfl
@[simp] theorem setBarrier_elogLost (s : State) (i : Nat) (x : Barrier) : (setBarrier s i x).elogLost = s.elogLost := rfl
@[simp] theorem setBarrier_frames (s : State) (i : Nat) (x : Barrier) : (setBarrier s i x).frames = s.frames := rfl
@[simp] theorem setBarrier_pages (s : State) (i : Nat) (x : Barrier) : (setBarrier s i x).pages = s.pages := rfl
@[simp] theorem setBarrier_nextPage (s : State) (i : Nat) (x : Barrier) : (setBarrier s i x).nextPage = s.nextPage := rfl
@[simp] theorem setBarrier_bounce (s : State) (i : Nat) (x : Barrier) : (setBarrier s i x).bounce = s.bounce := rfl
@[simp] theorem setBarrier_cells (s : State) (i : Nat) (x : Barrier) : (setBarrier s i x).cells = s.cells := rfl
@[simp] theorem setBarrier_flips (s : State) (i : Nat) (x : Barrier) : (setBarrier s i x).flips = s.flips := rfl
@[simp] theorem setBarrier_sramBad (s : State) (i : Nat) (x : Barrier) : (setBarrier s i x).sramBad = s.sramBad := rfl
@[simp] theorem setBarrier_sramCount (s : State) (i : Nat) (x : Barrier) : (setBarrier s i x).sramCount = s.sramCount := rfl
@[simp] theorem setBarrier_msix (s : State) (i : Nat) (x : Barrier) : (setBarrier s i x).msix = s.msix := rfl
@[simp] theorem setBarrier_sent (s : State) (i : Nat) (x : Barrier) : (setBarrier s i x).sent = s.sent := rfl
@[simp] theorem setBarrier_replies (s : State) (i : Nat) (x : Barrier) : (setBarrier s i x).replies = s.replies := rfl

@[simp] theorem strandOf_setBarrier (s : State) (i j : Nat) (x : Barrier) : strandOf (setBarrier s i x) j = strandOf s j := rfl
@[simp] theorem rowOf_setBarrier (s : State) (i j : Nat) (x : Barrier) : rowOf (setBarrier s i x) j = rowOf s j := rfl
@[simp] theorem stackOf_setBarrier (s : State) (i j : Nat) (x : Barrier) : stackOf (setBarrier s i x) j = stackOf s j := rfl
@[simp] theorem groupOf_setBarrier (s : State) (i j : Nat) (x : Barrier) : groupOf (setBarrier s i x) j = groupOf s j := rfl
@[simp] theorem kernelOf_setBarrier (s : State) (i j : Nat) (x : Barrier) : kernelOf (setBarrier s i x) j = kernelOf s j := rfl
@[simp] theorem contextOf_setBarrier (s : State) (i j : Nat) (x : Barrier) : contextOf (setBarrier s i x) j = contextOf s j := rfl
@[simp] theorem queueOf_setBarrier (s : State) (i j : Nat) (x : Barrier) : queueOf (setBarrier s i x) j = queueOf s j := rfl
@[simp] theorem tokenOf_setBarrier (s : State) (i j : Nat) (x : Barrier) : tokenOf (setBarrier s i x) j = tokenOf s j := rfl
@[simp] theorem barrierOf_setBarrier_self (s : State) (i : Nat) (x : Barrier) : barrierOf (setBarrier s i x) i = x := Sparse.getD_put_self _ _ _ _
theorem barrierOf_setBarrier_ne (s : State) (i j : Nat) (x : Barrier) (h : j ≠ i) : barrierOf (setBarrier s i x) j = barrierOf s j := Sparse.getD_put_ne _ _ _ h
@[simp] theorem linkOf_setBarrier (s : State) (i j : Nat) (x : Barrier) : linkOf (setBarrier s i x) j = linkOf s j := rfl
@[simp] theorem readByte_setBarrier (s : State) (i a : Nat) (x : Barrier) : readByte (setBarrier s i x) a = readByte s a := rfl

@[simp] theorem setLink_hkc (s : State) (l : Nat) (x : Link) : (setLink s l x).hkc = s.hkc := rfl
@[simp] theorem setLink_turned (s : State) (l : Nat) (x : Link) : (setLink s l x).turned = s.turned := rfl
@[simp] theorem setLink_seq (s : State) (l : Nat) (x : Link) : (setLink s l x).seq = s.seq := rfl
@[simp] theorem setLink_freeCtr (s : State) (l : Nat) (x : Link) : (setLink s l x).freeCtr = s.freeCtr := rfl
@[simp] theorem setLink_cur (s : State) (l : Nat) (x : Link) : (setLink s l x).cur = s.cur := rfl
@[simp] theorem setLink_inputs (s : State) (l : Nat) (x : Link) : (setLink s l x).inputs = s.inputs := rfl
@[simp] theorem setLink_agenda (s : State) (l : Nat) (x : Link) : (setLink s l x).agenda = s.agenda := rfl
@[simp] theorem setLink_mem (s : State) (l : Nat) (x : Link) : (setLink s l x).mem = s.mem := rfl
@[simp] theorem setLink_part (s : State) (l : Nat) (x : Link) : (setLink s l x).part = s.part := rfl
@[simp] theorem setLink_dev (s : State) (l : Nat) (x : Link) : (setLink s l x).dev = s.dev := rfl
@[simp] theorem setLink_stacks (s : State) (l : Nat) (x : Link) : (setLink s l x).stackTab = s.stackTab := rfl
@[simp] theorem setLink_rows (s : State) (l : Nat) (x : Link) : (setLink s l x).rows = s.rows := rfl
@[simp] theorem setLink_banks (s : State) (l : Nat) (x : Link) : (setLink s l x).banks = s.banks := rfl
@[simp] theorem setLink_contexts (s : State) (l : Nat) (x : Link) : (setLink s l x).contexts = s.contexts := rfl
@[simp] theorem setLink_queues (s : State) (l : Nat) (x : Link) : (setLink s l x).queues = s.queues := rfl
@[simp] theorem setLink_lastServed (s : State) (l : Nat) (x : Link) : (setLink s l x).lastServed = s.lastServed := rfl
@[simp] theorem setLink_kernels (s : State) (l : Nat) (x : Link) : (setLink s l x).kernels = s.kernels := rfl
@[simp] theorem setLink_nextKernel (s : State) (l : Nat) (x : Link) : (setLink s l x).nextKernel = s.nextKernel := rfl
@[simp] theorem setLink_groups (s : State) (l : Nat) (x : Link) : (setLink s l x).groups = s.groups := rfl
@[simp] theorem setLink_waves (s : State) (l : Nat) (x : Link) : (setLink s l x).waves = s.waves := rfl
@[simp] theorem setLink_nextWave (s : State) (l : Nat) (x : Link) : (setLink s l x).nextWave = s.nextWave := rfl
@[simp] theorem setLink_tokens (s : State) (l : Nat) (x : Link) : (setLink s l x).tokens = s.tokens := rfl
@[simp] theorem setLink_barriers (s : State) (l : Nat) (x : Link) : (setLink s l x).barriers = s.barriers := rfl
@[simp] theorem setLink_jobs (s : State) (l : Nat) (x : Link) : (setLink s l x).jobs = s.jobs := rfl
@[simp] theorem setLink_nextJob (s : State) (l : Nat) (x : Link) : (setLink s l x).nextJob = s.nextJob := rfl
@[simp] theorem setLink_links (s : State) (l : Nat) (x : Link) : (setLink s l x).links = s.links.put l x := rfl
@[simp] theorem setLink_elog (s : State) (l : Nat) (x : Link) : (setLink s l x).elog = s.elog := rfl
@[simp] theorem setLink_elogSeq (s : State) (l : Nat) (x : Link) : (setLink s l x).elogSeq = s.elogSeq := rfl
@[simp] theorem setLink_elogWr (s : State) (l : Nat) (x : Link) : (setLink s l x).elogWr = s.elogWr := rfl
@[simp] theorem setLink_elogRd (s : State) (l : Nat) (x : Link) : (setLink s l x).elogRd = s.elogRd := rfl
@[simp] theorem setLink_elogLost (s : State) (l : Nat) (x : Link) : (setLink s l x).elogLost = s.elogLost := rfl
@[simp] theorem setLink_frames (s : State) (l : Nat) (x : Link) : (setLink s l x).frames = s.frames := rfl
@[simp] theorem setLink_pages (s : State) (l : Nat) (x : Link) : (setLink s l x).pages = s.pages := rfl
@[simp] theorem setLink_nextPage (s : State) (l : Nat) (x : Link) : (setLink s l x).nextPage = s.nextPage := rfl
@[simp] theorem setLink_bounce (s : State) (l : Nat) (x : Link) : (setLink s l x).bounce = s.bounce := rfl
@[simp] theorem setLink_cells (s : State) (l : Nat) (x : Link) : (setLink s l x).cells = s.cells := rfl
@[simp] theorem setLink_flips (s : State) (l : Nat) (x : Link) : (setLink s l x).flips = s.flips := rfl
@[simp] theorem setLink_sramBad (s : State) (l : Nat) (x : Link) : (setLink s l x).sramBad = s.sramBad := rfl
@[simp] theorem setLink_sramCount (s : State) (l : Nat) (x : Link) : (setLink s l x).sramCount = s.sramCount := rfl
@[simp] theorem setLink_msix (s : State) (l : Nat) (x : Link) : (setLink s l x).msix = s.msix := rfl
@[simp] theorem setLink_sent (s : State) (l : Nat) (x : Link) : (setLink s l x).sent = s.sent := rfl
@[simp] theorem setLink_replies (s : State) (l : Nat) (x : Link) : (setLink s l x).replies = s.replies := rfl

@[simp] theorem strandOf_setLink (s : State) (l j : Nat) (x : Link) : strandOf (setLink s l x) j = strandOf s j := rfl
@[simp] theorem rowOf_setLink (s : State) (l j : Nat) (x : Link) : rowOf (setLink s l x) j = rowOf s j := rfl
@[simp] theorem stackOf_setLink (s : State) (l j : Nat) (x : Link) : stackOf (setLink s l x) j = stackOf s j := rfl
@[simp] theorem groupOf_setLink (s : State) (l j : Nat) (x : Link) : groupOf (setLink s l x) j = groupOf s j := rfl
@[simp] theorem kernelOf_setLink (s : State) (l j : Nat) (x : Link) : kernelOf (setLink s l x) j = kernelOf s j := rfl
@[simp] theorem contextOf_setLink (s : State) (l j : Nat) (x : Link) : contextOf (setLink s l x) j = contextOf s j := rfl
@[simp] theorem queueOf_setLink (s : State) (l j : Nat) (x : Link) : queueOf (setLink s l x) j = queueOf s j := rfl
@[simp] theorem tokenOf_setLink (s : State) (l j : Nat) (x : Link) : tokenOf (setLink s l x) j = tokenOf s j := rfl
@[simp] theorem barrierOf_setLink (s : State) (l j : Nat) (x : Link) : barrierOf (setLink s l x) j = barrierOf s j := rfl
@[simp] theorem linkOf_setLink_self (s : State) (l : Nat) (x : Link) : linkOf (setLink s l x) l = x := Sparse.getD_put_self _ _ _ _
theorem linkOf_setLink_ne (s : State) (l j : Nat) (x : Link) (h : j ≠ l) : linkOf (setLink s l x) j = linkOf s j := Sparse.getD_put_ne _ _ _ h
@[simp] theorem readByte_setLink (s : State) (l a : Nat) (x : Link) : readByte (setLink s l x) a = readByte s a := rfl

@[simp] theorem post_hkc (s : State) (k : Clk) (t p r e : Nat) (c : Ctx) (y : Pay) : (post s k t p r e c y).hkc = s.hkc := rfl
@[simp] theorem post_turned (s : State) (k : Clk) (t p r e : Nat) (c : Ctx) (y : Pay) : (post s k t p r e c y).turned = s.turned := rfl
@[simp] theorem post_seq (s : State) (k : Clk) (t p r e : Nat) (c : Ctx) (y : Pay) : (post s k t p r e c y).seq = s.seq + 1 := rfl
@[simp] theorem post_freeCtr (s : State) (k : Clk) (t p r e : Nat) (c : Ctx) (y : Pay) : (post s k t p r e c y).freeCtr = s.freeCtr := rfl
@[simp] theorem post_cur (s : State) (k : Clk) (t p r e : Nat) (c : Ctx) (y : Pay) : (post s k t p r e c y).cur = s.cur := rfl
@[simp] theorem post_inputs (s : State) (k : Clk) (t p r e : Nat) (c : Ctx) (y : Pay) : (post s k t p r e c y).inputs = s.inputs := rfl
@[simp] theorem post_agenda (s : State) (k : Clk) (t p r e : Nat) (c : Ctx) (y : Pay) : (post s k t p r e c y).agenda = s.agenda ++ [{ clk := k, at_ := t, ph := p, row := r, eng := e, seq := s.seq, ctx := c, pay := y }] := rfl
@[simp] theorem post_mem (s : State) (k : Clk) (t p r e : Nat) (c : Ctx) (y : Pay) : (post s k t p r e c y).mem = s.mem := rfl
@[simp] theorem post_part (s : State) (k : Clk) (t p r e : Nat) (c : Ctx) (y : Pay) : (post s k t p r e c y).part = s.part := rfl
@[simp] theorem post_dev (s : State) (k : Clk) (t p r e : Nat) (c : Ctx) (y : Pay) : (post s k t p r e c y).dev = s.dev := rfl
@[simp] theorem post_stacks (s : State) (k : Clk) (t p r e : Nat) (c : Ctx) (y : Pay) : (post s k t p r e c y).stackTab = s.stackTab := rfl
@[simp] theorem post_rows (s : State) (k : Clk) (t p r e : Nat) (c : Ctx) (y : Pay) : (post s k t p r e c y).rows = s.rows := rfl
@[simp] theorem post_banks (s : State) (k : Clk) (t p r e : Nat) (c : Ctx) (y : Pay) : (post s k t p r e c y).banks = s.banks := rfl
@[simp] theorem post_contexts (s : State) (k : Clk) (t p r e : Nat) (c : Ctx) (y : Pay) : (post s k t p r e c y).contexts = s.contexts := rfl
@[simp] theorem post_queues (s : State) (k : Clk) (t p r e : Nat) (c : Ctx) (y : Pay) : (post s k t p r e c y).queues = s.queues := rfl
@[simp] theorem post_lastServed (s : State) (k : Clk) (t p r e : Nat) (c : Ctx) (y : Pay) : (post s k t p r e c y).lastServed = s.lastServed := rfl
@[simp] theorem post_kernels (s : State) (k : Clk) (t p r e : Nat) (c : Ctx) (y : Pay) : (post s k t p r e c y).kernels = s.kernels := rfl
@[simp] theorem post_nextKernel (s : State) (k : Clk) (t p r e : Nat) (c : Ctx) (y : Pay) : (post s k t p r e c y).nextKernel = s.nextKernel := rfl
@[simp] theorem post_groups (s : State) (k : Clk) (t p r e : Nat) (c : Ctx) (y : Pay) : (post s k t p r e c y).groups = s.groups := rfl
@[simp] theorem post_waves (s : State) (k : Clk) (t p r e : Nat) (c : Ctx) (y : Pay) : (post s k t p r e c y).waves = s.waves := rfl
@[simp] theorem post_nextWave (s : State) (k : Clk) (t p r e : Nat) (c : Ctx) (y : Pay) : (post s k t p r e c y).nextWave = s.nextWave := rfl
@[simp] theorem post_tokens (s : State) (k : Clk) (t p r e : Nat) (c : Ctx) (y : Pay) : (post s k t p r e c y).tokens = s.tokens := rfl
@[simp] theorem post_barriers (s : State) (k : Clk) (t p r e : Nat) (c : Ctx) (y : Pay) : (post s k t p r e c y).barriers = s.barriers := rfl
@[simp] theorem post_jobs (s : State) (k : Clk) (t p r e : Nat) (c : Ctx) (y : Pay) : (post s k t p r e c y).jobs = s.jobs := rfl
@[simp] theorem post_nextJob (s : State) (k : Clk) (t p r e : Nat) (c : Ctx) (y : Pay) : (post s k t p r e c y).nextJob = s.nextJob := rfl
@[simp] theorem post_links (s : State) (k : Clk) (t p r e : Nat) (c : Ctx) (y : Pay) : (post s k t p r e c y).links = s.links := rfl
@[simp] theorem post_elog (s : State) (k : Clk) (t p r e : Nat) (c : Ctx) (y : Pay) : (post s k t p r e c y).elog = s.elog := rfl
@[simp] theorem post_elogSeq (s : State) (k : Clk) (t p r e : Nat) (c : Ctx) (y : Pay) : (post s k t p r e c y).elogSeq = s.elogSeq := rfl
@[simp] theorem post_elogWr (s : State) (k : Clk) (t p r e : Nat) (c : Ctx) (y : Pay) : (post s k t p r e c y).elogWr = s.elogWr := rfl
@[simp] theorem post_elogRd (s : State) (k : Clk) (t p r e : Nat) (c : Ctx) (y : Pay) : (post s k t p r e c y).elogRd = s.elogRd := rfl
@[simp] theorem post_elogLost (s : State) (k : Clk) (t p r e : Nat) (c : Ctx) (y : Pay) : (post s k t p r e c y).elogLost = s.elogLost := rfl
@[simp] theorem post_frames (s : State) (k : Clk) (t p r e : Nat) (c : Ctx) (y : Pay) : (post s k t p r e c y).frames = s.frames := rfl
@[simp] theorem post_pages (s : State) (k : Clk) (t p r e : Nat) (c : Ctx) (y : Pay) : (post s k t p r e c y).pages = s.pages := rfl
@[simp] theorem post_nextPage (s : State) (k : Clk) (t p r e : Nat) (c : Ctx) (y : Pay) : (post s k t p r e c y).nextPage = s.nextPage := rfl
@[simp] theorem post_bounce (s : State) (k : Clk) (t p r e : Nat) (c : Ctx) (y : Pay) : (post s k t p r e c y).bounce = s.bounce := rfl
@[simp] theorem post_cells (s : State) (k : Clk) (t p r e : Nat) (c : Ctx) (y : Pay) : (post s k t p r e c y).cells = s.cells := rfl
@[simp] theorem post_flips (s : State) (k : Clk) (t p r e : Nat) (c : Ctx) (y : Pay) : (post s k t p r e c y).flips = s.flips := rfl
@[simp] theorem post_sramBad (s : State) (k : Clk) (t p r e : Nat) (c : Ctx) (y : Pay) : (post s k t p r e c y).sramBad = s.sramBad := rfl
@[simp] theorem post_sramCount (s : State) (k : Clk) (t p r e : Nat) (c : Ctx) (y : Pay) : (post s k t p r e c y).sramCount = s.sramCount := rfl
@[simp] theorem post_msix (s : State) (k : Clk) (t p r e : Nat) (c : Ctx) (y : Pay) : (post s k t p r e c y).msix = s.msix := rfl
@[simp] theorem post_sent (s : State) (k : Clk) (t p r e : Nat) (c : Ctx) (y : Pay) : (post s k t p r e c y).sent = s.sent := rfl
@[simp] theorem post_replies (s : State) (k : Clk) (t p r e : Nat) (c : Ctx) (y : Pay) : (post s k t p r e c y).replies = s.replies := rfl

@[simp] theorem strandOf_post (s : State) (k : Clk) (t p r e j : Nat) (c : Ctx) (y : Pay) : strandOf (post s k t p r e c y) j = strandOf s j := rfl
@[simp] theorem rowOf_post (s : State) (k : Clk) (t p r e j : Nat) (c : Ctx) (y : Pay) : rowOf (post s k t p r e c y) j = rowOf s j := rfl
@[simp] theorem stackOf_post (s : State) (k : Clk) (t p r e j : Nat) (c : Ctx) (y : Pay) : stackOf (post s k t p r e c y) j = stackOf s j := rfl
@[simp] theorem groupOf_post (s : State) (k : Clk) (t p r e j : Nat) (c : Ctx) (y : Pay) : groupOf (post s k t p r e c y) j = groupOf s j := rfl
@[simp] theorem kernelOf_post (s : State) (k : Clk) (t p r e j : Nat) (c : Ctx) (y : Pay) : kernelOf (post s k t p r e c y) j = kernelOf s j := rfl
@[simp] theorem contextOf_post (s : State) (k : Clk) (t p r e j : Nat) (c : Ctx) (y : Pay) : contextOf (post s k t p r e c y) j = contextOf s j := rfl
@[simp] theorem queueOf_post (s : State) (k : Clk) (t p r e j : Nat) (c : Ctx) (y : Pay) : queueOf (post s k t p r e c y) j = queueOf s j := rfl
@[simp] theorem tokenOf_post (s : State) (k : Clk) (t p r e j : Nat) (c : Ctx) (y : Pay) : tokenOf (post s k t p r e c y) j = tokenOf s j := rfl
@[simp] theorem barrierOf_post (s : State) (k : Clk) (t p r e j : Nat) (c : Ctx) (y : Pay) : barrierOf (post s k t p r e c y) j = barrierOf s j := rfl
@[simp] theorem linkOf_post (s : State) (k : Clk) (t p r e j : Nat) (c : Ctx) (y : Pay) : linkOf (post s k t p r e c y) j = linkOf s j := rfl
@[simp] theorem readByte_post (s : State) (k : Clk) (t p r e a : Nat) (c : Ctx) (y : Pay) : readByte (post s k t p r e c y) a = readByte s a := rfl

@[simp] theorem writeByte_hkc (s : State) (a : Nat) (b : Byte) : (writeByte s a b).hkc = s.hkc := rfl
@[simp] theorem writeByte_turned (s : State) (a : Nat) (b : Byte) : (writeByte s a b).turned = s.turned := rfl
@[simp] theorem writeByte_seq (s : State) (a : Nat) (b : Byte) : (writeByte s a b).seq = s.seq := rfl
@[simp] theorem writeByte_freeCtr (s : State) (a : Nat) (b : Byte) : (writeByte s a b).freeCtr = s.freeCtr := rfl
@[simp] theorem writeByte_cur (s : State) (a : Nat) (b : Byte) : (writeByte s a b).cur = s.cur := rfl
@[simp] theorem writeByte_inputs (s : State) (a : Nat) (b : Byte) : (writeByte s a b).inputs = s.inputs := rfl
@[simp] theorem writeByte_agenda (s : State) (a : Nat) (b : Byte) : (writeByte s a b).agenda = s.agenda := rfl
@[simp] theorem writeByte_mem (s : State) (a : Nat) (b : Byte) : (writeByte s a b).mem = cellPut s.mem (homeAddr a) b := rfl
@[simp] theorem writeByte_part (s : State) (a : Nat) (b : Byte) : (writeByte s a b).part = s.part := rfl
@[simp] theorem writeByte_dev (s : State) (a : Nat) (b : Byte) : (writeByte s a b).dev = s.dev := rfl
@[simp] theorem writeByte_stacks (s : State) (a : Nat) (b : Byte) : (writeByte s a b).stackTab = s.stackTab := rfl
@[simp] theorem writeByte_rows (s : State) (a : Nat) (b : Byte) : (writeByte s a b).rows = s.rows := rfl
@[simp] theorem writeByte_banks (s : State) (a : Nat) (b : Byte) : (writeByte s a b).banks = s.banks := rfl
@[simp] theorem writeByte_contexts (s : State) (a : Nat) (b : Byte) : (writeByte s a b).contexts = s.contexts := rfl
@[simp] theorem writeByte_queues (s : State) (a : Nat) (b : Byte) : (writeByte s a b).queues = s.queues := rfl
@[simp] theorem writeByte_lastServed (s : State) (a : Nat) (b : Byte) : (writeByte s a b).lastServed = s.lastServed := rfl
@[simp] theorem writeByte_kernels (s : State) (a : Nat) (b : Byte) : (writeByte s a b).kernels = s.kernels := rfl
@[simp] theorem writeByte_nextKernel (s : State) (a : Nat) (b : Byte) : (writeByte s a b).nextKernel = s.nextKernel := rfl
@[simp] theorem writeByte_groups (s : State) (a : Nat) (b : Byte) : (writeByte s a b).groups = s.groups := rfl
@[simp] theorem writeByte_waves (s : State) (a : Nat) (b : Byte) : (writeByte s a b).waves = s.waves := rfl
@[simp] theorem writeByte_nextWave (s : State) (a : Nat) (b : Byte) : (writeByte s a b).nextWave = s.nextWave := rfl
@[simp] theorem writeByte_tokens (s : State) (a : Nat) (b : Byte) : (writeByte s a b).tokens = s.tokens := rfl
@[simp] theorem writeByte_barriers (s : State) (a : Nat) (b : Byte) : (writeByte s a b).barriers = s.barriers := rfl
@[simp] theorem writeByte_jobs (s : State) (a : Nat) (b : Byte) : (writeByte s a b).jobs = s.jobs := rfl
@[simp] theorem writeByte_nextJob (s : State) (a : Nat) (b : Byte) : (writeByte s a b).nextJob = s.nextJob := rfl
@[simp] theorem writeByte_links (s : State) (a : Nat) (b : Byte) : (writeByte s a b).links = s.links := rfl
@[simp] theorem writeByte_elog (s : State) (a : Nat) (b : Byte) : (writeByte s a b).elog = s.elog := rfl
@[simp] theorem writeByte_elogSeq (s : State) (a : Nat) (b : Byte) : (writeByte s a b).elogSeq = s.elogSeq := rfl
@[simp] theorem writeByte_elogWr (s : State) (a : Nat) (b : Byte) : (writeByte s a b).elogWr = s.elogWr := rfl
@[simp] theorem writeByte_elogRd (s : State) (a : Nat) (b : Byte) : (writeByte s a b).elogRd = s.elogRd := rfl
@[simp] theorem writeByte_elogLost (s : State) (a : Nat) (b : Byte) : (writeByte s a b).elogLost = s.elogLost := rfl
@[simp] theorem writeByte_frames (s : State) (a : Nat) (b : Byte) : (writeByte s a b).frames = s.frames := rfl
@[simp] theorem writeByte_pages (s : State) (a : Nat) (b : Byte) : (writeByte s a b).pages = s.pages := rfl
@[simp] theorem writeByte_nextPage (s : State) (a : Nat) (b : Byte) : (writeByte s a b).nextPage = s.nextPage := rfl
@[simp] theorem writeByte_bounce (s : State) (a : Nat) (b : Byte) : (writeByte s a b).bounce = s.bounce := rfl
@[simp] theorem writeByte_cells (s : State) (a : Nat) (b : Byte) : (writeByte s a b).cells = s.cells := rfl
@[simp] theorem writeByte_flips (s : State) (a : Nat) (b : Byte) : (writeByte s a b).flips = s.flips := rfl
@[simp] theorem writeByte_sramBad (s : State) (a : Nat) (b : Byte) : (writeByte s a b).sramBad = s.sramBad := rfl
@[simp] theorem writeByte_sramCount (s : State) (a : Nat) (b : Byte) : (writeByte s a b).sramCount = s.sramCount := rfl
@[simp] theorem writeByte_msix (s : State) (a : Nat) (b : Byte) : (writeByte s a b).msix = s.msix := rfl
@[simp] theorem writeByte_sent (s : State) (a : Nat) (b : Byte) : (writeByte s a b).sent = s.sent := rfl
@[simp] theorem writeByte_replies (s : State) (a : Nat) (b : Byte) : (writeByte s a b).replies = s.replies := rfl

end Sys2Proof.Machine
end

