-- ==== Sys2Proof/Laws/Control.lean ====
section
/-! SUPPORT. What control transfer can do: the idle count of a packet does not depend on registers or on what is due, and `goTo` sets the strand's `cp`
and posts the fetch, and nothing else. -/

namespace Sys2Proof.Machine

theorem idleAt_setStrand (s : State) (b c cp : Nat) (t : Strand) (h : t.grp = (strandOf s b).grp) : idleAt (setStrand s b t) c cp = idleAt s c cp := by
  have e : (strandOf (setStrand s b t) c).grp = (strandOf s c).grp := by
    by_cases hc : c = b
    · subst hc; rw [strandOf_setStrand_self]; exact h
    · rw [strandOf_setStrand_ne _ _ _ _ hc]
  unfold idleAt
  have g : bankGroup (setStrand s b t) c = bankGroup s c := by unfold bankGroup; rw [e]; rfl
  rw [g]; rfl

@[simp] theorem idleAt_post (s : State) (clk : Clk) (t ph row eng : Nat) (x : Ctx) (p : Pay) (c cp : Nat) :
    idleAt (post s clk t ph row eng x p) c cp = idleAt s c cp := rfl

@[simp] theorem idleAt_landLater (s : State) (d : Nat) (k : LandKind) (f : BitVec 8) (c cp : Nat) : idleAt (landLater s d k f) c cp = idleAt s c cp := rfl

/-- What `goTo` does: the strand's `cp` and one entry of the agenda. -/
theorem goTo_spec (s : State) (c : Ctx) (t cp : Nat) :
    strandOf (goTo s c t cp) c.bank = { strandOf s c.bank with cp := cp } ∧ (∀ j, j ≠ c.bank → strandOf (goTo s c t cp) j = strandOf s j) ∧
    goTo s c t cp = { s with agenda := (goTo s c t cp).agenda, seq := s.seq + 1, banks := (goTo s c t cp).banks } ∧
    ∃ e, (goTo s c t cp).agenda = s.agenda ++ [e] ∧ e.pay = .fetch c.bank ∧ e.clk = ctxClk c ∧ e.at_ = t + idleAt s c.bank cp :=
  ⟨strandOf_setStrand_self _ _ _, fun _ h => strandOf_setStrand_ne _ _ _ _ h, rfl, _, rfl, rfl, rfl, rfl⟩

end Sys2Proof.Machine
end

