-- ==== Sys2Proof/Laws/Exec.lean ====
section
/-! SUPPORT. One equation per constructor of `Instr`: `exec` is its own meaning; and what a guarded word does where its guard is off. -/

namespace Sys2Proof.Machine

/-- A guarded word answers. -/
theorem runWord_answers (s : State) (g : BitVec 4) (f : State → State) : ∃ t, runWord s g f = .next t := by
  unfold runWord; split <;> exact ⟨_, rfl⟩

theorem runMacro_answers (s : State) (g : BitVec 4) (i : Instr) (f : State → State) : ∃ t, runMacro s g i f = .next t :=
  runWord_answers _ _ _

/-- Guarded off, a word leaves the state as it is (R57). -/
theorem runWord_off (s : State) (g : BitVec 4) (f : State → State) (h : guardOn s g = false) : runWord s g f = .next s := by
  simp [runWord, h]

theorem runMacro_off (s : State) (g : BitVec 4) (i : Instr) (f : State → State) (h : guardOn s g = false) : runMacro s g i f = .next s :=
  runWord_off _ _ _ h

/-- Guarded on, a word has its effect. -/
theorem runWord_on (s : State) (g : BitVec 4) (f : State → State) (h : guardOn s g = true) : runWord s g f = .next (f s) := by
  simp [runWord, h]

theorem runMacro_on (s : State) (g : BitVec 4) (i : Instr) (f : State → State) (h : guardOn s g = true) :
    runMacro s g i f = .next (f { s with cur := { s.cur with word := (encode i).headD 0 } }) := runWord_on _ _ _ h

@[simp] theorem exec_packetHeader (i : BitVec 8) (c : BitVec 3) (j : BitVec 13) (s : State) : exec (.packetHeader i c j) s = execPacketHeader i c j s := rfl
@[simp] theorem exec_add (g : BitVec 4) (d : BitVec 5) (a : BitVec 5) (b : BitVec 5) (s : State) : exec (.add g d a b) s = execAdd g d a b s := rfl
@[simp] theorem exec_sub (g : BitVec 4) (d : BitVec 5) (a : BitVec 5) (b : BitVec 5) (s : State) : exec (.sub g d a b) s = execSub g d a b s := rfl
@[simp] theorem exec_and (g : BitVec 4) (d : BitVec 5) (a : BitVec 5) (b : BitVec 5) (s : State) : exec (.and g d a b) s = execAnd g d a b s := rfl
@[simp] theorem exec_or (g : BitVec 4) (d : BitVec 5) (a : BitVec 5) (b : BitVec 5) (s : State) : exec (.or g d a b) s = execOr g d a b s := rfl
@[simp] theorem exec_xor (g : BitVec 4) (d : BitVec 5) (a : BitVec 5) (b : BitVec 5) (s : State) : exec (.xor g d a b) s = execXor g d a b s := rfl
@[simp] theorem exec_shl (g : BitVec 4) (d : BitVec 5) (a : BitVec 5) (b : BitVec 5) (s : State) : exec (.shl g d a b) s = execShl g d a b s := rfl
@[simp] theorem exec_shr (g : BitVec 4) (d : BitVec 5) (a : BitVec 5) (b : BitVec 5) (s : State) : exec (.shr g d a b) s = execShr g d a b s := rfl
@[simp] theorem exec_shra (g : BitVec 4) (d : BitVec 5) (a : BitVec 5) (b : BitVec 5) (s : State) : exec (.shra g d a b) s = execShra g d a b s := rfl
@[simp] theorem exec_min (g : BitVec 4) (d : BitVec 5) (a : BitVec 5) (b : BitVec 5) (s : State) : exec (.min g d a b) s = execMin g d a b s := rfl
@[simp] theorem exec_max (g : BitVec 4) (d : BitVec 5) (a : BitVec 5) (b : BitVec 5) (s : State) : exec (.max g d a b) s = execMax g d a b s := rfl
@[simp] theorem exec_clz (g : BitVec 4) (d : BitVec 5) (a : BitVec 5) (s : State) : exec (.clz g d a) s = execClz g d a s := rfl
@[simp] theorem exec_popc (g : BitVec 4) (d : BitVec 5) (a : BitVec 5) (s : State) : exec (.popc g d a) s = execPopc g d a s := rfl
@[simp] theorem exec_mul (g : BitVec 4) (d : BitVec 5) (a : BitVec 5) (b : BitVec 5) (s : State) : exec (.mul g d a b) s = execMul g d a b s := rfl
@[simp] theorem exec_mulh (g : BitVec 4) (d : BitVec 5) (a : BitVec 5) (b : BitVec 5) (s : State) : exec (.mulh g d a b) s = execMulh g d a b s := rfl
@[simp] theorem exec_mulhu (g : BitVec 4) (d : BitVec 5) (a : BitVec 5) (b : BitVec 5) (s : State) : exec (.mulhu g d a b) s = execMulhu g d a b s := rfl
@[simp] theorem exec_div (g : BitVec 4) (d : BitVec 5) (a : BitVec 5) (b : BitVec 5) (s : State) : exec (.div g d a b) s = execDiv g d a b s := rfl
@[simp] theorem exec_divu (g : BitVec 4) (d : BitVec 5) (a : BitVec 5) (b : BitVec 5) (s : State) : exec (.divu g d a b) s = execDivu g d a b s := rfl
@[simp] theorem exec_rem (g : BitVec 4) (d : BitVec 5) (a : BitVec 5) (b : BitVec 5) (s : State) : exec (.rem g d a b) s = execRem g d a b s := rfl
@[simp] theorem exec_remu (g : BitVec 4) (d : BitVec 5) (a : BitVec 5) (b : BitVec 5) (s : State) : exec (.remu g d a b) s = execRemu g d a b s := rfl
@[simp] theorem exec_cmpEq (g : BitVec 4) (d : BitVec 5) (a : BitVec 5) (b : BitVec 5) (s : State) : exec (.cmpEq g d a b) s = execCmpEq g d a b s := rfl
@[simp] theorem exec_cmpLt (g : BitVec 4) (d : BitVec 5) (a : BitVec 5) (b : BitVec 5) (s : State) : exec (.cmpLt g d a b) s = execCmpLt g d a b s := rfl
@[simp] theorem exec_cmpLtu (g : BitVec 4) (d : BitVec 5) (a : BitVec 5) (b : BitVec 5) (s : State) : exec (.cmpLtu g d a b) s = execCmpLtu g d a b s := rfl
@[simp] theorem exec_cmpLe (g : BitVec 4) (d : BitVec 5) (a : BitVec 5) (b : BitVec 5) (s : State) : exec (.cmpLe g d a b) s = execCmpLe g d a b s := rfl
@[simp] theorem exec_cmpLeu (g : BitVec 4) (d : BitVec 5) (a : BitVec 5) (b : BitVec 5) (s : State) : exec (.cmpLeu g d a b) s = execCmpLeu g d a b s := rfl
@[simp] theorem exec_pand (g : BitVec 4) (d : BitVec 5) (a : BitVec 5) (b : BitVec 5) (s : State) : exec (.pand g d a b) s = execPand g d a b s := rfl
@[simp] theorem exec_por (g : BitVec 4) (d : BitVec 5) (a : BitVec 5) (b : BitVec 5) (s : State) : exec (.por g d a b) s = execPor g d a b s := rfl
@[simp] theorem exec_pxor (g : BitVec 4) (d : BitVec 5) (a : BitVec 5) (b : BitVec 5) (s : State) : exec (.pxor g d a b) s = execPxor g d a b s := rfl
@[simp] theorem exec_pandn (g : BitVec 4) (d : BitVec 5) (a : BitVec 5) (b : BitVec 5) (s : State) : exec (.pandn g d a b) s = execPandn g d a b s := rfl
@[simp] theorem exec_jr (g : BitVec 4) (d : BitVec 5) (a : BitVec 5) (s : State) : exec (.jr g d a) s = execJr g d a s := rfl
@[simp] theorem exec_addi (g : BitVec 4) (d : BitVec 5) (a : BitVec 5) (i : BitVec 9) (s : State) : exec (.addi g d a i) s = execAddi g d a i s := rfl
@[simp] theorem exec_andi (g : BitVec 4) (d : BitVec 5) (a : BitVec 5) (i : BitVec 9) (s : State) : exec (.andi g d a i) s = execAndi g d a i s := rfl
@[simp] theorem exec_ori (g : BitVec 4) (d : BitVec 5) (a : BitVec 5) (i : BitVec 9) (s : State) : exec (.ori g d a i) s = execOri g d a i s := rfl
@[simp] theorem exec_xori (g : BitVec 4) (d : BitVec 5) (a : BitVec 5) (i : BitVec 9) (s : State) : exec (.xori g d a i) s = execXori g d a i s := rfl
@[simp] theorem exec_shli (g : BitVec 4) (d : BitVec 5) (a : BitVec 5) (i : BitVec 9) (s : State) : exec (.shli g d a i) s = execShli g d a i s := rfl
@[simp] theorem exec_shri (g : BitVec 4) (d : BitVec 5) (a : BitVec 5) (i : BitVec 9) (s : State) : exec (.shri g d a i) s = execShri g d a i s := rfl
@[simp] theorem exec_shrai (g : BitVec 4) (d : BitVec 5) (a : BitVec 5) (i : BitVec 9) (s : State) : exec (.shrai g d a i) s = execShrai g d a i s := rfl
@[simp] theorem exec_cmpiEq (g : BitVec 4) (d : BitVec 5) (a : BitVec 5) (i : BitVec 9) (s : State) : exec (.cmpiEq g d a i) s = execCmpiEq g d a i s := rfl
@[simp] theorem exec_cmpiLt (g : BitVec 4) (d : BitVec 5) (a : BitVec 5) (i : BitVec 9) (s : State) : exec (.cmpiLt g d a i) s = execCmpiLt g d a i s := rfl
@[simp] theorem exec_cmpiLtu (g : BitVec 4) (d : BitVec 5) (a : BitVec 5) (i : BitVec 9) (s : State) : exec (.cmpiLtu g d a i) s = execCmpiLtu g d a i s := rfl
@[simp] theorem exec_br (g : BitVec 4) (o : BitVec 19) (s : State) : exec (.br g o) s = execBr g o s := rfl
@[simp] theorem exec_call (g : BitVec 4) (o : BitVec 19) (s : State) : exec (.call g o) s = execCall g o s := rfl
@[simp] theorem exec_loop (a : BitVec 5) (l : BitVec 14) (s : State) : exec (.loop a l) s = execLoop a l s := rfl
@[simp] theorem exec_loopi (c : BitVec 10) (l : BitVec 9) (s : State) : exec (.loopi c l) s = execLoopi c l s := rfl
@[simp] theorem exec_ldB (g : BitVec 4) (t : BitVec 5) (a : BitVec 5) (c : BitVec 4) (o : BitVec 5) (s : State) : exec (.ldB g t a c o) s = execLdB g t a c o s := rfl
@[simp] theorem exec_ldBu (g : BitVec 4) (t : BitVec 5) (a : BitVec 5) (c : BitVec 4) (o : BitVec 5) (s : State) : exec (.ldBu g t a c o) s = execLdBu g t a c o s := rfl
@[simp] theorem exec_ldH (g : BitVec 4) (t : BitVec 5) (a : BitVec 5) (c : BitVec 4) (o : BitVec 5) (s : State) : exec (.ldH g t a c o) s = execLdH g t a c o s := rfl
@[simp] theorem exec_ldHu (g : BitVec 4) (t : BitVec 5) (a : BitVec 5) (c : BitVec 4) (o : BitVec 5) (s : State) : exec (.ldHu g t a c o) s = execLdHu g t a c o s := rfl
@[simp] theorem exec_ldW (g : BitVec 4) (t : BitVec 5) (a : BitVec 5) (c : BitVec 4) (o : BitVec 5) (s : State) : exec (.ldW g t a c o) s = execLdW g t a c o s := rfl
@[simp] theorem exec_ldWu (g : BitVec 4) (t : BitVec 5) (a : BitVec 5) (c : BitVec 4) (o : BitVec 5) (s : State) : exec (.ldWu g t a c o) s = execLdWu g t a c o s := rfl
@[simp] theorem exec_ldD (g : BitVec 4) (t : BitVec 5) (a : BitVec 5) (c : BitVec 4) (o : BitVec 5) (s : State) : exec (.ldD g t a c o) s = execLdD g t a c o s := rfl
@[simp] theorem exec_stB (g : BitVec 4) (t : BitVec 5) (a : BitVec 5) (c : BitVec 4) (o : BitVec 5) (s : State) : exec (.stB g t a c o) s = execStB g t a c o s := rfl
@[simp] theorem exec_stH (g : BitVec 4) (t : BitVec 5) (a : BitVec 5) (c : BitVec 4) (o : BitVec 5) (s : State) : exec (.stH g t a c o) s = execStH g t a c o s := rfl
@[simp] theorem exec_stW (g : BitVec 4) (t : BitVec 5) (a : BitVec 5) (c : BitVec 4) (o : BitVec 5) (s : State) : exec (.stW g t a c o) s = execStW g t a c o s := rfl
@[simp] theorem exec_stD (g : BitVec 4) (t : BitVec 5) (a : BitVec 5) (c : BitVec 4) (o : BitVec 5) (s : State) : exec (.stD g t a c o) s = execStD g t a c o s := rfl
@[simp] theorem exec_amoAdd (g : BitVec 4) (d : BitVec 5) (a : BitVec 5) (b : BitVec 5) (c : BitVec 4) (s : State) : exec (.amoAdd g d a b c) s = execAmoAdd g d a b c s := rfl
@[simp] theorem exec_amoAnd (g : BitVec 4) (d : BitVec 5) (a : BitVec 5) (b : BitVec 5) (c : BitVec 4) (s : State) : exec (.amoAnd g d a b c) s = execAmoAnd g d a b c s := rfl
@[simp] theorem exec_amoOr (g : BitVec 4) (d : BitVec 5) (a : BitVec 5) (b : BitVec 5) (c : BitVec 4) (s : State) : exec (.amoOr g d a b c) s = execAmoOr g d a b c s := rfl
@[simp] theorem exec_amoMax (g : BitVec 4) (d : BitVec 5) (a : BitVec 5) (b : BitVec 5) (c : BitVec 4) (s : State) : exec (.amoMax g d a b c) s = execAmoMax g d a b c s := rfl
@[simp] theorem exec_amoSwap (g : BitVec 4) (d : BitVec 5) (a : BitVec 5) (b : BitVec 5) (c : BitVec 4) (s : State) : exec (.amoSwap g d a b c) s = execAmoSwap g d a b c s := rfl
@[simp] theorem exec_amoCas (g : BitVec 4) (d : BitVec 5) (a : BitVec 5) (b : BitVec 5) (c : BitVec 4) (s : State) : exec (.amoCas g d a b c) s = execAmoCas g d a b c s := rfl
@[simp] theorem exec_csrr (g : BitVec 4) (d : BitVec 5) (c : BitVec 12) (s : State) : exec (.csrr g d c) s = execCsrr g d c s := rfl
@[simp] theorem exec_csrw (g : BitVec 4) (d : BitVec 5) (c : BitVec 12) (s : State) : exec (.csrw g d c) s = execCsrw g d c s := rfl
@[simp] theorem exec_csrs (g : BitVec 4) (d : BitVec 5) (c : BitVec 12) (s : State) : exec (.csrs g d c) s = execCsrs g d c s := rfl
@[simp] theorem exec_csrc (g : BitVec 4) (d : BitVec 5) (c : BitVec 12) (s : State) : exec (.csrc g d c) s = execCsrc g d c s := rfl
@[simp] theorem exec_trapEnd (g : BitVec 4) (s : State) : exec (.trapEnd g) s = execTrapEnd g s := rfl
@[simp] theorem exec_trapService (g : BitVec 4) (n : BitVec 9) (s : State) : exec (.trapService g n) s = execTrapService g n s := rfl
@[simp] theorem exec_tfence (g : BitVec 4) (s : State) : exec (.tfence g) s = execTfence g s := rfl
@[simp] theorem exec_vfaddF32 (g : BitVec 4) (d : BitVec 6) (a : BitVec 6) (b : BitVec 6) (n : BitVec 1) (s : State) : exec (.vfaddF32 g d a b n) s = execVfaddF32 g d a b n s := rfl
@[simp] theorem exec_vfaddBf16 (g : BitVec 4) (d : BitVec 6) (a : BitVec 6) (b : BitVec 6) (n : BitVec 1) (s : State) : exec (.vfaddBf16 g d a b n) s = execVfaddBf16 g d a b n s := rfl
@[simp] theorem exec_vfsubF32 (g : BitVec 4) (d : BitVec 6) (a : BitVec 6) (b : BitVec 6) (n : BitVec 1) (s : State) : exec (.vfsubF32 g d a b n) s = execVfsubF32 g d a b n s := rfl
@[simp] theorem exec_vfsubBf16 (g : BitVec 4) (d : BitVec 6) (a : BitVec 6) (b : BitVec 6) (n : BitVec 1) (s : State) : exec (.vfsubBf16 g d a b n) s = execVfsubBf16 g d a b n s := rfl
@[simp] theorem exec_vfmulF32 (g : BitVec 4) (d : BitVec 6) (a : BitVec 6) (b : BitVec 6) (n : BitVec 1) (s : State) : exec (.vfmulF32 g d a b n) s = execVfmulF32 g d a b n s := rfl
@[simp] theorem exec_vfmulBf16 (g : BitVec 4) (d : BitVec 6) (a : BitVec 6) (b : BitVec 6) (n : BitVec 1) (s : State) : exec (.vfmulBf16 g d a b n) s = execVfmulBf16 g d a b n s := rfl
@[simp] theorem exec_vfmaF32 (g : BitVec 4) (d : BitVec 6) (a : BitVec 6) (b : BitVec 6) (n : BitVec 1) (s : State) : exec (.vfmaF32 g d a b n) s = execVfmaF32 g d a b n s := rfl
@[simp] theorem exec_vfmaBf16 (g : BitVec 4) (d : BitVec 6) (a : BitVec 6) (b : BitVec 6) (n : BitVec 1) (s : State) : exec (.vfmaBf16 g d a b n) s = execVfmaBf16 g d a b n s := rfl
@[simp] theorem exec_vfmaxF32 (g : BitVec 4) (d : BitVec 6) (a : BitVec 6) (b : BitVec 6) (n : BitVec 1) (s : State) : exec (.vfmaxF32 g d a b n) s = execVfmaxF32 g d a b n s := rfl
@[simp] theorem exec_vfminF32 (g : BitVec 4) (d : BitVec 6) (a : BitVec 6) (b : BitVec 6) (n : BitVec 1) (s : State) : exec (.vfminF32 g d a b n) s = execVfminF32 g d a b n s := rfl
@[simp] theorem exec_vfrcp (g : BitVec 4) (d : BitVec 6) (a : BitVec 6) (n : BitVec 1) (s : State) : exec (.vfrcp g d a n) s = execVfrcp g d a n s := rfl
@[simp] theorem exec_vfrsq (g : BitVec 4) (d : BitVec 6) (a : BitVec 6) (n : BitVec 1) (s : State) : exec (.vfrsq g d a n) s = execVfrsq g d a n s := rfl
@[simp] theorem exec_vfexp2 (g : BitVec 4) (d : BitVec 6) (a : BitVec 6) (n : BitVec 1) (s : State) : exec (.vfexp2 g d a n) s = execVfexp2 g d a n s := rfl
@[simp] theorem exec_vfcmpEq (g : BitVec 4) (d : BitVec 6) (a : BitVec 6) (b : BitVec 6) (s : State) : exec (.vfcmpEq g d a b) s = execVfcmpEq g d a b s := rfl
@[simp] theorem exec_vfcmpLt (g : BitVec 4) (d : BitVec 6) (a : BitVec 6) (b : BitVec 6) (s : State) : exec (.vfcmpLt g d a b) s = execVfcmpLt g d a b s := rfl
@[simp] theorem exec_vfcmpLe (g : BitVec 4) (d : BitVec 6) (a : BitVec 6) (b : BitVec 6) (s : State) : exec (.vfcmpLe g d a b) s = execVfcmpLe g d a b s := rfl
@[simp] theorem exec_vaddI32 (g : BitVec 4) (d : BitVec 6) (a : BitVec 6) (b : BitVec 6) (n : BitVec 1) (s : State) : exec (.vaddI32 g d a b n) s = execVaddI32 g d a b n s := rfl
@[simp] theorem exec_vaddI16 (g : BitVec 4) (d : BitVec 6) (a : BitVec 6) (b : BitVec 6) (n : BitVec 1) (s : State) : exec (.vaddI16 g d a b n) s = execVaddI16 g d a b n s := rfl
@[simp] theorem exec_vsubI32 (g : BitVec 4) (d : BitVec 6) (a : BitVec 6) (b : BitVec 6) (n : BitVec 1) (s : State) : exec (.vsubI32 g d a b n) s = execVsubI32 g d a b n s := rfl
@[simp] theorem exec_vmulI32 (g : BitVec 4) (d : BitVec 6) (a : BitVec 6) (b : BitVec 6) (n : BitVec 1) (s : State) : exec (.vmulI32 g d a b n) s = execVmulI32 g d a b n s := rfl
@[simp] theorem exec_vand (g : BitVec 4) (d : BitVec 6) (a : BitVec 6) (b : BitVec 6) (n : BitVec 1) (s : State) : exec (.vand g d a b n) s = execVand g d a b n s := rfl
@[simp] theorem exec_vor (g : BitVec 4) (d : BitVec 6) (a : BitVec 6) (b : BitVec 6) (n : BitVec 1) (s : State) : exec (.vor g d a b n) s = execVor g d a b n s := rfl
@[simp] theorem exec_vxor (g : BitVec 4) (d : BitVec 6) (a : BitVec 6) (b : BitVec 6) (n : BitVec 1) (s : State) : exec (.vxor g d a b n) s = execVxor g d a b n s := rfl
@[simp] theorem exec_vshl (g : BitVec 4) (d : BitVec 6) (a : BitVec 6) (b : BitVec 6) (n : BitVec 1) (s : State) : exec (.vshl g d a b n) s = execVshl g d a b n s := rfl
@[simp] theorem exec_vshr (g : BitVec 4) (d : BitVec 6) (a : BitVec 6) (b : BitVec 6) (n : BitVec 1) (s : State) : exec (.vshr g d a b n) s = execVshr g d a b n s := rfl
@[simp] theorem exec_vshra (g : BitVec 4) (d : BitVec 6) (a : BitVec 6) (b : BitVec 6) (n : BitVec 1) (s : State) : exec (.vshra g d a b n) s = execVshra g d a b n s := rfl
@[simp] theorem exec_vminI32 (g : BitVec 4) (d : BitVec 6) (a : BitVec 6) (b : BitVec 6) (n : BitVec 1) (s : State) : exec (.vminI32 g d a b n) s = execVminI32 g d a b n s := rfl
@[simp] theorem exec_vmaxI32 (g : BitVec 4) (d : BitVec 6) (a : BitVec 6) (b : BitVec 6) (n : BitVec 1) (s : State) : exec (.vmaxI32 g d a b n) s = execVmaxI32 g d a b n s := rfl
@[simp] theorem exec_vlut3 (g : BitVec 4) (d : BitVec 6) (a : BitVec 6) (b : BitVec 6) (n : BitVec 1) (s : State) : exec (.vlut3 g d a b n) s = execVlut3 g d a b n s := rfl
@[simp] theorem exec_vfsh (g : BitVec 4) (d : BitVec 6) (a : BitVec 6) (b : BitVec 6) (n : BitVec 1) (s : State) : exec (.vfsh g d a b n) s = execVfsh g d a b n s := rfl
@[simp] theorem exec_vcmpEq (g : BitVec 4) (d : BitVec 6) (a : BitVec 6) (b : BitVec 6) (s : State) : exec (.vcmpEq g d a b) s = execVcmpEq g d a b s := rfl
@[simp] theorem exec_vcmpLt (g : BitVec 4) (d : BitVec 6) (a : BitVec 6) (b : BitVec 6) (s : State) : exec (.vcmpLt g d a b) s = execVcmpLt g d a b s := rfl
@[simp] theorem exec_vcmpLtu (g : BitVec 4) (d : BitVec 6) (a : BitVec 6) (b : BitVec 6) (s : State) : exec (.vcmpLtu g d a b) s = execVcmpLtu g d a b s := rfl
@[simp] theorem exec_vcvtBf16F32 (g : BitVec 4) (d : BitVec 6) (a : BitVec 6) (b : BitVec 6) (n : BitVec 1) (s : State) : exec (.vcvtBf16F32 g d a b n) s = execVcvtBf16F32 g d a b n s := rfl
@[simp] theorem exec_vcvtF32Bf16 (g : BitVec 4) (d : BitVec 6) (a : BitVec 6) (h : BitVec 1) (n : BitVec 1) (s : State) : exec (.vcvtF32Bf16 g d a h n) s = execVcvtF32Bf16 g d a h n s := rfl
@[simp] theorem exec_vcvtF32I32 (g : BitVec 4) (d : BitVec 6) (a : BitVec 6) (n : BitVec 1) (s : State) : exec (.vcvtF32I32 g d a n) s = execVcvtF32I32 g d a n s := rfl
@[simp] theorem exec_vcvtI32F32 (g : BitVec 4) (d : BitVec 6) (a : BitVec 6) (n : BitVec 1) (s : State) : exec (.vcvtI32F32 g d a n) s = execVcvtI32F32 g d a n s := rfl
@[simp] theorem exec_vcvtE4m3F32 (g : BitVec 4) (d : BitVec 6) (a : BitVec 6) (q : BitVec 2) (n : BitVec 1) (s : State) : exec (.vcvtE4m3F32 g d a q n) s = execVcvtE4m3F32 g d a q n s := rfl
@[simp] theorem exec_vcvtF32E4m3 (g : BitVec 4) (d : BitVec 6) (a : BitVec 6) (q : BitVec 2) (n : BitVec 1) (s : State) : exec (.vcvtF32E4m3 g d a q n) s = execVcvtF32E4m3 g d a q n s := rfl
@[simp] theorem exec_vqntE2m1 (g : BitVec 4) (d : BitVec 6) (a : BitVec 6) (q : BitVec 2) (n : BitVec 1) (s : State) : exec (.vqntE2m1 g d a q n) s = execVqntE2m1 g d a q n s := rfl
@[simp] theorem exec_vdqntE2m1 (g : BitVec 4) (d : BitVec 6) (a : BitVec 6) (q : BitVec 2) (n : BitVec 1) (s : State) : exec (.vdqntE2m1 g d a q n) s = execVdqntE2m1 g d a q n s := rfl
@[simp] theorem exec_vmov (g : BitVec 4) (d : BitVec 6) (a : BitVec 6) (n : BitVec 1) (s : State) : exec (.vmov g d a n) s = execVmov g d a n s := rfl
@[simp] theorem exec_vbcast (g : BitVec 4) (d : BitVec 6) (s0 : BitVec 5) (s : State) : exec (.vbcast g d s0) s = execVbcast g d s0 s := rfl
@[simp] theorem exec_vrot (g : BitVec 4) (d : BitVec 6) (a : BitVec 6) (i : BitVec 6) (n : BitVec 1) (s : State) : exec (.vrot g d a i n) s = execVrot g d a i n s := rfl
@[simp] theorem exec_vperm (g : BitVec 4) (d : BitVec 6) (a : BitVec 6) (b : BitVec 6) (n : BitVec 1) (s : State) : exec (.vperm g d a b n) s = execVperm g d a b n s := rfl
@[simp] theorem exec_vsel (g : BitVec 4) (d : BitVec 6) (a : BitVec 6) (b : BitVec 6) (n : BitVec 1) (s : State) : exec (.vsel g d a b n) s = execVsel g d a b n s := rfl
@[simp] theorem exec_vld (g : BitVec 4) (d : BitVec 6) (s0 : BitVec 5) (o : BitVec 4) (c : BitVec 4) (s : State) : exec (.vld g d s0 o c) s = execVld g d s0 o c s := rfl
@[simp] theorem exec_vst (g : BitVec 4) (d : BitVec 6) (s0 : BitVec 5) (o : BitVec 4) (c : BitVec 4) (s : State) : exec (.vst g d s0 o c) s = execVst g d s0 o c s := rfl
@[simp] theorem exec_vldg (g : BitVec 4) (d : BitVec 6) (a : BitVec 6) (s0 : BitVec 5) (c : BitVec 2) (s : State) : exec (.vldg g d a s0 c) s = execVldg g d a s0 c s := rfl
@[simp] theorem exec_vredAdd (g : BitVec 4) (d : BitVec 6) (a : BitVec 6) (s0 : BitVec 3) (n : BitVec 1) (s : State) : exec (.vredAdd g d a s0 n) s = execVredAdd g d a s0 n s := rfl
@[simp] theorem exec_vredMax (g : BitVec 4) (d : BitVec 6) (a : BitVec 6) (s0 : BitVec 3) (n : BitVec 1) (s : State) : exec (.vredMax g d a s0 n) s = execVredMax g d a s0 n s := rfl
@[simp] theorem exec_vany (g : BitVec 4) (d : BitVec 6) (a : BitVec 6) (s : State) : exec (.vany g d a) s = execVany g d a s := rfl
@[simp] theorem exec_vpush (g : BitVec 4) (d : BitVec 6) (a : BitVec 6) (s : State) : exec (.vpush g d a) s = execVpush g d a s := rfl
@[simp] theorem exec_vpushBal (g : BitVec 4) (d : BitVec 6) (a : BitVec 6) (s : State) : exec (.vpushBal g d a) s = execVpushBal g d a s := rfl
@[simp] theorem exec_vpop (g : BitVec 4) (d : BitVec 6) (a : BitVec 6) (b : BitVec 6) (n : BitVec 1) (s : State) : exec (.vpop g d a b n) s = execVpop g d a b n s := rfl
@[simp] theorem exec_kand (g : BitVec 4) (d : BitVec 6) (a : BitVec 6) (b : BitVec 6) (s : State) : exec (.kand g d a b) s = execKand g d a b s := rfl
@[simp] theorem exec_kor (g : BitVec 4) (d : BitVec 6) (a : BitVec 6) (b : BitVec 6) (s : State) : exec (.kor g d a b) s = execKor g d a b s := rfl
@[simp] theorem exec_knot (g : BitVec 4) (d : BitVec 6) (a : BitVec 6) (s : State) : exec (.knot g d a) s = execKnot g d a s := rfl
@[simp] theorem exec_mload (g : BitVec 4) (a : BitVec 5) (b : BitVec 5) (c : BitVec 1) (s : State) : exec (.mload g a b c) s = execMload g a b c s := rfl
@[simp] theorem exec_mloadt (g : BitVec 4) (a : BitVec 5) (b : BitVec 5) (c : BitVec 1) (s : State) : exec (.mloadt g a b c) s = execMloadt g a b c s := rfl
@[simp] theorem exec_mmulE2m1 (g : BitVec 4) (t : BitVec 2) (a : BitVec 5) (b : BitVec 5) (c : BitVec 1) (k : BitVec 1) (u : BitVec 1) (s : State) : exec (.mmulE2m1 g t a b c k u) s = execMmulE2m1 g t a b c k u s := rfl
@[simp] theorem exec_mmulE4m3 (g : BitVec 4) (t : BitVec 2) (a : BitVec 5) (b : BitVec 5) (c : BitVec 1) (k : BitVec 1) (u : BitVec 1) (s : State) : exec (.mmulE4m3 g t a b c k u) s = execMmulE4m3 g t a b c k u s := rfl
@[simp] theorem exec_mmulE5m2 (g : BitVec 4) (t : BitVec 2) (a : BitVec 5) (b : BitVec 5) (c : BitVec 1) (k : BitVec 1) (u : BitVec 1) (s : State) : exec (.mmulE5m2 g t a b c k u) s = execMmulE5m2 g t a b c k u s := rfl
@[simp] theorem exec_mmulI8 (g : BitVec 4) (t : BitVec 2) (a : BitVec 5) (b : BitVec 5) (c : BitVec 1) (k : BitVec 1) (u : BitVec 1) (s : State) : exec (.mmulI8 g t a b c k u) s = execMmulI8 g t a b c k u s := rfl
@[simp] theorem exec_mmulBf16 (g : BitVec 4) (t : BitVec 2) (a : BitVec 5) (b : BitVec 5) (c : BitVec 1) (k : BitVec 1) (u : BitVec 1) (s : State) : exec (.mmulBf16 g t a b c k u) s = execMmulBf16 g t a b c k u s := rfl
@[simp] theorem exec_mmulF16 (g : BitVec 4) (t : BitVec 2) (a : BitVec 5) (b : BitVec 5) (c : BitVec 1) (k : BitVec 1) (u : BitVec 1) (s : State) : exec (.mmulF16 g t a b c k u) s = execMmulF16 g t a b c k u s := rfl
@[simp] theorem exec_mmulg (g : BitVec 4) (t : BitVec 2) (a : BitVec 5) (b : BitVec 5) (f : BitVec 3) (c : BitVec 1) (k : BitVec 1) (u : BitVec 1) (s : State) : exec (.mmulg g t a b f c k u) s = execMmulg g t a b f c k u s := rfl
@[simp] theorem exec_mgrp (g : BitVec 4) (t : BitVec 2) (a : BitVec 5) (b : BitVec 5) (f : BitVec 3) (c : BitVec 1) (k : BitVec 1) (u : BitVec 1) (s : State) : exec (.mgrp g t a b f c k u) s = execMgrp g t a b f c k u s := rfl
@[simp] theorem exec_mconv (g : BitVec 4) (t : BitVec 2) (a : BitVec 5) (b : BitVec 5) (f : BitVec 3) (c : BitVec 1) (k : BitVec 1) (u : BitVec 1) (s : State) : exec (.mconv g t a b f c k u) s = execMconv g t a b f c k u s := rfl
@[simp] theorem exec_mscl (g : BitVec 4) (t : BitVec 2) (a : BitVec 5) (b : BitVec 5) (u : BitVec 1) (s : State) : exec (.mscl g t a b u) s = execMscl g t a b u s := rfl
@[simp] theorem exec_mdrainF32 (g : BitVec 4) (t : BitVec 2) (a : BitVec 5) (b : BitVec 5) (k : BitVec 1) (z : BitVec 1) (s : State) : exec (.mdrainF32 g t a b k z) s = execMdrainF32 g t a b k z s := rfl
@[simp] theorem exec_mdrainBf16 (g : BitVec 4) (t : BitVec 2) (a : BitVec 5) (b : BitVec 5) (k : BitVec 1) (z : BitVec 1) (s : State) : exec (.mdrainBf16 g t a b k z) s = execMdrainBf16 g t a b k z s := rfl
@[simp] theorem exec_mzero (g : BitVec 4) (t : BitVec 2) (s : State) : exec (.mzero g t) s = execMzero g t s := rfl
@[simp] theorem exec_mmode (g : BitVec 4) (a : BitVec 5) (b : BitVec 5) (s : State) : exec (.mmode g a b) s = execMmode g a b s := rfl
@[simp] theorem exec_ckloc (g : BitVec 4) (t : BitVec 2) (a : BitVec 5) (s : State) : exec (.ckloc g t a) s = execCkloc g t a s := rfl
@[simp] theorem exec_ckfix (g : BitVec 4) (t : BitVec 2) (s : State) : exec (.ckfix g t) s = execCkfix g t s := rfl
@[simp] theorem exec_ckinj (g : BitVec 4) (t : BitVec 2) (b : BitVec 5) (s : State) : exec (.ckinj g t b) s = execCkinj g t b s := rfl
@[simp] theorem exec_ckrd (g : BitVec 4) (t : BitVec 2) (a : BitVec 5) (b : BitVec 5) (s : State) : exec (.ckrd g t a b) s = execCkrd g t a b s := rfl
@[simp] theorem exec_mrty (g : BitVec 4) (t : BitVec 2) (s : State) : exec (.mrty g t) s = execMrty g t s := rfl
@[simp] theorem exec_xcopy (g : BitVec 4) (a : BitVec 5) (b : BitVec 5) (c : BitVec 5) (l : BitVec 4) (s : State) : exec (.xcopy g a b c l) s = execXcopy g a b c l s := rfl
@[simp] theorem exec_xsend (g : BitVec 4) (a : BitVec 5) (b : BitVec 5) (l : BitVec 4) (s : State) : exec (.xsend g a b l) s = execXsend g a b l s := rfl
@[simp] theorem exec_xrecv (g : BitVec 4) (a : BitVec 5) (b : BitVec 5) (c : BitVec 5) (l : BitVec 4) (s : State) : exec (.xrecv g a b c l) s = execXrecv g a b c l s := rfl
@[simp] theorem exec_xjob (g : BitVec 4) (a : BitVec 5) (b : BitVec 5) (s : State) : exec (.xjob g a b) s = execXjob g a b s := rfl
@[simp] theorem exec_xjobf (g : BitVec 4) (a : BitVec 5) (b : BitVec 5) (s : State) : exec (.xjobf g a b) s = execXjobf g a b s := rfl
@[simp] theorem exec_fence (g : BitVec 4) (s0 : BitVec 4) (m : BitVec 16) (s : State) : exec (.fence g s0 m) s = execFence g s0 m s := rfl
@[simp] theorem exec_tklend (g : BitVec 4) (a : BitVec 5) (b : BitVec 5) (s0 : BitVec 4) (s : State) : exec (.tklend g a b s0) s = execTklend g a b s0 s := rfl
@[simp] theorem exec_tklendPass (g : BitVec 4) (a : BitVec 5) (b : BitVec 5) (s0 : BitVec 4) (s : State) : exec (.tklendPass g a b s0) s = execTklendPass g a b s0 s := rfl
@[simp] theorem exec_tkshare (g : BitVec 4) (a : BitVec 5) (b : BitVec 5) (s0 : BitVec 4) (s : State) : exec (.tkshare g a b s0) s = execTkshare g a b s0 s := rfl
@[simp] theorem exec_tkshareRv (g : BitVec 4) (a : BitVec 5) (b : BitVec 5) (s0 : BitVec 4) (s : State) : exec (.tkshareRv g a b s0) s = execTkshareRv g a b s0 s := rfl
@[simp] theorem exec_tktake (g : BitVec 4) (a : BitVec 5) (b : BitVec 5) (s0 : BitVec 4) (s : State) : exec (.tktake g a b s0) s = execTktake g a b s0 s := rfl
@[simp] theorem exec_tktakeSh (g : BitVec 4) (a : BitVec 5) (b : BitVec 5) (s0 : BitVec 4) (s : State) : exec (.tktakeSh g a b s0) s = execTktakeSh g a b s0 s := rfl
@[simp] theorem exec_tkret (g : BitVec 4) (a : BitVec 5) (s0 : BitVec 4) (s : State) : exec (.tkret g a s0) s = execTkret g a s0 s := rfl
@[simp] theorem exec_tkretSh (g : BitVec 4) (a : BitVec 5) (s0 : BitVec 4) (s : State) : exec (.tkretSh g a s0) s = execTkretSh g a s0 s := rfl
@[simp] theorem exec_tksplit (g : BitVec 4) (a : BitVec 5) (b : BitVec 5) (s : State) : exec (.tksplit g a b) s = execTksplit g a b s := rfl
@[simp] theorem exec_tkjoin (g : BitVec 4) (a : BitVec 5) (b : BitVec 5) (s : State) : exec (.tkjoin g a b) s = execTkjoin g a b s := rfl
@[simp] theorem exec_tkqry (g : BitVec 4) (a : BitVec 5) (b : BitVec 5) (s0 : BitVec 4) (s : State) : exec (.tkqry g a b s0) s = execTkqry g a b s0 s := rfl
@[simp] theorem exec_tkqryBase (g : BitVec 4) (a : BitVec 5) (b : BitVec 5) (s0 : BitVec 4) (s : State) : exec (.tkqryBase g a b s0) s = execTkqryBase g a b s0 s := rfl
@[simp] theorem exec_tkqryAg (g : BitVec 4) (a : BitVec 5) (b : BitVec 5) (s0 : BitVec 4) (s : State) : exec (.tkqryAg g a b s0) s = execTkqryAg g a b s0 s := rfl
@[simp] theorem exec_tkmint (g : BitVec 4) (a : BitVec 5) (b : BitVec 5) (s : State) : exec (.tkmint g a b) s = execTkmint g a b s := rfl
@[simp] theorem exec_tkmintNew (g : BitVec 4) (a : BitVec 5) (b : BitVec 5) (s : State) : exec (.tkmintNew g a b) s = execTkmintNew g a b s := rfl
@[simp] theorem exec_barm (g : BitVec 4) (a : BitVec 5) (b : BitVec 5) (s : State) : exec (.barm g a b) s = execBarm g a b s := rfl
@[simp] theorem exec_barmFree (g : BitVec 4) (a : BitVec 5) (s : State) : exec (.barmFree g a) s = execBarmFree g a s := rfl
@[simp] theorem exec_barr (g : BitVec 4) (a : BitVec 5) (s0 : BitVec 4) (s : State) : exec (.barr g a s0) s = execBarr g a s0 s := rfl
@[simp] theorem exec_barrQ (g : BitVec 4) (a : BitVec 5) (b : BitVec 5) (s0 : BitVec 4) (s : State) : exec (.barrQ g a b s0) s = execBarrQ g a b s0 s := rfl
@[simp] theorem exec_bwait (g : BitVec 4) (a : BitVec 5) (b : BitVec 5) (s0 : BitVec 4) (s : State) : exec (.bwait g a b s0) s = execBwait g a b s0 s := rfl
@[simp] theorem exec_realign (g : BitVec 4) (a : BitVec 5) (b : BitVec 5) (s0 : BitVec 4) (s : State) : exec (.realign g a b s0) s = execRealign g a b s0 s := rfl
@[simp] theorem exec_srdef (g : BitVec 4) (a : BitVec 5) (b : BitVec 5) (s : State) : exec (.srdef g a b) s = execSrdef g a b s := rfl
@[simp] theorem exec_srkill (g : BitVec 4) (a : BitVec 5) (s : State) : exec (.srkill g a) s = execSrkill g a s := rfl
@[simp] theorem exec_badd (g : BitVec 4) (a : BitVec 5) (b : BitVec 5) (d : BitVec 5) (t : BitVec 1) (u : BitVec 1) (s : State) : exec (.badd g a b d t u) s = execBadd g a b d t u s := rfl
@[simp] theorem exec_bsub (g : BitVec 4) (a : BitVec 5) (b : BitVec 5) (d : BitVec 5) (t : BitVec 1) (u : BitVec 1) (s : State) : exec (.bsub g a b d t u) s = execBsub g a b d t u s := rfl
@[simp] theorem exec_bmul (g : BitVec 4) (a : BitVec 5) (b : BitVec 5) (d : BitVec 5) (t : BitVec 1) (u : BitVec 1) (s : State) : exec (.bmul g a b d t u) s = execBmul g a b d t u s := rfl
@[simp] theorem exec_bmac (g : BitVec 4) (a : BitVec 5) (b : BitVec 5) (d : BitVec 5) (t : BitVec 1) (u : BitVec 1) (s : State) : exec (.bmac g a b d t u) s = execBmac g a b d t u s := rfl
@[simp] theorem exec_bcmp (g : BitVec 4) (a : BitVec 5) (b : BitVec 5) (d : BitVec 5) (v : BitVec 1) (c : BitVec 2) (s : State) : exec (.bcmp g a b d v c) s = execBcmp g a b d v c s := rfl
@[simp] theorem exec_blog (g : BitVec 4) (a : BitVec 5) (b : BitVec 5) (d : BitVec 5) (t : BitVec 4) (s : State) : exec (.blog g a b d t) s = execBlog g a b d t s := rfl
@[simp] theorem exec_bsum (g : BitVec 4) (a : BitVec 5) (d : BitVec 5) (t : BitVec 1) (u : BitVec 1) (s : State) : exec (.bsum g a d t u) s = execBsum g a d t u s := rfl
@[simp] theorem exec_looseWaitEnd (bank : Nat) (s : State) : exec (.looseWaitEnd bank) s = execLooseWaitEnd bank s := rfl
@[simp] theorem exec_mQueueIssue (row win : Nat) (s : State) : exec (.mQueueIssue row win) s = execMQueueIssue row win s := rfl
@[simp] theorem exec_bQueueIssue (row : Nat) (s : State) : exec (.bQueueIssue row) s = execBQueueIssue row s := rfl
@[simp] theorem exec_resultLand (l : Landing) (s : State) : exec (.resultLand l) s = execResultLand l s := rfl
@[simp] theorem exec_accessPerform (a : Access) (s : State) : exec (.accessPerform a) s = execAccessPerform a s := rfl
@[simp] theorem exec_pagerRelease (pf : Nat) (s : State) : exec (.pagerRelease pf) s = execPagerRelease pf s := rfl
@[simp] theorem exec_bankedOutReturn (bank : Nat) (s : State) : exec (.bankedOutReturn bank) s = execBankedOutReturn bank s := rfl
@[simp] theorem exec_freezeRelease (g : Nat) (s : State) : exec (.freezeRelease g) s = execFreezeRelease g s := rfl
@[simp] theorem exec_interruptTaken (bank : Nat) (s : State) : exec (.interruptTaken bank) s = execInterruptTaken bank s := rfl
@[simp] theorem exec_interruptTimerExpiry (bank : Nat) (s : State) : exec (.interruptTimerExpiry bank) s = execInterruptTimerExpiry bank s := rfl
@[simp] theorem exec_phaseRestart (g : Nat) (s : State) : exec (.phaseRestart g) s = execPhaseRestart g s := rfl
@[simp] theorem exec_queueEnable (blk : Nat) (s : State) : exec (.queueEnable blk) s = execQueueEnable blk s := rfl
@[simp] theorem exec_queueRestart (q ci : Nat) (s : State) : exec (.queueRestart q ci) s = execQueueRestart q ci s := rfl
@[simp] theorem exec_contextOpen (blk : Nat) (s : State) : exec (.contextOpen blk) s = execContextOpen blk s := rfl
@[simp] theorem exec_waveRelease (w : Nat) (s : State) : exec (.waveRelease w) s = execWaveRelease w s := rfl
@[simp] theorem exec_kernelComplete (k : Nat) (s : State) : exec (.kernelComplete k) s = execKernelComplete k s := rfl
@[simp] theorem exec_yieldRequestPost (g d : Nat) (s : State) : exec (.yieldRequestPost g d) s = execYieldRequestPost g d s := rfl
@[simp] theorem exec_yieldRequestArm (g z d : Nat) (s : State) : exec (.yieldRequestArm g z d) s = execYieldRequestArm g z d s := rfl
@[simp] theorem exec_yieldDeadlineExpiry (g : Nat) (s : State) : exec (.yieldDeadlineExpiry g) s = execYieldDeadlineExpiry g s := rfl
@[simp] theorem exec_shootdownPost (k : Nat) (chg : List WChange) (s : State) : exec (.shootdownPost k chg) s = execShootdownPost k chg s := rfl
@[simp] theorem exec_shootdownAck (k z : Nat) (s : State) : exec (.shootdownAck k z) s = execShootdownAck k z s := rfl
@[simp] theorem exec_shootdownUpdate (k : Nat) (s : State) : exec (.shootdownUpdate k) s = execShootdownUpdate k s := rfl
@[simp] theorem exec_timerArm (bank kc : Nat) (s : State) : exec (.timerArm bank kc) s = execTimerArm bank kc s := rfl
@[simp] theorem exec_runtimeMessagePost (bank payload : Nat) (s : State) : exec (.runtimeMessagePost bank payload) s = execRuntimeMessagePost bank payload s := rfl
@[simp] theorem exec_hostWindowTableRegister (c addr n : Nat) (s : State) : exec (.hostWindowTableRegister c addr n) s = execHostWindowTableRegister c addr n s := rfl
@[simp] theorem exec_realignStop (g z : Nat) (s : State) : exec (.realignStop g z) s = execRealignStop g z s := rfl
@[simp] theorem exec_realignRelease (g : Nat) (s : State) : exec (.realignRelease g) s = execRealignRelease g s := rfl
@[simp] theorem exec_realignTimeout (bank : Nat) (s : State) : exec (.realignTimeout bank) s = execRealignTimeout bank s := rfl
@[simp] theorem exec_handoffRelease (h : Handoff) (s : State) : exec (.handoffRelease h) s = execHandoffRelease h s := rfl
@[simp] theorem exec_handoffArrival (h : Handoff) (s : State) : exec (.handoffArrival h) s = execHandoffArrival h s := rfl
@[simp] theorem exec_tktakeTimeout (id : Nat) (share : Bool) (s : State) : exec (.tktakeTimeout id share) s = execTktakeTimeout id share s := rfl
@[simp] theorem exec_jobStart (job : Nat) (s : State) : exec (.jobStart job) s = execJobStart job s := rfl
@[simp] theorem exec_jobUnpark (job : Nat) (s : State) : exec (.jobUnpark job) s = execJobUnpark job s := rfl
@[simp] theorem exec_jobComplete (job : Nat) (s : State) : exec (.jobComplete job) s = execJobComplete job s := rfl
@[simp] theorem exec_messageArrival (m : Message) (s : State) : exec (.messageArrival m) s = execMessageArrival m s := rfl
@[simp] theorem exec_xrecvTimeout (id : Nat) (s : State) : exec (.xrecvTimeout id) s = execXrecvTimeout id s := rfl
@[simp] theorem exec_orphanMessageTimeout (chan serial : Nat) (s : State) : exec (.orphanMessageTimeout chan serial) s = execOrphanMessageTimeout chan serial s := rfl
@[simp] theorem exec_chainPartialArrival (p : Partial) (s : State) : exec (.chainPartialArrival p) s = execChainPartialArrival p s := rfl
@[simp] theorem exec_barmArrival (m : BarmMsg) (s : State) : exec (.barmArrival m) s = execBarmArrival m s := rfl
@[simp] theorem exec_barrierEvent (e : BarEvent) (s : State) : exec (.barrierEvent e) s = execBarrierEvent e s := rfl
@[simp] theorem exec_barrierNotice (n : BarNotice) (s : State) : exec (.barrierNotice n) s = execBarrierNotice n s := rfl
@[simp] theorem exec_bwaitDeadline (idx : Nat) (trips : Nat) (s : State) : exec (.bwaitDeadline idx trips) s = execBwaitDeadline idx trips s := rfl
@[simp] theorem exec_flitReceive (link : Nat) (f : Flit) (s : State) : exec (.flitReceive link f) s = execFlitReceive link f s := rfl
@[simp] theorem exec_linkTrainingDone (link failed : Nat) (passed : Bool) (s : State) : exec (.linkTrainingDone link failed passed) s = execLinkTrainingDone link failed passed s := rfl
@[simp] theorem exec_lstatRplyClear (link : Nat) (ones : BitVec 32) (s : State) : exec (.lstatRplyClear link ones) s = execLstatRplyClear link ones s := rfl
@[simp] theorem exec_hostMemAccess (a : HostAcc) (s : State) : exec (.hostMemAccess a) s = execHostMemAccess a s := rfl
@[simp] theorem exec_packageNumberSet (n east : Nat) (s : State) : exec (.packageNumberSet n east) s = execPackageNumberSet n east s := rfl
@[simp] theorem exec_firmwareUpdate (image sig : List Byte) (s : State) : exec (.firmwareUpdate image sig) s = execFirmwareUpdate image sig s := rfl
@[simp] theorem exec_elogRdWrite (slot : Nat) (s : State) : exec (.elogRdWrite slot) s = execElogRdWrite slot s := rfl
@[simp] theorem exec_elogLostClear (ones : BitVec 32) (s : State) : exec (.elogLostClear ones) s = execElogLostClear ones s := rfl
@[simp] theorem exec_managementPathTkmint (fresh : Bool) (val : Dword) (s : State) : exec (.managementPathTkmint fresh val) s = execManagementPathTkmint fresh val s := rfl
@[simp] theorem exec_managementPathBarrierArm (m : BarmMsg) (s : State) : exec (.managementPathBarrierArm m) s = execManagementPathBarrierArm m s := rfl
@[simp] theorem exec_managementPathBarrierFree (idx : Nat) (s : State) : exec (.managementPathBarrierFree idx) s = execManagementPathBarrierFree idx s := rfl
@[simp] theorem exec_rett (s : State) : exec .rett s = execRett s := rfl
@[simp] theorem exec_node0 (s : State) : exec .node0 s = execNode0 s := rfl
@[simp] theorem exec_node1 (s : State) : exec .node1 s = execNode1 s := rfl
@[simp] theorem exec_node2 (s : State) : exec .node2 s = execNode2 s := rfl
@[simp] theorem exec_yield (s : State) : exec .yield s = execYield s := rfl
@[simp] theorem exec_checkerMismatch (s : State) : exec .checkerMismatch s = execCheckerMismatch s := rfl
@[simp] theorem exec_refreshSlot (s : State) : exec .refreshSlot s = execRefreshSlot s := rfl
@[simp] theorem exec_frameEnd (s : State) : exec .frameEnd s = execFrameEnd s := rfl
@[simp] theorem exec_framePulse (s : State) : exec .framePulse s = execFramePulse s := rfl
@[simp] theorem exec_launch (s : State) : exec .launch s = execLaunch s := rfl
@[simp] theorem exec_fencePacket (s : State) : exec .fencePacket s = execFencePacket s := rfl
@[simp] theorem exec_fencePoll (s : State) : exec .fencePoll s = execFencePoll s := rfl
@[simp] theorem exec_signal (s : State) : exec .signal s = execSignal s := rfl
@[simp] theorem exec_jobPacket (s : State) : exec .jobPacket s = execJobPacket s := rfl
@[simp] theorem exec_tokenMint (s : State) : exec .tokenMint s = execTokenMint s := rfl
@[simp] theorem exec_tokenLend (s : State) : exec .tokenLend s = execTokenLend s := rfl
@[simp] theorem exec_tokenPass (s : State) : exec .tokenPass s = execTokenPass s := rfl
@[simp] theorem exec_tokenReturn (s : State) : exec .tokenReturn s = execTokenReturn s := rfl
@[simp] theorem exec_nop (s : State) : exec .nop s = execNop s := rfl
@[simp] theorem exec_queueLevelAging (s : State) : exec .queueLevelAging s = execQueueLevelAging s := rfl
@[simp] theorem exec_queueDisable (s : State) : exec .queueDisable s = execQueueDisable s := rfl
@[simp] theorem exec_contextClose (s : State) : exec .contextClose s = execContextClose s := rfl
@[simp] theorem exec_contextFree (s : State) : exec .contextFree s = execContextFree s := rfl
@[simp] theorem exec_placeWave (s : State) : exec .placeWave s = execPlaceWave s := rfl
@[simp] theorem exec_gateRequest (s : State) : exec .gateRequest s = execGateRequest s := rfl
@[simp] theorem exec_drainingQuiet (s : State) : exec .drainingQuiet s = execDrainingQuiet s := rfl
@[simp] theorem exec_gateCounterExpiry (s : State) : exec .gateCounterExpiry s = execGateCounterExpiry s := rfl
@[simp] theorem exec_wakeRequest (s : State) : exec .wakeRequest s = execWakeRequest s := rfl
@[simp] theorem exec_wakeComplete (s : State) : exec .wakeComplete s = execWakeComplete s := rfl
@[simp] theorem exec_stackOffline (s : State) : exec .stackOffline s = execStackOffline s := rfl
@[simp] theorem exec_forcedOffline (s : State) : exec .forcedOffline s = execForcedOffline s := rfl
@[simp] theorem exec_debuggerHalt (s : State) : exec .debuggerHalt s = execDebuggerHalt s := rfl
@[simp] theorem exec_debuggerResume (s : State) : exec .debuggerResume s = execDebuggerResume s := rfl
@[simp] theorem exec_coreCountClear (s : State) : exec .coreCountClear s = execCoreCountClear s := rfl
@[simp] theorem exec_replayComplete (s : State) : exec .replayComplete s = execReplayComplete s := rfl
@[simp] theorem exec_retrainTimeout (s : State) : exec .retrainTimeout s = execRetrainTimeout s := rfl
@[simp] theorem exec_linkRetrainRequest (s : State) : exec .linkRetrainRequest s = execLinkRetrainRequest s := rfl
@[simp] theorem exec_linkRetireRequest (s : State) : exec .linkRetireRequest s = execLinkRetireRequest s := rfl
@[simp] theorem exec_linkReset (s : State) : exec .linkReset s = execLinkReset s := rfl
@[simp] theorem exec_powerUp (s : State) : exec .powerUp s = execPowerUp s := rfl
@[simp] theorem exec_measurementRequest (s : State) : exec .measurementRequest s = execMeasurementRequest s := rfl
@[simp] theorem exec_temperatureHigh (s : State) : exec .temperatureHigh s = execTemperatureHigh s := rfl
@[simp] theorem exec_temperatureNormal (s : State) : exec .temperatureNormal s = execTemperatureNormal s := rfl
@[simp] theorem exec_malformedPacket (s : State) : exec .malformedPacket s = execMalformedPacket s := rfl

end Sys2Proof.Machine
end

