-- ==== Sys2Proof/Laws/Memory.lean ====
section
/-! SUPPORT. The laws of memory: a read after a write, and that every memory operation keeps the canonical form. -/

namespace Sys2Proof.Machine

/-- A canonical list lists nothing below its bound. -/
theorem cellGet_below (m : List Host.Cell) (lo a : Nat) (hm : cellsFrom lo m = true) (h : a < lo) : cellGet m a = 0 := by
  induction m generalizing lo with
  | nil => rfl
  | cons e t ih =>
    obtain ⟨k, b⟩ := e
    simp only [cellsFrom, Bool.and_eq_true, decide_eq_true_eq] at hm
    have hk : k ≠ a := by omega
    simp only [cellGet, if_neg hk]
    exact ih (k + 1) hm.2 (by omega)

/-- A write leaves every other address alone. -/
theorem cellGet_put_ne (m : List Host.Cell) (a x : Nat) (b : Byte) (h : x ≠ a) : cellGet (cellPut m a b) x = cellGet m x := by
  induction m with
  | nil => simp only [cellPut]; split <;> simp [cellGet, Ne.symm h]
  | cons e t ih =>
    obtain ⟨k, y⟩ := e
    simp only [cellPut]
    split
    · split <;> simp [cellGet, Ne.symm h]
    · split
      · rename_i h1; subst h1; split <;> simp [cellGet, Ne.symm h]
      · simp only [cellGet, ih]

/-- A read of the address just written gives the byte written. -/
theorem cellGet_put_self (m : List Host.Cell) (lo a : Nat) (b : Byte) (hm : cellsFrom lo m = true) : cellGet (cellPut m a b) a = b := by
  induction m generalizing lo with
  | nil =>
    simp only [cellPut]
    split
    · rename_i hb; exact hb.symm
    · simp [cellGet]
  | cons e t ih =>
    obtain ⟨k, y⟩ := e
    simp only [cellsFrom, Bool.and_eq_true, decide_eq_true_eq] at hm
    simp only [cellPut]
    split
    · rename_i hk
      split
      · rename_i hb
        have hne : k ≠ a := by omega
        simp only [cellGet, if_neg hne, hb]
        exact cellGet_below t (k + 1) a hm.2 (by omega)
      · simp [cellGet]
    · split
      · rename_i hk
        split
        · rename_i hb; rw [hb]; subst hk; exact cellGet_below t (a + 1) a hm.2 (by omega)
        · simp [cellGet]
      · rename_i h1 h2
        have hne : k ≠ a := Ne.symm h2
        simp only [cellGet, if_neg hne]
        exact ih (k + 1) hm.2

/-- A canonical list stays one from any lower bound. -/
theorem cellsFrom_weaken (t : List Host.Cell) (hi lo : Nat) (h : cellsFrom hi t = true) (hle : lo ≤ hi) : cellsFrom lo t = true := by
  cases t with
  | nil => rfl
  | cons e u =>
    obtain ⟨k, y⟩ := e
    simp only [cellsFrom, Bool.and_eq_true, decide_eq_true_eq] at h ⊢
    exact ⟨⟨by omega, h.1.2⟩, h.2⟩

/-- A write keeps the canonical form from any bound that lies at or below its address. -/
theorem cellsFrom_put (m : List Host.Cell) (lo a : Nat) (b : Byte) (hm : cellsFrom lo m = true) (ha : lo ≤ a) :
    cellsFrom lo (cellPut m a b) = true := by
  induction m generalizing lo with
  | nil =>
    simp only [cellPut]
    split
    · rfl
    · rename_i hb; simp only [cellsFrom, Bool.and_eq_true, decide_eq_true_eq]; exact ⟨⟨ha, hb⟩, trivial⟩
  | cons e t ih =>
    obtain ⟨k, y⟩ := e
    have hm' := hm
    simp only [cellsFrom, Bool.and_eq_true, decide_eq_true_eq] at hm'
    simp only [cellPut]
    split
    · rename_i hk
      split
      · exact hm
      · rename_i hb
        simp only [cellsFrom, Bool.and_eq_true, decide_eq_true_eq]
        exact ⟨⟨ha, hb⟩, ⟨⟨by omega, hm'.1.2⟩, hm'.2⟩⟩
    · split
      · rename_i hk; subst hk
        split
        · exact cellsFrom_weaken t (a + 1) lo hm'.2 (by omega)
        · rename_i hb
          simp only [cellsFrom, Bool.and_eq_true, decide_eq_true_eq]
          exact ⟨⟨ha, hb⟩, hm'.2⟩
      · simp only [cellsFrom, Bool.and_eq_true, decide_eq_true_eq]
        exact ⟨hm'.1, ih (k + 1) hm'.2 (by omega)⟩

/-- Picking entries keeps the canonical form. -/
theorem cellsFrom_filter (m : List Host.Cell) (lo : Nat) (f : Host.Cell → Bool) (hm : cellsFrom lo m = true) :
    cellsFrom lo (m.filter f) = true := by
  induction m generalizing lo with
  | nil => rfl
  | cons e t ih =>
    obtain ⟨k, y⟩ := e
    simp only [cellsFrom, Bool.and_eq_true, decide_eq_true_eq] at hm
    simp only [List.filter]
    split
    · simp only [cellsFrom, Bool.and_eq_true, decide_eq_true_eq]
      exact ⟨hm.1, ih (k + 1) hm.2⟩
    · exact cellsFrom_weaken _ (k + 1) lo (ih (k + 1) hm.2) (by omega)

theorem Memory.wf_filter (m : List Host.Cell) (f : Host.Cell → Bool) (hm : Memory.wf m = true) : Memory.wf (m.filter f) = true :=
  cellsFrom_filter m 0 f hm

/-- `writeByte` keeps the canonical form. -/
theorem writeByte_wf (s : State) (a : Nat) (b : Byte) (h : Memory.wf s.mem = true) : Memory.wf (writeByte s a b).mem = true :=
  cellsFrom_put s.mem 0 (homeAddr a) b h (Nat.zero_le _)

/-- What a read finds after `writeByte`: two addresses name one byte where `homeAddr` makes them one (R275). -/
theorem readByte_writeByte (s : State) (a x : Nat) (b : Byte) (h : Memory.wf s.mem = true) :
    readByte (writeByte s a b) x = if homeAddr x = homeAddr a then b else readByte s x := by
  simp only [readByte, writeByte]
  split
  · rename_i hx; rw [hx]; exact cellGet_put_self s.mem 0 (homeAddr a) b h
  · rename_i hx; exact cellGet_put_ne s.mem (homeAddr a) (homeAddr x) b hx

/-- `writeBytes` keeps the canonical form. -/
theorem writeBytes_wf (bs : List Byte) (s : State) (a : Nat) (h : Memory.wf s.mem = true) : Memory.wf (writeBytes s a bs).mem = true := by
  induction bs generalizing s a with
  | nil => exact h
  | cons b t ih => exact ih (writeByte s a b) (a + 1) (writeByte_wf s a b h)

/-- `writeMasked` keeps the canonical form. -/
theorem writeMasked_wf (bs : List Byte) (s : State) (a m : Nat) (h : Memory.wf s.mem = true) : Memory.wf (writeMasked s a bs m).mem = true := by
  induction bs generalizing s a m with
  | nil => exact h
  | cons b t ih =>
    simp only [writeMasked]
    split
    · exact ih _ _ _ (writeByte_wf s a b h)
    · exact ih _ _ _ h

/-- `writeNat` keeps the canonical form. -/
theorem writeNat_wf (s : State) (a n x : Nat) (h : Memory.wf s.mem = true) : Memory.wf (writeNat s a n x).mem = true :=
  writeBytes_wf _ s a h

/-- Bytes outside a write keep their value. -/
theorem readByte_writeBytes_ne (bs : List Byte) (s : State) (a x : Nat)
    (hx : ∀ i, i < bs.length → homeAddr x ≠ homeAddr (a + i)) : readByte (writeBytes s a bs) x = readByte s x := by
  induction bs generalizing s a with
  | nil => rfl
  | cons b t ih =>
    have h0 : homeAddr x ≠ homeAddr a := by simpa using hx 0 (by simp)
    simp only [writeBytes]
    rw [ih (writeByte s a b) (a + 1) (fun i hi => by
      have := hx (i + 1) (by simp; omega)
      rwa [show a + 1 + i = a + (i + 1) by omega])]
    simp only [readByte, writeByte]
    exact cellGet_put_ne s.mem (homeAddr a) (homeAddr x) b h0

/-- A write changes nothing but memory. -/
theorem writeBytes_frame (bs : List Byte) (s : State) (a : Nat) : writeBytes s a bs = { s with mem := (writeBytes s a bs).mem } := by
  induction bs generalizing s a with
  | nil => rfl
  | cons b t ih => simp only [writeBytes]; rw [ih]; rfl

end Sys2Proof.Machine
end

