-- ==== Sys2Proof/Laws/Frame.lean ====
section
/-! SUPPORT. What every operation of the machine does to memory. An operation `f` that writes none has a lemma `f_mem`: the memory after
it is the memory before it. One that writes memory has a lemma `f_inv`: it keeps the canonical form. Where an operation answers a value and a
state, `f_mem'` and `f_inv'` say the same of the state named by an equation. The operations stand in the order of their definitions. -/

namespace Sys2Proof.Machine

theorem inv_iff {s : State} : s.Inv ↔ Memory.wf s.mem = true := Iff.rfl
theorem inv_of {x y : State} (e : x.mem = y.mem) (h : y.Inv) : x.Inv := inv_iff.2 (by rw [e]; exact h)
theorem ite_inv {c : Prop} [Decidable c] {x y : State} (hx : x.Inv) (hy : y.Inv) : (if c then x else y).Inv := by split <;> assumption
theorem writeByte_inv (s : State) (a : Nat) (b : Byte) (h : s.Inv) : (writeByte s a b).Inv := writeByte_wf s a b h
theorem writeBytes_inv (s : State) (a : Nat) (bs : List Byte) (h : s.Inv) : (writeBytes s a bs).Inv := writeBytes_wf bs s a h
theorem writeMasked_inv (s : State) (a : Nat) (bs : List Byte) (m : Nat) (h : s.Inv) : (writeMasked s a bs m).Inv := writeMasked_wf bs s a m h
theorem writeNat_inv (s : State) (a n x : Nat) (h : s.Inv) : (writeNat s a n x).Inv := writeNat_wf s a n x h
theorem foldl_mem {α : Type} (f : State → α → State) (l : List α) (s : State) (m : List Host.Cell) (h : ∀ x y, (f x y).mem = x.mem) (e : s.mem = m) :
    (l.foldl f s).mem = m := by
  induction l generalizing s with
  | nil => exact e
  | cons a t ih => exact ih _ ((h s a).trans e)
theorem foldl_inv {α : Type} (f : State → α → State) (l : List α) (s : State) (h : ∀ x y, x.Inv → (f x y).Inv) (e : s.Inv) : (l.foldl f s).Inv := by
  induction l generalizing s with
  | nil => exact e
  | cons a t ih => exact ih _ (h s a e)

@[simp] theorem postHub_mem (s : State) (d : Nat) (i : Instr) : (postHub s d i).mem = s.mem := by
  unfold postHub
  repeat' (first
    | with_reducible rfl | with_reducible assumption | with_reducible refine Eq.trans (post_mem _ _ _ _ _ _ _ _) ?_ | dsimp only | split)

@[simp] theorem later_mem (s : State) (d : Nat) (ph : Nat) (eng : Nat) (i : Instr) : (later s d ph eng i).mem = s.mem := by
  unfold later
  repeat' (first
    | with_reducible rfl | with_reducible assumption | with_reducible refine Eq.trans (post_mem _ _ _ _ _ _ _ _) ?_ | dsimp only | split)

@[simp] theorem postKern_mem (s : State) (g : Nat) (z : Nat) (t : Nat) (ph : Nat) (i : Instr) : (postKern s g z t ph i).mem = s.mem := by
  unfold postKern
  repeat' (first
    | with_reducible rfl | with_reducible assumption | with_reducible refine Eq.trans (post_mem _ _ _ _ _ _ _ _) ?_ | dsimp only | split)

@[simp] theorem dropEntries_mem (s : State) (f : Timed → Bool) : (dropEntries s f).mem = s.mem := by
  unfold dropEntries
  repeat' (first
    | with_reducible rfl | with_reducible assumption | dsimp only | split)

@[simp] theorem freeValue_mem (s : State) : (freeValue s).2.mem = s.mem := by
  unfold freeValue
  repeat' (first
    | with_reducible rfl | with_reducible assumption | dsimp only | split)
theorem freeValue_mem' (s : State) (x' : _) (t' : State) (e' : freeValue s = (x', t')) : t'.mem = s.mem := by
  have q := freeValue_mem s; rwa [e'] at q

@[simp] theorem arrivalAt_mem (s : State) (i : Nat) (st : Nat) (d : Nat) (lo : Nat) (link : Bool) : (arrivalAt s i st d lo link).2.mem = s.mem := by
  unfold arrivalAt
  repeat' (first
    | with_reducible rfl | with_reducible assumption | with_reducible refine Eq.trans (freeValue_mem _) ?_
    | refine Eq.trans (freeValue_mem' _ _ _ (by assumption)) ?_ | dsimp only | split)
theorem arrivalAt_mem' (s : State) (i : Nat) (st : Nat) (d : Nat) (lo : Nat) (link : Bool) (x' : _) (t' : State) (e' : arrivalAt s i st d lo link = (x', t')) : t'.mem = s.mem := by
  have q := arrivalAt_mem s i st d lo link; rwa [e'] at q

@[simp] theorem setSlot_mem (s : State) (z : Nat) (g : Nat) (j : Nat) (x : Slot) : (setSlot s z g j x).mem = s.mem := by
  unfold setSlot
  repeat' (first
    | with_reducible rfl | with_reducible assumption | with_reducible refine Eq.trans (setStack_mem _ _ _) ?_ | dsimp only | split)

@[simp] theorem logRec_mem (s : State) (src : Nat) (sev : Nat) (tag : Nat) (ctx : Nat) (det : Nat) (frec : Option FaultRec) : (logRec s src sev tag ctx det frec).mem = s.mem := by
  unfold logRec
  repeat' (first
    | with_reducible rfl | with_reducible assumption | dsimp only | split)

@[simp] theorem poisonPage_mem (s : State) (pa : Nat) : (poisonPage s pa).mem = s.mem := by
  unfold poisonPage
  repeat' (first
    | with_reducible rfl | with_reducible assumption | dsimp only | split)

@[simp] theorem markPage_mem (s : State) (c : Nat) (e : WEntry) (i : Nat) : (markPage s c e i).mem = s.mem := by
  unfold markPage
  repeat' (first
    | with_reducible rfl | with_reducible assumption | dsimp only | split)

@[simp] theorem markPages_mem (s : State) (c : Nat) (l : List (WEntry × Nat)) : (markPages s c l).mem = s.mem := by
  unfold markPages
  repeat' (first
    | with_reducible rfl | with_reducible assumption | with_reducible refine Eq.trans (markPage_mem _ _ _ _) ?_
    | (refine foldl_mem _ _ _ _ ?_ ?_) | intro _ _ | dsimp only | split)

@[simp] theorem countDram_mem (s : State) (a : Nat) (group : Nat) : (countDram s a group).mem = s.mem := by
  unfold countDram
  repeat' (first
    | with_reducible rfl | with_reducible assumption | with_reducible refine Eq.trans (logRec_mem _ _ _ _ _ _ _) ?_ | dsimp only | split)

@[simp] theorem queueRewrite_mem (s : State) (a : Nat) : (queueRewrite s a).mem = s.mem := by
  unfold queueRewrite
  repeat' (first
    | with_reducible rfl | with_reducible assumption | dsimp only | split)

@[simp] theorem countBank_mem (s : State) (bank : Nat) (pa : Nat) : (countBank s bank pa).mem = s.mem := by
  unfold countBank
  repeat' (first
    | with_reducible rfl | with_reducible assumption | with_reducible refine Eq.trans (logRec_mem _ _ _ _ _ _ _) ?_ | dsimp only | split)

@[simp] theorem countSram_mem (s : State) (a : Nat) : (countSram s a).mem = s.mem := by
  unfold countSram
  repeat' (first
    | with_reducible rfl | with_reducible assumption | with_reducible refine Eq.trans (countBank_mem _ _ _) ?_ | dsimp only | split)

@[simp] theorem countInner_mem (s : State) (bank n : Nat) : (countInner s bank n).mem = s.mem := by
  induction n generalizing s with
  | zero => rfl
  | succ n ih => exact (ih _).trans ((countBank_mem _ _ _).trans (freeValue_mem _))

@[simp] theorem logInner_mem (s : State) : (logInner s).mem = s.mem := by
  unfold logInner
  repeat' (first
    | with_reducible rfl | with_reducible assumption | with_reducible refine Eq.trans (freeValue_mem _) ?_
    | refine Eq.trans (freeValue_mem' _ _ _ (by assumption)) ?_ | with_reducible refine Eq.trans (logRec_mem _ _ _ _ _ _ _) ?_ | dsimp only
    | split)

@[simp] theorem afterRead_mem (s : State) (a : Nat) (n : Nat) : (afterRead s a n).mem = s.mem := by
  unfold afterRead
  repeat' (first
    | with_reducible rfl | with_reducible assumption | with_reducible refine Eq.trans (countDram_mem _ _ _) ?_
    | with_reducible refine Eq.trans (queueRewrite_mem _ _) ?_ | with_reducible refine Eq.trans (countSram_mem _ _) ?_
    | (refine foldl_mem _ _ _ _ ?_ ?_) | intro _ _ | dsimp only | split)

theorem lineWritten_inv (s : State) (a : Nat) (mask : Nat) (l : Nat) (hinv : s.Inv) : (lineWritten s a mask l).Inv := by
  unfold lineWritten
  repeat' (first
    | with_reducible assumption | with_reducible refine writeBytes_inv _ _ _ ?_ | with_reducible refine inv_of (poisonPage_mem _ _) ?_
    | with_reducible refine inv_of (countDram_mem _ _ _) ?_ | split | (refine inv_iff.2 ?_; dsimp only; refine inv_iff.1 ?_) | dsimp only)

@[simp] theorem sramWritten_mem (s : State) (w : Nat) : (sramWritten s w).mem = s.mem := by
  unfold sramWritten
  repeat' (first
    | with_reducible rfl | with_reducible assumption | with_reducible refine Eq.trans (logRec_mem _ _ _ _ _ _ _) ?_
    | with_reducible refine Eq.trans (countSram_mem _ _) ?_ | (refine foldl_mem _ _ _ _ ?_ ?_) | intro _ _ | dsimp only | split)

theorem storeMasked_inv (s : State) (a : Nat) (bs : List Byte) (mask0 : Nat) (hinv : s.Inv) : (storeMasked s a bs mask0).Inv := by
  unfold storeMasked
  repeat' (first
    | with_reducible assumption | with_reducible refine writeMasked_inv _ _ _ _ ?_ | with_reducible refine inv_of (logRec_mem _ _ _ _ _ _ _) ?_
    | with_reducible refine lineWritten_inv _ _ _ _ ?_ | with_reducible refine inv_of (sramWritten_mem _ _) ?_
    | with_reducible refine foldl_inv _ _ _ ?_ ?_ | intro _ _ _ | split | (refine inv_iff.2 ?_; dsimp only; refine inv_iff.1 ?_) | dsimp only)

theorem storeBytes_inv (s : State) (a : Nat) (bs : List Byte) (hinv : s.Inv) : (storeBytes s a bs).Inv := by
  unfold storeBytes
  repeat' (first
    | with_reducible assumption | with_reducible refine storeMasked_inv _ _ _ _ ?_ | split
    | (refine inv_iff.2 ?_; dsimp only; refine inv_iff.1 ?_) | dsimp only)

theorem cleanLine_inv (s : State) (r : Nat) (l : Nat) (x : CacheLine) (hinv : s.Inv) : (cleanLine s r l x).Inv := by
  unfold cleanLine
  repeat' (first
    | with_reducible assumption | with_reducible refine inv_of (setRow_mem _ _ _) ?_ | with_reducible refine storeMasked_inv _ _ _ _ ?_ | split
    | (refine inv_iff.2 ?_; dsimp only; refine inv_iff.1 ?_) | dsimp only)

theorem evictLine_inv (s : State) (r : Nat) (l : Nat) (hinv : s.Inv) : (evictLine s r l).Inv := by
  unfold evictLine
  repeat' (first
    | with_reducible assumption | with_reducible refine inv_of (setRow_mem _ _ _) ?_ | with_reducible refine storeMasked_inv _ _ _ _ ?_ | split
    | (refine inv_iff.2 ?_; dsimp only; refine inv_iff.1 ?_) | dsimp only)

@[simp] theorem launchFlit_mem (s : State) (l : Nat) (k : Nat) (o : OutFlit) : (launchFlit s l k o).mem = s.mem := by
  unfold launchFlit
  repeat' (first
    | with_reducible rfl | with_reducible assumption | with_reducible refine Eq.trans (setLink_mem _ _ _) ?_ | dsimp only | split)

@[simp] theorem sendFlit_mem (s : State) (l : Nat) (slot : Nat) (row : Nat) (kind : Nat) (stamp : Nat) (payload : Nat) : (sendFlit s l slot row kind stamp payload).mem = s.mem := by
  unfold sendFlit
  repeat' (first
    | with_reducible rfl | with_reducible assumption | with_reducible refine Eq.trans (setLink_mem _ _ _) ?_
    | with_reducible refine Eq.trans (launchFlit_mem _ _ _ _) ?_ | dsimp only | split)

@[simp] theorem fillSlot_mem (s : State) (l : Nat) (k : Nat) : (fillSlot s l k).mem = s.mem := by
  unfold fillSlot
  repeat' (first
    | with_reducible rfl | with_reducible assumption | with_reducible refine Eq.trans (setLink_mem _ _ _) ?_
    | with_reducible refine Eq.trans (launchFlit_mem _ _ _ _) ?_ | dsimp only | split)

@[simp] theorem pumpLink_mem (s : State) (l : Nat) : (pumpLink s l).mem = s.mem := by
  unfold pumpLink
  repeat' (first
    | with_reducible rfl | with_reducible assumption | with_reducible refine Eq.trans (setLink_mem _ _ _) ?_
    | with_reducible refine Eq.trans (fillSlot_mem _ _ _) ?_ | (refine foldl_mem _ _ _ _ ?_ ?_) | intro _ _ | dsimp only | split)

@[simp] theorem useSlot_mem (s : State) (l : Nat) (k : Nat) (n : Nat) : (useSlot s l k n).2.mem = s.mem := by
  unfold useSlot
  repeat' (first
    | with_reducible rfl | with_reducible assumption | with_reducible refine Eq.trans (setLink_mem _ _ _) ?_ | dsimp only | split)
theorem useSlot_mem' (s : State) (l : Nat) (k : Nat) (n : Nat) (x' : _) (t' : State) (e' : useSlot s l k n = (x', t')) : t'.mem = s.mem := by
  have q := useSlot_mem s l k n; rwa [e'] at q

@[simp] theorem markDirty_mem (s : State) (b : Nat) (a : Nat) (n : Nat) : (markDirty s b a n).mem = s.mem := by
  unfold markDirty
  repeat' (first
    | with_reducible rfl | with_reducible assumption | with_reducible refine Eq.trans (setStrand_mem _ _ _) ?_ | dsimp only | split)

@[simp] theorem wakeForInterrupt_mem (s : State) (b : Nat) : (wakeForInterrupt s b).mem = s.mem := by
  unfold wakeForInterrupt
  repeat' (first
    | with_reducible rfl | with_reducible assumption | with_reducible refine Eq.trans (post_mem _ _ _ _ _ _ _ _) ?_ | dsimp only | split)

@[simp] theorem postInterrupt_mem (s : State) (b : Nat) (sub : Nat) (detail : Nat) : (postInterrupt s b sub detail).mem = s.mem := by
  unfold postInterrupt
  repeat' (first
    | with_reducible rfl | with_reducible assumption | with_reducible refine Eq.trans (setStrand_mem _ _ _) ?_
    | with_reducible refine Eq.trans (logRec_mem _ _ _ _ _ _ _) ?_ | with_reducible refine Eq.trans (wakeForInterrupt_mem _ _) ?_ | dsimp only
    | split)

@[simp] theorem sendNews_mem (s : State) (id : Nat) (n : Nat) (agent : Nat) (pkg : Nat) : (sendNews s id n agent pkg).mem = s.mem := by
  unfold sendNews
  repeat' (first
    | with_reducible rfl | with_reducible assumption | with_reducible refine Eq.trans (sendFlit_mem _ _ _ _ _ _ _) ?_ | dsimp only | split)

@[simp] theorem cancelAll_mem (s : State) (i : Nat) : (cancelAll s i).mem = s.mem := by
  unfold cancelAll
  repeat' (first
    | with_reducible rfl | with_reducible assumption | with_reducible refine Eq.trans (logRec_mem _ _ _ _ _ _ _) ?_
    | (refine foldl_mem _ _ _ _ ?_ ?_) | intro _ _ | dsimp only | split)

@[simp] theorem orphan_mem (s : State) (i : Nat) : (orphan s i).mem = s.mem := by
  unfold orphan
  repeat' (first
    | with_reducible rfl | with_reducible assumption | with_reducible refine Eq.trans (setToken_mem _ _ _) ?_
    | with_reducible refine Eq.trans (sendNews_mem _ _ _ _ _) ?_ | with_reducible refine Eq.trans (cancelAll_mem _ _) ?_ | dsimp only | split)

@[simp] theorem intoCustody_mem (s : State) (h : Handoff) : (intoCustody s h).mem = s.mem := by
  unfold intoCustody
  repeat' (first
    | with_reducible rfl | with_reducible assumption | with_reducible refine Eq.trans (setToken_mem _ _ _) ?_
    | with_reducible refine Eq.trans (logRec_mem _ _ _ _ _ _ _) ?_ | with_reducible refine Eq.trans (sendFlit_mem _ _ _ _ _ _ _) ?_
    | with_reducible refine Eq.trans (orphan_mem _ _) ?_ | dsimp only | split)

theorem overEdge_mem (p : Nat × State) (h : Handoff) (z : Nat) : (overEdge p h z).2.mem = p.2.mem := by
  unfold overEdge
  repeat' (first
    | with_reducible rfl | with_reducible refine Eq.trans (useSlot_mem _ _ _ _) ?_ | dsimp only | split)
@[simp] theorem postArrival_mem (s : State) (h : Handoff) : (postArrival s h).mem = s.mem := by
  unfold postArrival
  repeat' (first
    | with_reducible rfl | with_reducible refine Eq.trans (intoCustody_mem _ _) ?_ | with_reducible refine Eq.trans (post_mem _ _ _ _ _ _ _ _) ?_
    | with_reducible refine Eq.trans (overEdge_mem _ _ _) ?_ | with_reducible refine Eq.trans (arrivalAt_mem _ _ _ _ _ _) ?_ | dsimp only | split)

@[simp] theorem backToLender_mem (s : State) (i : Nat) (from_ : Nat) : (backToLender s i from_).mem = s.mem := by
  unfold backToLender
  repeat' (first
    | with_reducible rfl | with_reducible assumption | with_reducible refine Eq.trans (setToken_mem _ _ _) ?_
    | with_reducible refine Eq.trans (orphan_mem _ _) ?_ | with_reducible refine Eq.trans (postArrival_mem _ _) ?_ | dsimp only | split)

@[simp] theorem cancelShare_mem (s : State) (i : Nat) : (cancelShare s i).mem = s.mem := by
  unfold cancelShare
  repeat' (first
    | with_reducible rfl | with_reducible assumption | with_reducible refine Eq.trans (setToken_mem _ _ _) ?_
    | with_reducible refine Eq.trans (logRec_mem _ _ _ _ _ _ _) ?_ | with_reducible refine Eq.trans (postInterrupt_mem _ _ _ _) ?_
    | with_reducible refine Eq.trans (sendNews_mem _ _ _ _ _) ?_ | dsimp only | split)

@[simp] theorem failEntry_mem (s : State) (agent : Nat) (h : HeldTok) : (failEntry s agent h).mem = s.mem := by
  unfold failEntry
  repeat' (first
    | with_reducible rfl | with_reducible assumption | with_reducible refine Eq.trans (setToken_mem _ _ _) ?_
    | with_reducible refine Eq.trans (sendNews_mem _ _ _ _ _) ?_ | with_reducible refine Eq.trans (orphan_mem _ _) ?_
    | with_reducible refine Eq.trans (backToLender_mem _ _ _) ?_ | with_reducible refine Eq.trans (cancelShare_mem _ _) ?_ | dsimp only | split)

@[simp] theorem failInFlight_mem (s : State) (agent : Nat) : (failInFlight s agent).mem = s.mem := by
  unfold failInFlight
  repeat' (first
    | with_reducible rfl | with_reducible assumption | with_reducible refine Eq.trans (orphan_mem _ _) ?_
    | with_reducible refine Eq.trans (backToLender_mem _ _ _) ?_ | (refine foldl_mem _ _ _ _ ?_ ?_) | intro _ _ | dsimp only | split)

@[simp] theorem failAgent_mem (s : State) (agent : Nat) (held : List HeldTok) : (failAgent s agent held).mem = s.mem := by
  unfold failAgent
  repeat' (first
    | with_reducible rfl | with_reducible assumption | with_reducible refine Eq.trans (failEntry_mem _ _ _) ?_
    | with_reducible refine Eq.trans (failInFlight_mem _ _) ?_ | (refine foldl_mem _ _ _ _ ?_ ?_) | intro _ _ | dsimp only | split)

@[simp] theorem logWrites_mem (s : State) (b : Nat) (rs : List Nat) : (logWrites s b rs).mem = s.mem := by
  unfold logWrites
  repeat' (first
    | with_reducible rfl | with_reducible assumption | with_reducible refine Eq.trans (setRow_mem _ _ _) ?_ | dsimp only | split)

@[simp] theorem dropLog_mem (s : State) (b : Nat) : (dropLog s b).mem = s.mem := by
  unfold dropLog
  repeat' (first
    | with_reducible rfl | with_reducible assumption | with_reducible refine Eq.trans (setRow_mem _ _ _) ?_ | dsimp only | split)

@[simp] theorem putReg_mem (s : State) (b : Nat) (r : Nat) (v : Dword) : (putReg s b r v).mem = s.mem := by
  unfold putReg
  repeat' (first
    | with_reducible rfl | with_reducible assumption | with_reducible refine Eq.trans (setStrand_mem _ _ _) ?_
    | with_reducible refine Eq.trans (logWrites_mem _ _ _) ?_ | dsimp only | split)

@[simp] theorem rebuildVec_mem (s : State) (b : Nat) (us : List Nat) : (rebuildVec s b us).mem = s.mem := by
  unfold rebuildVec
  repeat' (first
    | with_reducible rfl | with_reducible assumption | with_reducible refine Eq.trans (setStrand_mem _ _ _) ?_
    | with_reducible refine Eq.trans (countInner_mem _ _ _) ?_ | dsimp only | split)

theorem putMem_inv (s : State) (pa : Nat) (n : Nat) (x : Nat) (hinv : s.Inv) : (putMem s pa n x).Inv := by
  unfold putMem
  repeat' (first
    | with_reducible assumption | with_reducible refine storeBytes_inv _ _ _ ?_ | split | (refine inv_iff.2 ?_; dsimp only; refine inv_iff.1 ?_)
    | dsimp only)

theorem putQueue_inv (s : State) (q : Nat) (x : Queue) (hinv : s.Inv) : (putQueue s q x).Inv := by
  unfold putQueue
  repeat' (first
    | with_reducible assumption | with_reducible refine inv_of (setQueue_mem _ _ _) ?_ | with_reducible refine putMem_inv _ _ _ _ ?_ | split
    | (refine inv_iff.2 ?_; dsimp only; refine inv_iff.1 ?_) | dsimp only)

theorem stopQueue_inv (s : State) (q reason sel cause chk : Nat) (hinv : s.Inv) : (stopQueue s q reason sel cause chk).Inv :=
  inv_of (logRec_mem _ _ _ _ _ _ _) (putQueue_inv _ _ _ hinv)

theorem writeBlock_inv (s : State) (g : Nat) (hinv : s.Inv) : (writeBlock s g).Inv := by
  unfold writeBlock
  repeat' (first
    | with_reducible assumption | with_reducible refine storeBytes_inv _ _ _ ?_ | split | (refine inv_iff.2 ?_; dsimp only; refine inv_iff.1 ?_)
    | dsimp only)

theorem setGroupState_inv (s : State) (g : Nat) (st : GroupState) (hinv : s.Inv) : (setGroupState s g st).Inv := by
  unfold setGroupState
  repeat' (first
    | with_reducible assumption | with_reducible refine inv_of (setGroup_mem _ _ _) ?_ | with_reducible refine writeBlock_inv _ _ ?_ | split
    | (refine inv_iff.2 ?_; dsimp only; refine inv_iff.1 ?_) | dsimp only)

theorem writeSave_inv (s : State) (g : Nat) (gstack : Nat) (grow : Nat) (r : SaveRec) (hinv : s.Inv) : (writeSave s g gstack grow r).Inv := by
  unfold writeSave
  repeat' (first
    | with_reducible assumption | with_reducible refine storeBytes_inv _ _ _ ?_ | split | (refine inv_iff.2 ?_; dsimp only; refine inv_iff.1 ?_)
    | dsimp only)

@[simp] theorem mapStrands_mem (s : State) (g : Nat) (z : Nat) (f : Strand → Strand) : (mapStrands s g z f).mem = s.mem := by
  unfold mapStrands
  repeat' (first
    | with_reducible rfl | with_reducible assumption | dsimp only | split)

@[simp] theorem landFrozen_mem (s : State) (g : Nat) (z : Nat) : (landFrozen s g z).mem = s.mem := by
  unfold landFrozen
  repeat' (first
    | with_reducible rfl | with_reducible assumption | dsimp only | split)

@[simp] theorem stopZone_mem (s : State) (g : Nat) (z : Nat) : (stopZone s g z).mem = s.mem := by
  unfold stopZone
  repeat' (first
    | with_reducible rfl | with_reducible assumption | with_reducible refine Eq.trans (setGroup_mem _ _ _) ?_
    | with_reducible refine Eq.trans (mapStrands_mem _ _ _ _) ?_ | with_reducible refine Eq.trans (landFrozen_mem _ _ _) ?_ | dsimp only | split)

theorem freezeGroup_inv (s : State) (g : Nat) (z : Nat) (why : StopFor) (hinv : s.Inv) : (freezeGroup s g z why).Inv := by
  unfold freezeGroup
  repeat' (first
    | with_reducible assumption | with_reducible refine inv_of (setGroup_mem _ _ _) ?_
    | with_reducible refine inv_of (post_mem _ _ _ _ _ _ _ _) ?_ | with_reducible refine setGroupState_inv _ _ _ ?_
    | with_reducible refine inv_of (stopZone_mem _ _ _) ?_ | with_reducible refine foldl_inv _ _ _ ?_ ?_ | intro _ _ _ | split
    | (refine inv_iff.2 ?_; dsimp only; refine inv_iff.1 ?_) | dsimp only)

@[simp] theorem endStop_mem (s : State) (g : Nat) (z : Nat) (why : StopFor) : (endStop s g z why).mem = s.mem := by
  unfold endStop
  repeat' (first
    | with_reducible rfl | with_reducible assumption | with_reducible refine Eq.trans (setGroup_mem _ _ _) ?_
    | with_reducible refine Eq.trans (post_mem _ _ _ _ _ _ _ _) ?_ | dsimp only | split)

@[simp] theorem withdraw_mem (s : State) (h : Handoff) : (withdraw s h).mem = s.mem := by
  unfold withdraw
  repeat' (first
    | with_reducible rfl | with_reducible assumption | with_reducible refine Eq.trans (setToken_mem _ _ _) ?_ | dsimp only | split)

@[simp] theorem keepArrivals_mem (s : State) (g : Nat) : (keepArrivals s g).mem = s.mem := by
  unfold keepArrivals
  repeat' (first
    | with_reducible rfl | with_reducible assumption | dsimp only | split)

@[simp] theorem discardFlight_mem (s0 : State) (g : Nat) : (discardFlight s0 g).mem = s0.mem := by
  unfold discardFlight
  repeat' (first
    | with_reducible rfl | with_reducible assumption | with_reducible refine Eq.trans (setStrand_mem _ _ _) ?_
    | with_reducible refine Eq.trans (setRow_mem _ _ _) ?_ | with_reducible refine Eq.trans (dropEntries_mem _ _) ?_
    | with_reducible refine Eq.trans (withdraw_mem _ _) ?_ | with_reducible refine Eq.trans (keepArrivals_mem _ _) ?_
    | (refine foldl_mem _ _ _ _ ?_ ?_) | intro _ _ | dsimp only | split)

@[simp] theorem clearRows_mem (s : State) (g : Nat) : (clearRows s g).mem = s.mem := by
  unfold clearRows
  repeat' (first
    | with_reducible rfl | with_reducible assumption | with_reducible refine Eq.trans (setRow_mem _ _ _) ?_ | (refine foldl_mem _ _ _ _ ?_ ?_)
    | intro _ _ | dsimp only | split)

@[simp] theorem freePlacement_mem (s : State) (g : Nat) : (freePlacement s g).mem = s.mem := by
  unfold freePlacement
  repeat' (first
    | with_reducible rfl | with_reducible assumption | with_reducible refine Eq.trans (setGroup_mem _ _ _) ?_
    | with_reducible refine Eq.trans (setToken_mem _ _ _) ?_ | dsimp only | split)

@[simp] theorem clearStack_mem (s : State) (g : Nat) (z : Nat) : (clearStack s g z).mem = s.mem := by
  unfold clearStack
  repeat' (first
    | with_reducible rfl | with_reducible assumption | with_reducible refine Eq.trans (setStack_mem _ _ _) ?_ | dsimp only | split)

@[simp] theorem loadSlots_mem (s : State) (g : Nat) (k : Nat) (z : Nat) : (loadSlots s g k z).mem = s.mem := by
  unfold loadSlots
  repeat' (first
    | with_reducible rfl | with_reducible assumption | with_reducible refine Eq.trans (setStack_mem _ _ _) ?_ | dsimp only | split)

@[simp] theorem switchTo_mem (s : State) (b : Nat) : (switchTo s b).mem = s.mem := by
  unfold switchTo
  repeat' (first
    | with_reducible rfl | with_reducible assumption | with_reducible refine Eq.trans (setStrand_mem _ _ _) ?_
    | with_reducible refine Eq.trans (setRow_mem _ _ _) ?_ | dsimp only | split)

@[simp] theorem offerCore_mem (s : State) (b : Nat) : (offerCore s b).mem = s.mem := by
  unfold offerCore
  repeat' (first
    | with_reducible rfl | with_reducible assumption | with_reducible refine Eq.trans (postHub_mem _ _ _) ?_ | dsimp only | split)

@[simp] theorem giveCore_mem (s : State) (b : Nat) : (giveCore s b).mem = s.mem := by
  unfold giveCore
  repeat' (first
    | with_reducible rfl | with_reducible assumption | with_reducible refine Eq.trans (switchTo_mem _ _) ?_
    | with_reducible refine Eq.trans (offerCore_mem _ _) ?_ | dsimp only | split)

@[simp] theorem unpair_mem (s : State) (r : Nat) : (unpair s r).mem = s.mem := by
  unfold unpair
  repeat' (first
    | with_reducible rfl | with_reducible assumption | with_reducible refine Eq.trans (setRow_mem _ _ _) ?_ | dsimp only | split)

@[simp] theorem requestGate_mem (s : State) (r : Nat) : (requestGate s r).mem = s.mem := by
  unfold requestGate
  repeat' (first
    | with_reducible rfl | with_reducible assumption | with_reducible refine Eq.trans (post_mem _ _ _ _ _ _ _ _) ?_ | dsimp only | split)

theorem evictRow_inv (s : State) (r : Nat) (hinv : s.Inv) : (evictRow s r).Inv := by
  unfold evictRow
  repeat' (first
    | with_reducible assumption | with_reducible refine evictLine_inv _ _ _ ?_ | with_reducible refine foldl_inv _ _ _ ?_ ?_ | intro _ _ _
    | split | (refine inv_iff.2 ?_; dsimp only; refine inv_iff.1 ?_) | dsimp only)

theorem releaseRows_inv (s : State) (g : Nat) (hinv : s.Inv) : (releaseRows s g).Inv := by
  unfold releaseRows
  repeat' (first
    | with_reducible assumption | with_reducible refine inv_of (postHub_mem _ _ _) ?_ | with_reducible refine inv_of (freePlacement_mem _ _) ?_
    | with_reducible refine inv_of (clearStack_mem _ _ _) ?_ | with_reducible refine inv_of (giveCore_mem _ _) ?_
    | with_reducible refine inv_of (unpair_mem _ _) ?_ | with_reducible refine inv_of (requestGate_mem _ _) ?_
    | with_reducible refine evictRow_inv _ _ ?_ | with_reducible refine foldl_inv _ _ _ ?_ ?_ | intro _ _ _ | split
    | (refine inv_iff.2 ?_; dsimp only; refine inv_iff.1 ?_) | dsimp only)

@[simp] theorem parkFollowOns_mem (s : State) (g : Nat) : (parkFollowOns s g).mem = s.mem := by
  unfold parkFollowOns
  repeat' (first
    | with_reducible rfl | with_reducible assumption | with_reducible refine Eq.trans (setRow_mem _ _ _) ?_
    | with_reducible refine Eq.trans (post_mem _ _ _ _ _ _ _ _) ?_ | (refine foldl_mem _ _ _ _ ?_ ?_) | intro _ _ | dsimp only | split)

@[simp] theorem dropFollowOns_mem (s : State) (g : Nat) : (dropFollowOns s g).mem = s.mem := by
  unfold dropFollowOns
  repeat' (first
    | with_reducible rfl | with_reducible assumption | with_reducible refine Eq.trans (setRow_mem _ _ _) ?_ | (refine foldl_mem _ _ _ _ ?_ ?_)
    | intro _ _ | dsimp only | split)

theorem leaveRows_inv (s0 : State) (g : Nat) (hinv : s0.Inv) : (leaveRows s0 g).Inv := by
  unfold leaveRows
  repeat' (first
    | with_reducible assumption | with_reducible refine inv_of (setGroup_mem _ _ _) ?_ | with_reducible refine inv_of (dropEntries_mem _ _) ?_
    | with_reducible refine writeSave_inv _ _ _ _ _ ?_ | with_reducible refine inv_of (keepArrivals_mem _ _) ?_
    | with_reducible refine releaseRows_inv _ _ ?_ | with_reducible refine inv_of (parkFollowOns_mem _ _) ?_
    | with_reducible refine foldl_inv _ _ _ ?_ ?_ | intro _ _ _ | split | (refine inv_iff.2 ?_; dsimp only; refine inv_iff.1 ?_) | dsimp only)

theorem yieldGroup_inv (s : State) (g : Nat) (hinv : s.Inv) : (yieldGroup s g).Inv := by
  unfold yieldGroup
  repeat' (first
    | with_reducible assumption | with_reducible refine setGroupState_inv _ _ _ ?_ | with_reducible refine inv_of (clearRows_mem _ _) ?_
    | with_reducible refine leaveRows_inv _ _ ?_ | split | (refine inv_iff.2 ?_; dsimp only; refine inv_iff.1 ?_) | dsimp only)

theorem leaveWhenDone_inv (s : State) (g : Nat) (hinv : s.Inv) : (leaveWhenDone s g).Inv := by
  unfold leaveWhenDone
  repeat' (first
    | with_reducible assumption | with_reducible refine inv_of (post_mem _ _ _ _ _ _ _ _) ?_ | with_reducible refine yieldGroup_inv _ _ ?_
    | split | (refine inv_iff.2 ?_; dsimp only; refine inv_iff.1 ?_) | dsimp only)

theorem forcePreempt_inv (s : State) (g : Nat) (hinv : s.Inv) : (forcePreempt s g).Inv := by
  unfold forcePreempt
  repeat' (first
    | with_reducible assumption | with_reducible refine setGroupState_inv _ _ _ ?_ | with_reducible refine inv_of (discardFlight_mem _ _) ?_
    | with_reducible refine yieldGroup_inv _ _ ?_ | split | (refine inv_iff.2 ?_; dsimp only; refine inv_iff.1 ?_) | dsimp only)

@[simp] theorem hubHandoff_mem (s : State) (kind : HandKind) (tok : Nat) (giver : Nat) (target : Nat) (scope : Nat) : (hubHandoff s kind tok giver target scope).mem = s.mem := by
  unfold hubHandoff
  repeat' (first
    | with_reducible rfl | with_reducible assumption | with_reducible refine Eq.trans (post_mem _ _ _ _ _ _ _ _) ?_ | dsimp only | split)

@[simp] theorem releaseShare_mem (s : State) (i : Nat) : (releaseShare s i).mem = s.mem := by
  unfold releaseShare
  repeat' (first
    | with_reducible rfl | with_reducible assumption | with_reducible refine Eq.trans (setToken_mem _ _ _) ?_
    | with_reducible refine Eq.trans (sendNews_mem _ _ _ _ _) ?_ | dsimp only | split)

@[simp] theorem disposeHeld_mem (s : State) (k : Nat) (agent : Nat) (h : HeldTok) : (disposeHeld s k agent h).mem = s.mem := by
  unfold disposeHeld
  repeat' (first
    | with_reducible rfl | with_reducible assumption | with_reducible refine Eq.trans (hubHandoff_mem _ _ _ _ _ _) ?_
    | with_reducible refine Eq.trans (releaseShare_mem _ _) ?_ | dsimp only | split)

@[simp] theorem startCompleting_mem (s : State) (k : Nat) : (startCompleting s k).mem = s.mem := by
  unfold startCompleting
  repeat' (first
    | with_reducible rfl | with_reducible assumption | with_reducible refine Eq.trans (setKernel_mem _ _ _) ?_
    | with_reducible refine Eq.trans (postHub_mem _ _ _) ?_ | with_reducible refine Eq.trans (logRec_mem _ _ _ _ _ _ _) ?_
    | with_reducible refine Eq.trans (disposeHeld_mem _ _ _ _) ?_ | (refine foldl_mem _ _ _ _ ?_ ?_) | intro _ _ | dsimp only | split)

@[simp] theorem checkKernel_mem (s : State) (k : Nat) : (checkKernel s k).mem = s.mem := by
  unfold checkKernel
  repeat' (first
    | with_reducible rfl | with_reducible assumption | with_reducible refine Eq.trans (startCompleting_mem _ _) ?_ | dsimp only | split)

@[simp] theorem failGroupTokens_mem (s : State) (g : Nat) : (failGroupTokens s g).mem = s.mem := by
  unfold failGroupTokens
  repeat' (first
    | with_reducible rfl | with_reducible assumption | with_reducible refine Eq.trans (failAgent_mem _ _ _) ?_
    | (refine foldl_mem _ _ _ _ ?_ ?_) | intro _ _ | dsimp only | split)

theorem killGroups_inv (s : State) (gs : List Nat) (hinv : s.Inv) : (killGroups s gs).Inv := by
  unfold killGroups
  repeat' (first
    | with_reducible assumption | with_reducible refine inv_of (setGroup_mem _ _ _) ?_ | with_reducible refine inv_of (setKernel_mem _ _ _) ?_
    | with_reducible refine setGroupState_inv _ _ _ ?_ | with_reducible refine inv_of (discardFlight_mem _ _) ?_
    | with_reducible refine inv_of (clearRows_mem _ _) ?_ | with_reducible refine releaseRows_inv _ _ ?_
    | with_reducible refine inv_of (dropFollowOns_mem _ _) ?_ | with_reducible refine inv_of (failGroupTokens_mem _ _) ?_
    | with_reducible refine foldl_inv _ _ _ ?_ ?_ | intro _ _ _ | split | (refine inv_iff.2 ?_; dsimp only; refine inv_iff.1 ?_) | dsimp only)

theorem killKernels_inv (s : State) (ks : List Nat) (hinv : s.Inv) : (killKernels s ks).Inv := by
  unfold killKernels
  repeat' (first
    | with_reducible assumption | with_reducible refine inv_of (setKernel_mem _ _ _) ?_
    | with_reducible refine inv_of (startCompleting_mem _ _) ?_ | with_reducible refine killGroups_inv _ _ ?_
    | with_reducible refine foldl_inv _ _ _ ?_ ?_ | intro _ _ _ | split | (refine inv_iff.2 ?_; dsimp only; refine inv_iff.1 ?_) | dsimp only)

theorem suspendQueue_inv (s : State) (q : Nat) (hinv : s.Inv) : (suspendQueue s q).Inv := by
  unfold suspendQueue
  repeat' (first
    | with_reducible assumption | with_reducible refine putQueue_inv _ _ _ ?_ | split | (refine inv_iff.2 ?_; dsimp only; refine inv_iff.1 ?_)
    | dsimp only)

theorem haltContext_inv (s : State) (c : Nat) (hinv : s.Inv) : (haltContext s c).Inv := by
  unfold haltContext
  repeat' (first
    | with_reducible assumption | with_reducible refine inv_of (setContext_mem _ _ _) ?_ | with_reducible refine killKernels_inv _ _ ?_
    | with_reducible refine suspendQueue_inv _ _ ?_ | with_reducible refine foldl_inv _ _ _ ?_ ?_ | intro _ _ _ | split
    | (refine inv_iff.2 ?_; dsimp only; refine inv_iff.1 ?_) | dsimp only)

theorem fatal_inv (s : State) (g : Nat) (r : FaultRec) (hinv : s.Inv) : (fatal s g r).Inv := by
  unfold fatal
  repeat' (first
    | with_reducible assumption | with_reducible refine inv_of (logRec_mem _ _ _ _ _ _ _) ?_
    | with_reducible refine stopQueue_inv _ _ _ _ _ _ ?_ | with_reducible refine inv_of (checkKernel_mem _ _) ?_
    | with_reducible refine killGroups_inv _ _ ?_ | with_reducible refine killKernels_inv _ _ ?_ | with_reducible refine haltContext_inv _ _ ?_
    | split | (refine inv_iff.2 ?_; dsimp only; refine inv_iff.1 ?_) | dsimp only)

theorem phaseCancel_inv (s : State) (g : Nat) (r : FaultRec) (hinv : s.Inv) : (phaseCancel s g r).Inv := by
  unfold phaseCancel
  repeat' (first
    | with_reducible assumption | with_reducible refine inv_of (setStrand_mem _ _ _) ?_ | with_reducible refine inv_of (setGroup_mem _ _ _) ?_
    | with_reducible refine inv_of (postHub_mem _ _ _) ?_ | with_reducible refine inv_of (discardFlight_mem _ _) ?_
    | with_reducible refine inv_of (clearRows_mem _ _) ?_ | with_reducible refine inv_of (offerCore_mem _ _) ?_
    | with_reducible refine inv_of (dropFollowOns_mem _ _) ?_ | with_reducible refine forcePreempt_inv _ _ ?_
    | with_reducible refine fatal_inv _ _ _ ?_ | with_reducible refine foldl_inv _ _ _ ?_ ?_ | intro _ _ _ | split
    | (refine inv_iff.2 ?_; dsimp only; refine inv_iff.1 ?_) | dsimp only)

@[simp] theorem restartAt_mem (s : State) (g : Nat) (k0 : Nat) : (restartAt s g k0).mem = s.mem := by
  unfold restartAt
  repeat' (first
    | with_reducible rfl | with_reducible assumption | with_reducible refine Eq.trans (setGroup_mem _ _ _) ?_ | (refine foldl_mem _ _ _ _ ?_ ?_)
    | intro _ _ | dsimp only | split)

theorem retireGroup_inv (s : State) (g : Nat) (hinv : s.Inv) : (retireGroup s g).Inv :=
  inv_of (checkKernel_mem _ _) (inv_of (setKernel_mem _ _ _) (releaseRows_inv _ _ (inv_of (dropEntries_mem _ _)
    (setGroupState_inv _ _ _ (inv_of (setGroup_mem _ _ _) (inv_of (keepArrivals_mem _ _) hinv))))))

theorem reopenContext_inv (s : State) (c : Nat) (hinv : s.Inv) : (reopenContext s c).Inv := by
  unfold reopenContext
  repeat' (first
    | with_reducible assumption | with_reducible refine inv_of (setContext_mem _ _ _) ?_ | with_reducible refine putQueue_inv _ _ _ ?_
    | with_reducible refine foldl_inv _ _ _ ?_ ?_ | intro _ _ _ | split | (refine inv_iff.2 ?_; dsimp only; refine inv_iff.1 ?_) | dsimp only)

@[simp] theorem purgeGroups_mem (s : State) : (purgeGroups s).mem = s.mem := by
  unfold purgeGroups
  repeat' (first
    | with_reducible rfl | with_reducible assumption | dsimp only | split)

@[simp] theorem poisonPiece_mem (s : State) (rd : Bool) (g : Seg × Nat) : (poisonPiece s rd g).mem = s.mem := by
  unfold poisonPiece
  repeat' (first
    | with_reducible rfl | with_reducible assumption | with_reducible refine Eq.trans (poisonPage_mem _ _) ?_ | (refine foldl_mem _ _ _ _ ?_ ?_)
    | intro _ _ | dsimp only | split)

@[simp] theorem poisonSegs_mem (s : State) (l : List Seg) : (poisonSegs s l).mem = s.mem := by
  unfold poisonSegs
  repeat' (first
    | with_reducible rfl | with_reducible assumption | with_reducible refine Eq.trans (poisonPage_mem _ _) ?_ | (refine foldl_mem _ _ _ _ ?_ ?_)
    | intro _ _ | dsimp only | split)

@[simp] theorem readRange_mem (s : State) (a : Nat) (n : Nat) : (readRange s a n).mem = s.mem := by
  unfold readRange
  repeat' (first
    | with_reducible rfl | with_reducible assumption | with_reducible refine Eq.trans (countDram_mem _ _ _) ?_
    | with_reducible refine Eq.trans (queueRewrite_mem _ _) ?_ | with_reducible refine Eq.trans (countSram_mem _ _) ?_
    | (refine foldl_mem _ _ _ _ ?_ ?_) | intro _ _ | dsimp only | split)

theorem clearRange_inv (s : State) (a : Nat) (n : Nat) (hinv : s.Inv) : (clearRange s a n).Inv :=
  Memory.wf_filter _ _ (foldl_inv (fun st (e : Nat × Bool) => sramWritten st e.1) _ s (fun _ _ h => inv_of (sramWritten_mem _ _) h) hinv)

theorem fillOutside_inv (s : State) (dst : Nat) (n : Nat) (hinv : s.Inv) : (fillOutside s dst n).Inv := by
  unfold fillOutside
  repeat' (first
    | with_reducible assumption | with_reducible refine writeBytes_inv _ _ _ ?_ | with_reducible refine clearRange_inv _ _ _ ?_ | split
    | (refine inv_iff.2 ?_; dsimp only; refine inv_iff.1 ?_) | dsimp only)

theorem copyRange_inv (s : State) (src : Nat) (dst : Nat) (n : Nat) (hinv : s.Inv) : (copyRange s src dst n).Inv :=
  foldl_inv _ _ _ (fun _ _ h => writeByte_inv _ _ _ h)
    (foldl_inv _ _ _ (fun _ _ h => writeByte_inv _ _ _ h) (clearRange_inv _ _ _ (inv_of (readRange_mem _ _ _) hinv)))

@[simp] theorem poisonRange_mem (s : State) (a : Nat) (n : Nat) : (poisonRange s a n).mem = s.mem := by
  unfold poisonRange
  repeat' (first
    | with_reducible rfl | with_reducible assumption | with_reducible refine Eq.trans (poisonPage_mem _ _) ?_ | (refine foldl_mem _ _ _ _ ?_ ?_)
    | intro _ _ | dsimp only | split)

@[simp] theorem carry_mem (s : State) (inward : Nat) (outward : Nat) (hub : List (Nat × Nat)) : (carry s inward outward hub).2.mem = s.mem := by
  unfold carry
  repeat' (first
    | with_reducible rfl | with_reducible assumption | with_reducible refine Eq.trans (setStack_mem _ _ _) ?_ | (refine foldl_mem _ _ _ _ ?_ ?_)
    | intro _ _ | dsimp only | split)
theorem carry_mem' (s : State) (inward : Nat) (outward : Nat) (hub : List (Nat × Nat)) (x' : _) (t' : State) (e' : carry s inward outward hub = (x', t')) : t'.mem = s.mem := by
  have q := carry_mem s inward outward hub; rwa [e'] at q

@[simp] theorem carryMove_mem (s : State) (src : Nat) (dst : Nat) (n : Nat) : (carryMove s src dst n).2.mem = s.mem := by
  unfold carryMove
  repeat' (first
    | with_reducible rfl | with_reducible assumption | with_reducible refine Eq.trans (carry_mem _ _ _ _) ?_
    | refine Eq.trans (carry_mem' _ _ _ _ _ _ (by assumption)) ?_ | dsimp only | split)
theorem carryMove_mem' (s : State) (src : Nat) (dst : Nat) (n : Nat) (x' : _) (t' : State) (e' : carryMove s src dst n = (x', t')) : t'.mem = s.mem := by
  have q := carryMove_mem s src dst n; rwa [e'] at q

@[simp] theorem mapEntries_mem (s : State) (c : Nat) (va : Nat) (f : WEntry → WEntry) : (mapEntries s c va f).mem = s.mem := by
  unfold mapEntries
  repeat' (first
    | with_reducible rfl | with_reducible assumption | dsimp only | split)

@[simp] theorem findFrame_mem (s : State) (z : Nat) (size : Nat) : (findFrame s z size).2.mem = s.mem := by
  unfold findFrame
  repeat' (first
    | with_reducible rfl | with_reducible assumption | with_reducible refine Eq.trans (freeValue_mem _) ?_
    | refine Eq.trans (freeValue_mem' _ _ _ (by assumption)) ?_ | dsimp only | split)
theorem findFrame_mem' (s : State) (z : Nat) (size : Nat) (x' : _) (t' : State) (e' : findFrame s z size = (x', t')) : t'.mem = s.mem := by
  have q := findFrame_mem s z size; rwa [e'] at q

theorem putBits_inv (s : State) (a : Nat) (data : BitVec 512) (mask : BitVec 512) (hinv : s.Inv) : (putBits s a data mask).Inv := by
  unfold putBits
  repeat' (first
    | with_reducible assumption | with_reducible refine storeMasked_inv _ _ _ _ ?_ | with_reducible refine foldl_inv _ _ _ ?_ ?_ | intro _ _ _
    | split | (refine inv_iff.2 ?_; dsimp only; refine inv_iff.1 ?_) | dsimp only)

theorem applyBounce_inv (s : State) (c : Nat) (va : Nat) (n : Nat) (dst : Nat) (hinv : s.Inv) : (applyBounce s c va n dst).Inv := by
  unfold applyBounce
  repeat' (first
    | with_reducible assumption | with_reducible refine putBits_inv _ _ _ _ ?_ | with_reducible refine foldl_inv _ _ _ ?_ ?_ | intro _ _ _
    | split | (refine inv_iff.2 ?_; dsimp only; refine inv_iff.1 ?_) | dsimp only)

theorem applyBounces_inv (s : State) (f : PageFrame) (dst : Nat) (hinv : s.Inv) : (applyBounces s f dst).Inv := by
  unfold applyBounces
  repeat' (first
    | with_reducible assumption | with_reducible refine applyBounce_inv _ _ _ _ _ ?_ | with_reducible refine foldl_inv _ _ _ ?_ ?_ | intro _ _ _
    | split | (refine inv_iff.2 ?_; dsimp only; refine inv_iff.1 ?_) | dsimp only)

@[simp] theorem dropBounces_mem (s : State) (f : PageFrame) : (dropBounces s f).mem = s.mem := by
  unfold dropBounces
  repeat' (first
    | with_reducible rfl | with_reducible assumption | dsimp only | split)

theorem evict_inv (s : State) (base : Nat) (f : PageFrame) (hinv : s.Inv) : (evict s base f).Inv := by
  unfold evict
  repeat' (first
    | with_reducible assumption | with_reducible refine copyRange_inv _ _ _ _ ?_ | with_reducible refine inv_of (mapEntries_mem _ _ _ _) ?_
    | with_reducible refine applyBounces_inv _ _ _ ?_ | with_reducible refine inv_of (dropBounces_mem _ _) ?_
    | with_reducible refine foldl_inv _ _ _ ?_ ?_ | intro _ _ _ | split | (refine inv_iff.2 ?_; dsimp only; refine inv_iff.1 ?_) | dsimp only)

@[simp] theorem startMove_mem (s : State) (c : Nat) (kern : Nat) (e : WEntry) (i : Nat) (frame : Nat) : (startMove s c kern e i frame).mem = s.mem := by
  unfold startMove
  repeat' (first
    | with_reducible rfl | with_reducible assumption | with_reducible refine Eq.trans (postHub_mem _ _ _) ?_
    | with_reducible refine Eq.trans (freeValue_mem _) ?_ | refine Eq.trans (freeValue_mem' _ _ _ (by assumption)) ?_
    | with_reducible refine Eq.trans (carryMove_mem _ _ _ _) ?_ | refine Eq.trans (carryMove_mem' _ _ _ _ _ _ (by assumption)) ?_
    | with_reducible refine Eq.trans (mapEntries_mem _ _ _ _) ?_ | dsimp only | split)

@[simp] theorem startResident_mem (s : State) (c : Nat) (kern : Nat) (e : WEntry) (frame : Nat) : (startResident s c kern e frame).mem = s.mem := by
  unfold startResident
  repeat' (first
    | with_reducible rfl | with_reducible assumption | with_reducible refine Eq.trans (postHub_mem _ _ _) ?_ | dsimp only | split)

theorem frameOr_inv (s : State) (a : Option Nat) (v : Option (Nat × PageFrame)) (hinv : s.Inv) : (frameOr s a v).2.Inv := by
  unfold frameOr
  repeat' (first
    | with_reducible assumption | with_reducible refine evict_inv _ _ _ ?_ | split | (refine inv_iff.2 ?_; dsimp only; refine inv_iff.1 ?_)
    | dsimp only)
theorem frameOr_inv' (s : State) (a : Option Nat) (v : Option (Nat × PageFrame)) (x' : _) (t' : State) (e' : frameOr s a v = (x', t')) (hinv : s.Inv) : t'.Inv := by
  have q := frameOr_inv s a v hinv; rwa [e'] at q

theorem giveFrame_inv (s : State) (c : Nat) (kern : Nat) (tbl : List WEntry) (va : Nat) (e : WEntry) (touched : List Seg) (hinv : s.Inv) : (giveFrame s c kern tbl va e touched).2.Inv := by
  unfold giveFrame
  repeat' (first
    | with_reducible assumption | with_reducible refine inv_of (findFrame_mem _ _ _) ?_
    | refine inv_of (findFrame_mem' _ _ _ _ _ (by assumption)) ?_ | with_reducible refine frameOr_inv _ _ _ ?_
    | refine frameOr_inv' _ _ _ _ _ (by assumption) ?_ | split | (refine inv_iff.2 ?_; dsimp only; refine inv_iff.1 ?_) | dsimp only)
theorem giveFrame_inv' (s : State) (c : Nat) (kern : Nat) (tbl : List WEntry) (va : Nat) (e : WEntry) (touched : List Seg) (x' : _) (t' : State) (e' : giveFrame s c kern tbl va e touched = (x', t')) (hinv : s.Inv) : t'.Inv := by
  have q := giveFrame_inv s c kern tbl va e touched hinv; rwa [e'] at q

theorem pagerMoves_inv (s : State) (c kern : Nat) (e : WEntry) (i : Nat) (f : Option (Nat × PageFrame)) (p : Option Nat × State) (hinv : s.Inv) (hp : p.2.Inv) :
    (pagerMoves s c kern e i f p).2.Inv := by
  obtain ⟨a, s1⟩ := p
  cases f with
  | some x => exact inv_of (startResident_mem _ _ _ _ _) hinv
  | none =>
    cases a with
    | some a => exact inv_of (startMove_mem _ _ _ _ _ _) hp
    | none => exact hp

theorem pagerStart_inv (s : State) (c kern : Nat) (tbl : List WEntry) (va : Nat) (touched : List Seg) (hinv : s.Inv) :
    (pagerStart s c kern tbl va touched).2.Inv := by
  unfold pagerStart
  split
  · exact hinv
  · split
    · exact hinv
    · exact pagerMoves_inv _ _ _ _ _ _ _ hinv (giveFrame_inv _ _ _ _ _ _ _ hinv)
theorem pagerStart_inv' (s : State) (c kern : Nat) (tbl : List WEntry) (va : Nat) (touched : List Seg) (x : _) (t : State)
    (e : pagerStart s c kern tbl va touched = (x, t)) (hinv : s.Inv) : t.Inv := by
  have q := pagerStart_inv s c kern tbl va touched hinv; rwa [e] at q

@[simp] theorem retableBank_mem (s : State) (b : Nat) (va : Nat) (pa : Nat) : (retableBank s b va pa).mem = s.mem := by
  unfold retableBank
  repeat' (first
    | with_reducible rfl | with_reducible assumption | with_reducible refine Eq.trans (setRow_mem _ _ _) ?_ | dsimp only | split)

theorem fillFrame_inv (s : State) (j : PageJob) (f : PageFrame) (hinv : s.Inv) : (fillFrame s j f).Inv := by
  unfold fillFrame
  repeat' (first
    | with_reducible assumption | with_reducible refine fillOutside_inv _ _ _ ?_ | with_reducible refine copyRange_inv _ _ _ _ ?_
    | with_reducible refine applyBounce_inv _ _ _ _ _ ?_ | split | (refine inv_iff.2 ?_; dsimp only; refine inv_iff.1 ?_) | dsimp only)

theorem pageIn_inv (s : State) (j : PageJob) (hinv : s.Inv) : (pageIn s j).Inv := by
  unfold pageIn
  repeat' (first
    | with_reducible assumption | with_reducible refine inv_of (mapEntries_mem _ _ _ _) ?_
    | with_reducible refine inv_of (retableBank_mem _ _ _ _) ?_ | with_reducible refine fillFrame_inv _ _ _ ?_
    | with_reducible refine foldl_inv _ _ _ ?_ ?_ | intro _ _ _ | split | (refine inv_iff.2 ?_; dsimp only; refine inv_iff.1 ?_) | dsimp only)

@[simp] theorem moveHostEntries_mem (s : State) (p : PageFrame) (f : WEntry → WEntry) : (moveHostEntries s p f).mem = s.mem := by
  unfold moveHostEntries
  repeat' (first
    | with_reducible rfl | with_reducible assumption | with_reducible refine Eq.trans (setContext_mem _ _ _) ?_
    | (refine foldl_mem _ _ _ _ ?_ ?_) | intro _ _ | dsimp only | split)

theorem finishMove_inv (s : State) (src : Nat) (dst : Nat) (f : PageFrame) (hinv : s.Inv) : (finishMove s src dst f).Inv := by
  unfold finishMove
  repeat' (first
    | with_reducible assumption | with_reducible refine copyRange_inv _ _ _ _ ?_ | with_reducible refine applyBounces_inv _ _ _ ?_
    | with_reducible refine inv_of (moveHostEntries_mem _ _ _) ?_ | split | (refine inv_iff.2 ?_; dsimp only; refine inv_iff.1 ?_) | dsimp only)

theorem moveWith_inv (s : State) (c : Nat) (old : WEntry) (hinv : s.Inv) : (moveWith s c old).Inv := by
  unfold moveWith
  repeat' (first
    | with_reducible assumption | with_reducible refine finishMove_inv _ _ _ _ ?_ | split
    | (refine inv_iff.2 ?_; dsimp only; refine inv_iff.1 ?_) | dsimp only)

@[simp] theorem landLater_mem (s : State) (d : Nat) (k : LandKind) (flags : BitVec 8) : (landLater s d k flags).mem = s.mem := by
  unfold landLater
  repeat' (first
    | with_reducible rfl | with_reducible assumption | with_reducible refine Eq.trans (later_mem _ _ _ _ _) ?_ | dsimp only | split)

@[simp] theorem scalarLater_mem (s : State) (d : Nat) (r : Nat) (v : Dword) : (scalarLater s d r v).mem = s.mem := by
  unfold scalarLater
  repeat' (first
    | with_reducible rfl | with_reducible assumption | with_reducible refine Eq.trans (landLater_mem _ _ _ _) ?_ | dsimp only | split)

@[simp] theorem drainOps_mem (s : State) (b : Nat) (seq : Option Nat) : (drainOps s b seq).mem = s.mem := by
  unfold drainOps
  repeat' (first
    | with_reducible rfl | with_reducible assumption | dsimp only | split)

theorem pagerFreeze_inv (s : State) (b : Nat) (c : Ctx) (touched : List Seg) (r : FaultRec) (seq : Option Nat) (recast : Bool) (hinv : s.Inv) : (pagerFreeze s b c touched r seq recast).Inv := by
  unfold pagerFreeze
  repeat' (first
    | with_reducible assumption | with_reducible refine inv_of (setStrand_mem _ _ _) ?_ | with_reducible refine freezeGroup_inv _ _ _ _ ?_
    | with_reducible refine inv_of (switchTo_mem _ _) ?_ | with_reducible refine inv_of (offerCore_mem _ _) ?_
    | with_reducible refine fatal_inv _ _ _ ?_ | with_reducible refine pagerStart_inv _ _ _ _ _ _ ?_
    | refine pagerStart_inv' _ _ _ _ _ _ _ _ (by assumption) ?_ | with_reducible refine inv_of (drainOps_mem _ _ _) ?_ | split
    | (refine inv_iff.2 ?_; dsimp only; refine inv_iff.1 ?_) | dsimp only)

theorem enterHandler_inv (s : State) (b : Nat) (h : Nat) (r : FaultRec) (f : Nat) (dropped : Option Nat) (hinv : s.Inv) : (enterHandler s b h r f dropped).Inv := by
  unfold enterHandler
  repeat' (first
    | with_reducible assumption | with_reducible refine inv_of (setStrand_mem _ _ _) ?_ | with_reducible refine inv_of (setRow_mem _ _ _) ?_
    | with_reducible refine inv_of (post_mem _ _ _ _ _ _ _ _) ?_ | with_reducible refine inv_of (dropEntries_mem _ _) ?_
    | with_reducible refine freezeGroup_inv _ _ _ _ ?_ | with_reducible refine inv_of (offerCore_mem _ _) ?_ | split
    | (refine inv_iff.2 ?_; dsimp only; refine inv_iff.1 ?_) | dsimp only)

@[simp] theorem logFault_mem (s : State) (b : Nat) (sev : Nat) (det : Nat) (r : FaultRec) : (logFault s b sev det r).mem = s.mem := by
  unfold logFault
  repeat' (first
    | with_reducible rfl | with_reducible assumption | with_reducible refine Eq.trans (logRec_mem _ _ _ _ _ _ _) ?_ | dsimp only | split)

@[simp] theorem logDead_mem (s : State) (b : Nat) (touched : List Seg) (r : FaultRec) : (logDead s b touched r).mem = s.mem := by
  unfold logDead
  repeat' (first
    | with_reducible rfl | with_reducible assumption | with_reducible refine Eq.trans (logFault_mem _ _ _ _ _) ?_ | dsimp only | split)

theorem takeTail_inv (s1 : State) (b g : Nat) (r : FaultRec) (f : Nat) (c : Ctx) (touched : List Seg) (seq d : Option Nat) (a pr : Bool) (h1 : s1.Inv) :
    (if r.cause = 0x04 ∧ r.restartable then pagerFreeze s1 b c touched r seq pr
      else if a then fatal s1 g r
      else
        let s2 := if (r.cause = 0x18 ∨ r.cause = 0x19) ∧ (handlerOf s1 b).isSome then logFault s1 b 2 0 r else s1
        match handlerOf s2 b with
        | none => if r.cause = 0x32 then phaseCancel s2 g r else fatal s2 g r
        | some h => if r.cause = 0x32 ∧ !r.restartable then phaseCancel s2 g r else enterHandler s2 b h r f d).Inv := by
  split
  · exact pagerFreeze_inv _ _ _ _ _ _ _ h1
  · split
    · exact fatal_inv _ _ _ h1
    · have h2 : (if (r.cause = 0x18 ∨ r.cause = 0x19) ∧ (handlerOf s1 b).isSome then logFault s1 b 2 0 r else s1).Inv := by
        split
        · exact inv_of (logFault_mem _ _ _ _ _) h1
        · exact h1
      generalize (if (r.cause = 0x18 ∨ r.cause = 0x19) ∧ (handlerOf s1 b).isSome then logFault s1 b 2 0 r else s1) = s2 at h2 ⊢
      repeat' (first
        | with_reducible assumption
        | with_reducible refine fatal_inv _ _ _ ?_
        | with_reducible refine phaseCancel_inv _ _ _ ?_
        | with_reducible refine enterHandler_inv _ _ _ _ _ _ ?_
        | split
        | dsimp only)
theorem takeException_inv (s : State) (b : Nat) (r0 : FaultRec) (f : Nat) (c0 : Ctx) (touched0 : List Seg) (seq0 : Option Nat) (hinv : s.Inv) :
    (takeException s b r0 f c0 touched0 seq0).Inv := by
  unfold takeException
  generalize probe s b f r0 = p
  by_cases ht : (strandOf s b).trap = true
  · simp only [if_pos ht]; exact fatal_inv _ _ _ hinv
  · simp only [if_neg ht]
    refine takeTail_inv _ _ _ _ _ _ _ _ _ _ _ ?_
    repeat' (first
      | with_reducible assumption
      | with_reducible refine inv_of (poisonSegs_mem _ _) ?_
      | with_reducible refine inv_of (logDead_mem _ _ _ _) ?_
      | with_reducible refine inv_of (post_mem _ _ _ _ _ _ _ _) ?_
      | split
      | dsimp only)

@[simp] theorem logJobFault_mem (s : State) (b : Nat) (r : FaultRec) : (logJobFault s b r).mem = s.mem := by
  unfold logJobFault
  repeat' (first
    | with_reducible rfl | with_reducible assumption | with_reducible refine Eq.trans (logFault_mem _ _ _ _ _) ?_ | dsimp only | split)

theorem lateFault_inv (s0 : State) (ph : Nat) (pay : Pay) (r : FaultRec) (touched : List Seg) (hinv : s0.Inv) : (lateFault s0 ph pay r touched).Inv := by
  unfold lateFault
  repeat' (first
    | with_reducible assumption | with_reducible refine inv_of (post_mem _ _ _ _ _ _ _ _) ?_
    | with_reducible refine takeException_inv _ _ _ _ _ _ _ ?_ | with_reducible refine inv_of (logJobFault_mem _ _ _) ?_ | split
    | (refine inv_iff.2 ?_; dsimp only; refine inv_iff.1 ?_) | dsimp only)

theorem takeInterrupt_inv (s : State) (b : Nat) (f : Nat) (hinv : s.Inv) : (takeInterrupt s b f).Inv := by
  unfold takeInterrupt
  repeat' (first
    | with_reducible assumption | with_reducible refine inv_of (setStrand_mem _ _ _) ?_
    | with_reducible refine takeException_inv _ _ _ _ _ _ _ ?_ | split | (refine inv_iff.2 ?_; dsimp only; refine inv_iff.1 ?_) | dsimp only)

@[simp] theorem spoilHeld_mem (s : State) (b : Nat) : (spoilHeld s b).mem = s.mem := by
  unfold spoilHeld
  repeat' (first
    | with_reducible rfl | with_reducible assumption | with_reducible refine Eq.trans (setStrand_mem _ _ _) ?_
    | with_reducible refine Eq.trans (setRow_mem _ _ _) ?_ | dsimp only | split)

theorem returnFrom_inv (s : State) (b : Nat) (idleOf : Nat → Nat) (hinv : s.Inv) : (returnFrom s b idleOf).Inv := by
  unfold returnFrom
  repeat' (first
    | with_reducible assumption | with_reducible refine inv_of (setStrand_mem _ _ _) ?_ | with_reducible refine inv_of (setRow_mem _ _ _) ?_
    | with_reducible refine inv_of (post_mem _ _ _ _ _ _ _ _) ?_ | with_reducible refine inv_of (dropEntries_mem _ _) ?_
    | with_reducible refine inv_of (dropLog_mem _ _) ?_ | with_reducible refine inv_of (endStop_mem _ _ _ _) ?_
    | with_reducible refine phaseCancel_inv _ _ _ ?_ | with_reducible refine takeInterrupt_inv _ _ _ ?_
    | with_reducible refine inv_of (spoilHeld_mem _ _) ?_ | split | (refine inv_iff.2 ?_; dsimp only; refine inv_iff.1 ?_) | dsimp only)

theorem standForShootdown_inv (s : State) (g : Nat) (z : Nat) (hinv : s.Inv) : (standForShootdown s g z).Inv := by
  unfold standForShootdown
  repeat' (first
    | with_reducible assumption | with_reducible refine freezeGroup_inv _ _ _ _ ?_ | split
    | (refine inv_iff.2 ?_; dsimp only; refine inv_iff.1 ?_) | dsimp only)

theorem standIfStopped_inv (s : State) (b : Nat) (hinv : s.Inv) : (standIfStopped s b).Inv := by
  unfold standIfStopped
  repeat' (first
    | with_reducible assumption | with_reducible refine standForShootdown_inv _ _ _ ?_ | split
    | (refine inv_iff.2 ?_; dsimp only; refine inv_iff.1 ?_) | dsimp only)

theorem endStrand_inv (s : State) (b : Nat) (hinv : s.Inv) : (endStrand s b).Inv := by
  unfold endStrand
  repeat' (first
    | with_reducible assumption | with_reducible refine inv_of (setStrand_mem _ _ _) ?_ | with_reducible refine inv_of (dropEntries_mem _ _) ?_
    | with_reducible refine inv_of (giveCore_mem _ _) ?_ | with_reducible refine leaveWhenDone_inv _ _ ?_
    | with_reducible refine retireGroup_inv _ _ ?_ | with_reducible refine reopenContext_inv _ _ ?_
    | with_reducible refine standIfStopped_inv _ _ ?_ | split | (refine inv_iff.2 ?_; dsimp only; refine inv_iff.1 ?_) | dsimp only)

theorem settle_inv (s : State) (g : Nat) (hinv : s.Inv) : (settle s g).Inv := by
  unfold settle
  repeat' (first
    | with_reducible assumption | with_reducible refine leaveWhenDone_inv _ _ ?_ | with_reducible refine retireGroup_inv _ _ ?_ | split
    | (refine inv_iff.2 ?_; dsimp only; refine inv_iff.1 ?_) | dsimp only)

theorem yieldStrand_inv (s : State) (b : Nat) (hinv : s.Inv) : (yieldStrand s b).Inv := by
  unfold yieldStrand
  repeat' (first
    | with_reducible assumption | with_reducible refine inv_of (setStrand_mem _ _ _) ?_ | with_reducible refine inv_of (dropEntries_mem _ _) ?_
    | with_reducible refine setGroupState_inv _ _ _ ?_ | with_reducible refine inv_of (giveCore_mem _ _) ?_
    | with_reducible refine leaveWhenDone_inv _ _ ?_ | with_reducible refine standIfStopped_inv _ _ ?_ | split
    | (refine inv_iff.2 ?_; dsimp only; refine inv_iff.1 ?_) | dsimp only)

@[simp] theorem writeSnapshot_mem (s : State) (b : Nat) : (writeSnapshot s b).mem = s.mem := by
  unfold writeSnapshot
  repeat' (first
    | with_reducible rfl | with_reducible assumption | with_reducible refine Eq.trans (setStrand_mem _ _ _) ?_ | dsimp only | split)

theorem stopForShootdown_inv (s : State) (b : Nat) (hinv : s.Inv) : (stopForShootdown s b).Inv := by
  unfold stopForShootdown
  repeat' (first
    | with_reducible assumption | with_reducible refine inv_of (setStrand_mem _ _ _) ?_ | with_reducible refine standIfStopped_inv _ _ ?_
    | split | (refine inv_iff.2 ?_; dsimp only; refine inv_iff.1 ?_) | dsimp only)

@[simp] theorem vecLater_mem (s : State) (lat : Nat) (d : BitVec 6) (nw : BitVec 1) (x : Vec) (flags : BitVec 8) : (vecLater s lat d nw x flags).mem = s.mem := by
  unfold vecLater
  repeat' (first
    | with_reducible rfl | with_reducible assumption | with_reducible refine Eq.trans (landLater_mem _ _ _ _) ?_ | dsimp only | split)

@[simp] theorem maskLater_mem (s : State) (d : BitVec 6) (k : Mask) (flags : BitVec 8) : (maskLater s d k flags).mem = s.mem := by
  unfold maskLater
  repeat' (first
    | with_reducible rfl | with_reducible assumption | with_reducible refine Eq.trans (landLater_mem _ _ _ _) ?_ | dsimp only | split)

@[simp] theorem pairLater_mem (s : State) (d : Nat) (r : Bool) : (pairLater s d r).mem = s.mem := by
  unfold pairLater
  repeat' (first
    | with_reducible rfl | with_reducible assumption | with_reducible refine Eq.trans (landLater_mem _ _ _ _) ?_ | dsimp only | split)

@[simp] theorem putMacro_mem (s : State) (r : Nat) (id : Nat) (m : Macro) : (putMacro s r id m).mem = s.mem := by
  unfold putMacro
  repeat' (first
    | with_reducible rfl | with_reducible assumption | with_reducible refine Eq.trans (setRow_mem _ _ _) ?_ | dsimp only | split)

@[simp] theorem dropMacro_mem (s : State) (r : Nat) (id : Nat) : (dropMacro s r id).mem = s.mem := by
  unfold dropMacro
  repeat' (first
    | with_reducible rfl | with_reducible assumption | with_reducible refine Eq.trans (setRow_mem _ _ _) ?_ | dsimp only | split)

@[simp] theorem newMacro_mem (s : State) (prod : Option Product) (inj : Option (BitVec 24)) (dead : Bool) : (newMacro s prod inj dead).2.mem = s.mem := by
  unfold newMacro
  repeat' (first
    | with_reducible rfl | with_reducible assumption | with_reducible refine Eq.trans (setRow_mem _ _ _) ?_ | dsimp only | split)
theorem newMacro_mem' (s : State) (prod : Option Product) (inj : Option (BitVec 24)) (dead : Bool) (x' : _) (t' : State) (e' : newMacro s prod inj dead = (x', t')) : t'.mem = s.mem := by
  have q := newMacro_mem s prod inj dead; rwa [e'] at q

@[simp] theorem stepUnder_mem (s : State) (id : Nat) (cls : Nat) (idx : Nat) (d : Nat) (ph : Nat) (runs : List Nat) (len : Nat) (wr : Bool) (sel : Nat) (masks : List Nat) : (stepUnder s id cls idx d ph runs len wr sel masks).mem = s.mem := by
  unfold stepUnder
  repeat' (first
    | with_reducible rfl | with_reducible assumption | with_reducible refine Eq.trans (later_mem _ _ _ _ _) ?_ | dsimp only | split)

@[simp] theorem stepLater_mem (s : State) (id : Nat) (cls : Nat) (idx : Nat) (d : Nat) (ph : Nat) (runs : List Nat) (len : Nat) (wr : Bool) (sel : Nat) : (stepLater s id cls idx d ph runs len wr sel).mem = s.mem := by
  unfold stepLater
  repeat' (first
    | with_reducible rfl | with_reducible assumption | with_reducible refine Eq.trans (stepUnder_mem _ _ _ _ _ _ _ _ _ _ _) ?_ | dsimp only
    | split)

@[simp] theorem afterReads_mem (s : State) (c : Ctx) (a : Access) : (afterReads s c a).mem = s.mem := by
  unfold afterReads
  repeat' (first
    | with_reducible rfl | with_reducible assumption | with_reducible refine Eq.trans (afterRead_mem _ _ _) ?_
    | (refine foldl_mem _ _ _ _ ?_ ?_) | intro _ _ | dsimp only | split)

theorem writeSegs_inv (s : State) (c : Ctx) (l : List Seg) (bs : List Byte) (mask : Nat) (hinv : s.Inv) : (writeSegs s c l bs mask).Inv := by
  induction l generalizing s bs mask with
  | nil => exact hinv
  | cons g t ih => exact ih _ _ _ (inv_of (markDirty_mem _ _ _ _) (storeMasked_inv _ _ _ _ hinv))

theorem writeVa_inv (s : State) (c : Ctx) (va : Nat) (bs : List Byte) (hinv : s.Inv) : (writeVa s c va bs).Inv := by
  unfold writeVa
  repeat' (first
    | with_reducible assumption | with_reducible refine writeSegs_inv _ _ _ _ _ ?_ | split
    | (refine inv_iff.2 ?_; dsimp only; refine inv_iff.1 ?_) | dsimp only)

theorem writeVaMasked_inv (s : State) (c : Ctx) (va : Nat) (bs : List Byte) (mask : Nat) (hinv : s.Inv) : (writeVaMasked s c va bs mask).Inv := by
  unfold writeVaMasked
  repeat' (first
    | with_reducible assumption | with_reducible refine writeSegs_inv _ _ _ _ _ ?_ | split
    | (refine inv_iff.2 ?_; dsimp only; refine inv_iff.1 ?_) | dsimp only)

@[simp] theorem setTile_mem (s : State) (r : Nat) (t : Nat) (x : Tile) : (setTile s r t x).mem = s.mem := by
  unfold setTile
  repeat' (first
    | with_reducible rfl | with_reducible assumption | with_reducible refine Eq.trans (setRow_mem _ _ _) ?_ | dsimp only | split)

@[simp] theorem setCreel_mem (s : State) (r : Nat) (n : Nat) (x : Creel) : (setCreel s r n x).mem = s.mem := by
  unfold setCreel
  repeat' (first
    | with_reducible rfl | with_reducible assumption | with_reducible refine Eq.trans (setRow_mem _ _ _) ?_ | dsimp only | split)

@[simp] theorem arrWritten_mem (s : State) (r : Nat) (ks : List Nat) : (arrWritten s r ks).mem = s.mem := by
  unfold arrWritten
  repeat' (first
    | with_reducible rfl | with_reducible assumption | with_reducible refine Eq.trans (setRow_mem _ _ _) ?_
    | with_reducible refine Eq.trans (logInner_mem _) ?_ | dsimp only | split)

@[simp] theorem mHold_mem (s : State) : (mHold s).mem = s.mem := by
  unfold mHold
  repeat' (first
    | with_reducible rfl | with_reducible assumption | with_reducible refine Eq.trans (setRow_mem _ _ _) ?_ | dsimp only | split)

@[simp] theorem mLater_mem (s : State) (id : Nat) (cls : Nat) (idx : Nat) (d : Nat) (ph : Nat) (runs : List Nat) (len : Nat) (wr : Bool) (sel : Nat) : (mLater s id cls idx d ph runs len wr sel).mem = s.mem := by
  unfold mLater
  repeat' (first
    | with_reducible rfl | with_reducible assumption | with_reducible refine Eq.trans (stepLater_mem _ _ _ _ _ _ _ _ _ _) ?_ | dsimp only
    | split)

theorem forEach_mem (s : State) (l : List Nat) (f : State → Nat → State) (h : ∀ x y, (f x y).mem = x.mem) : (forEach s l f).mem = s.mem :=
  foldl_mem f l s _ h rfl

@[simp] theorem loadSteps_mem (s : State) (id : Nat) (g : Nat) (d : Nat) (img : ShapeImg) (pass : Nat) : (loadSteps s id g d img pass).mem = s.mem := by
  unfold loadSteps
  repeat' (first
    | with_reducible rfl | with_reducible assumption | with_reducible refine Eq.trans (mLater_mem _ _ _ _ _ _ _ _ _ _) ?_
    | with_reducible refine Eq.trans (forEach_mem _ _ _ ?_) ?_ | intro _ _ | dsimp only | split)

@[simp] theorem loadIssue_mem (s : State) (n : Nat) : (loadIssue s n).mem = s.mem := by
  unfold loadIssue
  repeat' (first
    | with_reducible rfl | with_reducible assumption | with_reducible refine Eq.trans (newMacro_mem _ _ _ _) ?_
    | refine Eq.trans (newMacro_mem' _ _ _ _ _ _ (by assumption)) ?_ | with_reducible refine Eq.trans (setCreel_mem _ _ _ _) ?_
    | with_reducible refine Eq.trans (mHold_mem _) ?_ | with_reducible refine Eq.trans (loadSteps_mem _ _ _ _ _ _) ?_ | dsimp only | split)

@[simp] theorem fillFree_mem (s : State) (r : Nat) (n : Nat) (p : Prod) : (fillFree s r n p).mem = s.mem := by
  unfold fillFree
  repeat' (first
    | with_reducible rfl | with_reducible assumption | with_reducible refine Eq.trans (setCreel_mem _ _ _ _) ?_
    | (refine foldl_mem _ _ _ _ ?_ ?_) | intro _ _ | dsimp only | split)

@[simp] theorem loadStep_mem (s : State) (id : Nat) (g : Nat) (idx : Nat) (a : Access) : (loadStep s id g idx a).mem = s.mem := by
  unfold loadStep
  repeat' (first
    | with_reducible rfl | with_reducible assumption | with_reducible refine Eq.trans (putMacro_mem _ _ _ _) ?_
    | with_reducible refine Eq.trans (dropMacro_mem _ _ _) ?_ | with_reducible refine Eq.trans (afterReads_mem _ _ _) ?_
    | with_reducible refine Eq.trans (setCreel_mem _ _ _ _) ?_ | with_reducible refine Eq.trans (arrWritten_mem _ _ _) ?_
    | with_reducible refine Eq.trans (fillFree_mem _ _ _ _) ?_ | (refine foldl_mem _ _ _ _ ?_ ?_) | intro _ _ | dsimp only | split)

@[simp] theorem readRow_mem (s : State) (id : Nat) (p : Prod) (c : Ctx) (m : Nat) (idx : Nat) (d : Nat) : (readRow s id p c m idx d).mem = s.mem := by
  unfold readRow
  repeat' (first
    | with_reducible rfl | with_reducible assumption | with_reducible refine Eq.trans (mLater_mem _ _ _ _ _ _ _ _ _ _) ?_ | dsimp only | split)

@[simp] theorem rowSteps_mem (s : State) (id : Nat) (p : Prod) (c : Ctx) (d : Nat) (first : Nat) (count : Nat) (check : Nat) : (rowSteps s id p c d first count check).mem = s.mem := by
  unfold rowSteps
  repeat' (first
    | with_reducible rfl | with_reducible assumption | with_reducible refine Eq.trans (mLater_mem _ _ _ _ _ _ _ _ _ _) ?_
    | with_reducible refine Eq.trans (forEach_mem _ _ _ ?_) ?_ | intro _ _ | with_reducible refine Eq.trans (readRow_mem _ _ _ _ _ _ _) ?_
    | dsimp only | split)

@[simp] theorem readBuf_mem (s : State) (r : Nat) (p : Prod) (n : Nat) : (readBuf s r p n).mem = s.mem := by
  unfold readBuf
  repeat' (first
    | with_reducible rfl | with_reducible assumption | with_reducible refine Eq.trans (setCreel_mem _ _ _ _) ?_
    | with_reducible refine Eq.trans (fillFree_mem _ _ _ _) ?_ | dsimp only | split)

@[simp] theorem productIssue_mem (s : State) (p : Prod) (pr : Product) (retry : Bool) : (productIssue s p pr retry).mem = s.mem := by
  unfold productIssue
  repeat' (first
    | with_reducible rfl | with_reducible assumption | with_reducible refine Eq.trans (newMacro_mem _ _ _ _) ?_
    | refine Eq.trans (newMacro_mem' _ _ _ _ _ _ (by assumption)) ?_ | with_reducible refine Eq.trans (setTile_mem _ _ _ _) ?_
    | with_reducible refine Eq.trans (mHold_mem _) ?_ | with_reducible refine Eq.trans (mLater_mem _ _ _ _ _ _ _ _ _ _) ?_
    | with_reducible refine Eq.trans (forEach_mem _ _ _ ?_) ?_ | intro _ _ | with_reducible refine Eq.trans (rowSteps_mem _ _ _ _ _ _ _ _) ?_
    | with_reducible refine Eq.trans (readBuf_mem _ _ _ _) ?_ | dsimp only | split)

@[simp] theorem groupsEnd_mem (s : State) (id : Nat) (p : Prod) : (groupsEnd s id p).mem = s.mem := by
  unfold groupsEnd
  repeat' (first
    | with_reducible rfl | with_reducible assumption | with_reducible refine Eq.trans (mLater_mem _ _ _ _ _ _ _ _ _ _) ?_ | dsimp only | split)

@[simp] theorem countStep_mem (s : State) (id : Nat) (p : Prod) (a : Access) : (countStep s id p a).mem = s.mem := by
  unfold countStep
  repeat' (first
    | with_reducible rfl | with_reducible assumption | with_reducible refine Eq.trans (putMacro_mem _ _ _ _) ?_
    | with_reducible refine Eq.trans (afterReads_mem _ _ _) ?_ | with_reducible refine Eq.trans (setTile_mem _ _ _ _) ?_
    | with_reducible refine Eq.trans (mLater_mem _ _ _ _ _ _ _ _ _ _) ?_ | with_reducible refine Eq.trans (loadSteps_mem _ _ _ _ _ _) ?_
    | with_reducible refine Eq.trans (rowSteps_mem _ _ _ _ _ _ _ _) ?_ | with_reducible refine Eq.trans (groupsEnd_mem _ _ _) ?_
    | (refine foldl_mem _ _ _ _ ?_ ?_) | intro _ _ | dsimp only | split)

@[simp] theorem rowStep_mem (s : State) (id : Nat) (idx : Nat) (p : Prod) (c : Ctx) (a : Access) : (rowStep s id idx p c a).mem = s.mem := by
  unfold rowStep
  repeat' (first
    | with_reducible rfl | with_reducible assumption | with_reducible refine Eq.trans (putMacro_mem _ _ _ _) ?_
    | with_reducible refine Eq.trans (afterReads_mem _ _ _) ?_ | (refine foldl_mem _ _ _ _ ?_ ?_) | intro _ _ | dsimp only | split)

@[simp] theorem headerStep_mem (s : State) (id : Nat) (idx : Nat) (p : Prod) (c : Ctx) (a : Access) : (headerStep s id idx p c a).mem = s.mem := by
  unfold headerStep
  repeat' (first
    | with_reducible rfl | with_reducible assumption | with_reducible refine Eq.trans (putMacro_mem _ _ _ _) ?_
    | with_reducible refine Eq.trans (afterReads_mem _ _ _) ?_ | (refine foldl_mem _ _ _ _ ?_ ?_) | intro _ _ | dsimp only | split)

@[simp] theorem gatherStep_mem (s : State) (id : Nat) (idx : Nat) (p : Prod) (c : Ctx) (a : Access) : (gatherStep s id idx p c a).mem = s.mem := by
  unfold gatherStep
  repeat' (first
    | with_reducible rfl | with_reducible assumption | with_reducible refine Eq.trans (putMacro_mem _ _ _ _) ?_
    | with_reducible refine Eq.trans (afterReads_mem _ _ _) ?_ | with_reducible refine Eq.trans (readRow_mem _ _ _ _ _ _ _) ?_ | dsimp only
    | split)

@[simp] theorem sendPartial_mem (s : State) (p : Prod) (c : Ctx) (entry : Nat) (vals : List Word) : (sendPartial s p c entry vals).mem = s.mem := by
  unfold sendPartial
  repeat' (first
    | with_reducible rfl | with_reducible assumption | with_reducible refine Eq.trans (post_mem _ _ _ _ _ _ _ _) ?_
    | with_reducible refine Eq.trans (arrivalAt_mem _ _ _ _ _ _) ?_ | refine Eq.trans (arrivalAt_mem' _ _ _ _ _ _ _ _ (by assumption)) ?_
    | with_reducible refine Eq.trans (sendFlit_mem _ _ _ _ _ _ _) ?_ | with_reducible refine Eq.trans (useSlot_mem _ _ _ _) ?_
    | refine Eq.trans (useSlot_mem' _ _ _ _ _ _ (by assumption)) ?_ | dsimp only | split)

@[simp] theorem writeStep_mem (s : State) (id : Nat) (idx : Nat) (p : Prod) (pr : Product) : (writeStep s id idx p pr).mem = s.mem := by
  unfold writeStep
  repeat' (first
    | with_reducible rfl | with_reducible assumption | with_reducible refine Eq.trans (setTile_mem _ _ _ _) ?_
    | with_reducible refine Eq.trans (arrWritten_mem _ _ _) ?_ | with_reducible refine Eq.trans (sendPartial_mem _ _ _ _ _) ?_
    | (refine foldl_mem _ _ _ _ ?_ ?_) | intro _ _ | dsimp only | split)

@[simp] theorem checkStep_mem (s : State) (id : Nat) (g : Nat) (p : Prod) (pr : Product) : (checkStep s id g p pr).mem = s.mem := by
  unfold checkStep
  repeat' (first
    | with_reducible rfl | with_reducible assumption | with_reducible refine Eq.trans (setTile_mem _ _ _ _) ?_
    | with_reducible refine Eq.trans (sendPartial_mem _ _ _ _ _) ?_ | dsimp only | split)

@[simp] theorem doneStep_mem (s : State) (id : Nat) (tile : Nat) : (doneStep s id tile).mem = s.mem := by
  unfold doneStep
  repeat' (first
    | with_reducible rfl | with_reducible assumption | with_reducible refine Eq.trans (putMacro_mem _ _ _ _) ?_
    | with_reducible refine Eq.trans (setTile_mem _ _ _ _) ?_ | dsimp only | split)

@[simp] theorem releaseStep_mem (s : State) (n : Nat) : (releaseStep s n).mem = s.mem := by
  unfold releaseStep
  repeat' (first
    | with_reducible rfl | with_reducible assumption | with_reducible refine Eq.trans (setCreel_mem _ _ _ _) ?_ | dsimp only | split)

@[simp] theorem edgeStep_mem (s : State) (id : Nat) (idx : Nat) : (edgeStep s id idx).mem = s.mem := by
  unfold edgeStep
  repeat' (first
    | with_reducible rfl | with_reducible assumption | with_reducible refine Eq.trans (setRow_mem _ _ _) ?_
    | with_reducible refine Eq.trans (freeValue_mem _) ?_ | refine Eq.trans (freeValue_mem' _ _ _ (by assumption)) ?_
    | with_reducible refine Eq.trans (putMacro_mem _ _ _ _) ?_ | (refine foldl_mem _ _ _ _ ?_ ?_) | intro _ _ | dsimp only | split)

@[simp] theorem scaleStep_mem (s : State) (id : Nat) (a : Access) : (scaleStep s id a).mem = s.mem := by
  unfold scaleStep
  repeat' (first
    | with_reducible rfl | with_reducible assumption | with_reducible refine Eq.trans (putMacro_mem _ _ _ _) ?_
    | with_reducible refine Eq.trans (afterReads_mem _ _ _) ?_ | (refine foldl_mem _ _ _ _ ?_ ?_) | intro _ _ | dsimp only | split)

@[simp] theorem sclRead_mem (s : State) (id : Nat) (i : Nat) : (sclRead s id i).mem = s.mem := by
  unfold sclRead
  repeat' (first
    | with_reducible rfl | with_reducible assumption | with_reducible refine Eq.trans (putMacro_mem _ _ _ _) ?_
    | (refine foldl_mem _ _ _ _ ?_ ?_) | intro _ _ | dsimp only | split)

@[simp] theorem sclWrite_mem (s : State) (id : Nat) (i : Nat) : (sclWrite s id i).mem = s.mem := by
  unfold sclWrite
  repeat' (first
    | with_reducible rfl | with_reducible assumption | with_reducible refine Eq.trans (setTile_mem _ _ _ _) ?_
    | with_reducible refine Eq.trans (arrWritten_mem _ _ _) ?_ | dsimp only | split)

@[simp] theorem clearTile_mem (s : State) (r : Nat) (t : Nat) : (clearTile s r t).mem = s.mem := by
  unfold clearTile
  repeat' (first
    | with_reducible rfl | with_reducible assumption | with_reducible refine Eq.trans (setTile_mem _ _ _ _) ?_
    | with_reducible refine Eq.trans (arrWritten_mem _ _ _) ?_ | dsimp only | split)

@[simp] theorem noteAck_mem (s : State) (c : Ctx) (a : Access) : (noteAck s c a).mem = s.mem := by
  unfold noteAck
  repeat' (first
    | with_reducible rfl | with_reducible assumption | with_reducible refine Eq.trans (setStrand_mem _ _ _) ?_ | dsimp only | split)

@[simp] theorem sliceSteps_mem (s : State) (id : Nat) (i : Nat) : (sliceSteps s id i).mem = s.mem := by
  unfold sliceSteps
  repeat' (first
    | with_reducible rfl | with_reducible assumption | with_reducible refine Eq.trans (stepLater_mem _ _ _ _ _ _ _ _ _ _) ?_ | dsimp only
    | split)

@[simp] theorem bankIssue_mem (s : State) : (bankIssue s).mem = s.mem := by
  unfold bankIssue
  repeat' (first
    | with_reducible rfl | with_reducible assumption | with_reducible refine Eq.trans (newMacro_mem _ _ _ _) ?_
    | refine Eq.trans (newMacro_mem' _ _ _ _ _ _ (by assumption)) ?_ | with_reducible refine Eq.trans (stepUnder_mem _ _ _ _ _ _ _ _ _ _ _) ?_
    | with_reducible refine Eq.trans (stepLater_mem _ _ _ _ _ _ _ _ _ _) ?_ | with_reducible refine Eq.trans (sliceSteps_mem _ _ _) ?_
    | (refine foldl_mem _ _ _ _ ?_ ?_) | intro _ _ | dsimp only | split)

@[simp] theorem bankRead_mem (s : State) (id : Nat) (o : Nat) (i : Nat) (a : Access) (m : Macro) : (bankRead s id o i a m).mem = s.mem := by
  unfold bankRead
  repeat' (first
    | with_reducible rfl | with_reducible assumption | with_reducible refine Eq.trans (putMacro_mem _ _ _ _) ?_
    | with_reducible refine Eq.trans (afterReads_mem _ _ _) ?_ | (refine foldl_mem _ _ _ _ ?_ ?_) | intro _ _ | dsimp only | split)

theorem bankWrite_inv (s : State) (i : Nat) (m : Macro) (hinv : s.Inv) : (bankWrite s i m).Inv :=
  foldl_inv _ _ _ (fun _ _ h => foldl_inv _ _ _ (fun _ _ h => writeVa_inv _ _ _ _ h) h) hinv

theorem bankSums_inv (s : State) (k : Nat) (m : Macro) (hinv : s.Inv) : (bankSums s k m).Inv := by
  unfold bankSums
  extract_lets d ns f
  refine foldl_inv _ _ _ (fun st j h => foldl_inv _ _ _ (fun x i h => ?_) h) hinv
  extract_lets va old new
  clear_value va old new
  exact writeVaMasked_inv _ _ _ _ _ h

theorem bStep_inv (s : State) (id : Nat) (k : Nat) (a : Access) (hinv : s.Inv) : (bStep s id k a).Inv := by
  unfold bStep
  repeat' (first
    | with_reducible assumption | with_reducible refine inv_of (dropMacro_mem _ _ _) ?_
    | with_reducible refine inv_of (bankRead_mem _ _ _ _ _ _) ?_ | with_reducible refine bankWrite_inv _ _ _ ?_
    | with_reducible refine bankSums_inv _ _ _ ?_ | split | (refine inv_iff.2 ?_; dsimp only; refine inv_iff.1 ?_) | dsimp only)

@[simp] theorem bFails_mem (s : State) (id : Nat) (cause : Nat) : (bFails s id cause).mem = s.mem := by
  unfold bFails
  repeat' (first
    | with_reducible rfl | with_reducible assumption | with_reducible refine Eq.trans (putMacro_mem _ _ _ _) ?_ | dsimp only | split)

theorem mapHeld_inv (s : State) (agent : Nat) (f : List HeldTok → List HeldTok) (hinv : s.Inv) : (mapHeld s agent f).Inv := by
  unfold mapHeld
  repeat' (first
    | with_reducible assumption | with_reducible refine inv_of (setStrand_mem _ _ _) ?_ | with_reducible refine inv_of (setGroup_mem _ _ _) ?_
    | with_reducible refine inv_of (setContext_mem _ _ _) ?_ | with_reducible refine writeSave_inv _ _ _ _ _ ?_ | split
    | (refine inv_iff.2 ?_; dsimp only; refine inv_iff.1 ?_) | dsimp only)

theorem writeBack_inv (s : State) (agent : Nat) (h : HeldTok) (hinv : s.Inv) : (writeBack s agent h).Inv := by
  unfold writeBack
  repeat' (first
    | with_reducible assumption | with_reducible refine cleanLine_inv _ _ _ _ ?_ | with_reducible refine foldl_inv _ _ _ ?_ ?_ | intro _ _ _
    | split | (refine inv_iff.2 ?_; dsimp only; refine inv_iff.1 ?_) | dsimp only)

@[simp] theorem invalidate_mem (s : State) (b : Nat) (h : HeldTok) : (invalidate s b h).mem = s.mem := by
  unfold invalidate
  repeat' (first
    | with_reducible rfl | with_reducible assumption | dsimp only | split)

@[simp] theorem invalidateFor_mem (s : State) (agent : Nat) (h : HeldTok) : (invalidateFor s agent h).mem = s.mem := by
  unfold invalidateFor
  repeat' (first
    | with_reducible rfl | with_reducible assumption | with_reducible refine Eq.trans (invalidate_mem _ _ _) ?_ | dsimp only | split)

@[simp] theorem handDelay_mem (s : State) (h : HeldTok) : (handDelay s h).2.mem = s.mem := by
  unfold handDelay
  repeat' (first
    | with_reducible rfl | with_reducible assumption | with_reducible refine Eq.trans (freeValue_mem _) ?_
    | refine Eq.trans (freeValue_mem' _ _ _ (by assumption)) ?_ | dsimp only | split)
theorem handDelay_mem' (s : State) (h : HeldTok) (x' : _) (t' : State) (e' : handDelay s h = (x', t')) : t'.mem = s.mem := by
  have q := handDelay_mem s h; rwa [e'] at q

@[simp] theorem handWord_mem (s : State) (kind : HandKind) (target : Nat) (scope : Nat) : (handWord s kind target scope).mem = s.mem := by
  unfold handWord
  repeat' (first
    | with_reducible rfl | with_reducible assumption | with_reducible refine Eq.trans (setStrand_mem _ _ _) ?_
    | with_reducible refine Eq.trans (later_mem _ _ _ _ _) ?_ | with_reducible refine Eq.trans (handDelay_mem _ _) ?_
    | refine Eq.trans (handDelay_mem' _ _ _ _ (by assumption)) ?_ | dsimp only | split)

@[simp] theorem tokenDelay_mem (s : State) (local_ : Bool) : (tokenDelay s local_).2.mem = s.mem := by
  unfold tokenDelay
  repeat' (first
    | with_reducible rfl | with_reducible assumption | with_reducible refine Eq.trans (freeValue_mem _) ?_
    | refine Eq.trans (freeValue_mem' _ _ _ (by assumption)) ?_ | dsimp only | split)
theorem tokenDelay_mem' (s : State) (local_ : Bool) (x' : _) (t' : State) (e' : tokenDelay s local_ = (x', t')) : t'.mem = s.mem := by
  have q := tokenDelay_mem s local_; rwa [e'] at q

@[simp] theorem takeWord_mem (s : State) (share : Bool) : (takeWord s share).mem = s.mem := by
  unfold takeWord
  repeat' (first
    | with_reducible rfl | with_reducible assumption | with_reducible refine Eq.trans (setStrand_mem _ _ _) ?_
    | with_reducible refine Eq.trans (later_mem _ _ _ _ _) ?_ | with_reducible refine Eq.trans (landLater_mem _ _ _ _) ?_ | dsimp only | split)

@[simp] theorem queryWord_mem (s : State) (f : Nat) (b : Nat) (scope : Nat) : (queryWord s f b scope).mem = s.mem := by
  unfold queryWord
  repeat' (first
    | with_reducible rfl | with_reducible assumption | with_reducible refine Eq.trans (later_mem _ _ _ _ _) ?_
    | with_reducible refine Eq.trans (tokenDelay_mem _ _) ?_ | refine Eq.trans (tokenDelay_mem' _ _ _ _ (by assumption)) ?_ | dsimp only | split)

@[simp] theorem landShareRv_mem (s : State) (id : Nat) (tgt : Nat) : (landShareRv s id tgt).mem = s.mem := by
  unfold landShareRv
  repeat' (first
    | with_reducible rfl | with_reducible assumption | with_reducible refine Eq.trans (setToken_mem _ _ _) ?_
    | with_reducible refine Eq.trans (releaseShare_mem _ _) ?_ | dsimp only | split)

@[simp] theorem landRetSh_mem (s : State) (b : Nat) (id : Nat) : (landRetSh s b id).mem = s.mem := by
  unfold landRetSh
  repeat' (first
    | with_reducible rfl | with_reducible assumption | with_reducible refine Eq.trans (setStrand_mem _ _ _) ?_
    | with_reducible refine Eq.trans (releaseShare_mem _ _) ?_ | dsimp only | split)

@[simp] theorem landTaken_mem (s : State) (b : Nat) (id : Nat) (share : Bool) : (landTaken s b id share).mem = s.mem := by
  unfold landTaken
  repeat' (first
    | with_reducible rfl | with_reducible assumption | with_reducible refine Eq.trans (setStrand_mem _ _ _) ?_
    | with_reducible refine Eq.trans (setToken_mem _ _ _) ?_ | with_reducible refine Eq.trans (sendNews_mem _ _ _ _ _) ?_
    | with_reducible refine Eq.trans (invalidate_mem _ _ _) ?_ | dsimp only | split)

@[simp] theorem freeEntry_mem (s : State) : (freeEntry s).2.mem = s.mem := by
  unfold freeEntry
  repeat' (first
    | with_reducible rfl | with_reducible assumption | with_reducible refine Eq.trans (freeValue_mem _) ?_
    | refine Eq.trans (freeValue_mem' _ _ _ (by assumption)) ?_ | dsimp only | split)
theorem freeEntry_mem' (s : State) (x' : _) (t' : State) (e' : freeEntry s = (x', t')) : t'.mem = s.mem := by
  have q := freeEntry_mem s; rwa [e'] at q

@[simp] theorem landSplit_mem (s : State) (b : Nat) (id : Nat) (ra : Nat) (rb : Nat) : (landSplit s b id ra rb).mem = s.mem := by
  unfold landSplit
  repeat' (first
    | with_reducible rfl | with_reducible assumption | with_reducible refine Eq.trans (setStrand_mem _ _ _) ?_
    | with_reducible refine Eq.trans (setStack_mem _ _ _) ?_ | with_reducible refine Eq.trans (setToken_mem _ _ _) ?_
    | with_reducible refine Eq.trans (putReg_mem _ _ _ _) ?_ | with_reducible refine Eq.trans (freeEntry_mem _) ?_
    | refine Eq.trans (freeEntry_mem' _ _ _ (by assumption)) ?_ | dsimp only | split)

@[simp] theorem landJoin_mem (s : State) (b : Nat) (lo : Nat) (up : Nat) (ra : Nat) (rb : Nat) : (landJoin s b lo up ra rb).mem = s.mem := by
  unfold landJoin
  repeat' (first
    | with_reducible rfl | with_reducible assumption | with_reducible refine Eq.trans (setStrand_mem _ _ _) ?_
    | with_reducible refine Eq.trans (setStack_mem _ _ _) ?_ | with_reducible refine Eq.trans (setToken_mem _ _ _) ?_
    | with_reducible refine Eq.trans (putReg_mem _ _ _ _) ?_ | dsimp only | split)

@[simp] theorem mintAgain_mem (s : State) (i : Nat) (holder : Nat) : (mintAgain s i holder).mem = s.mem := by
  unfold mintAgain
  repeat' (first
    | with_reducible rfl | with_reducible assumption | with_reducible refine Eq.trans (setToken_mem _ _ _) ?_ | dsimp only | split)

@[simp] theorem freeReg_mem (s : State) (b : Nat) (r : Nat) : (freeReg s b r).mem = s.mem := by
  unfold freeReg
  repeat' (first
    | with_reducible rfl | with_reducible assumption | with_reducible refine Eq.trans (freeValue_mem _) ?_
    | refine Eq.trans (freeValue_mem' _ _ _ (by assumption)) ?_ | with_reducible refine Eq.trans (putReg_mem _ _ _ _) ?_ | dsimp only | split)

@[simp] theorem landMint_mem (s : State) (b : Nat) (id : Nat) (rb : Nat) : (landMint s b id rb).mem = s.mem := by
  unfold landMint
  repeat' (first
    | with_reducible rfl | with_reducible assumption | with_reducible refine Eq.trans (setStrand_mem _ _ _) ?_
    | with_reducible refine Eq.trans (putReg_mem _ _ _ _) ?_ | with_reducible refine Eq.trans (mintAgain_mem _ _ _) ?_
    | with_reducible refine Eq.trans (freeReg_mem _ _ _) ?_ | dsimp only | split)

@[simp] theorem mintNew_mem (s : State) (i : Nat) (base : Nat) (z : Nat) (ctx : Nat) (holder : Nat) : (mintNew s i base z ctx holder).mem = s.mem := by
  unfold mintNew
  repeat' (first
    | with_reducible rfl | with_reducible assumption | with_reducible refine Eq.trans (setToken_mem _ _ _) ?_ | dsimp only | split)

@[simp] theorem landMintNew_mem (s : State) (b : Nat) (v : Dword) (rb : Nat) : (landMintNew s b v rb).mem = s.mem := by
  unfold landMintNew
  repeat' (first
    | with_reducible rfl | with_reducible assumption | with_reducible refine Eq.trans (setStrand_mem _ _ _) ?_
    | with_reducible refine Eq.trans (putReg_mem _ _ _ _) ?_ | with_reducible refine Eq.trans (freeEntry_mem _) ?_
    | refine Eq.trans (freeEntry_mem' _ _ _ (by assumption)) ?_ | with_reducible refine Eq.trans (freeReg_mem _ _ _) ?_
    | with_reducible refine Eq.trans (mintNew_mem _ _ _ _ _ _) ?_ | dsimp only | split)

@[simp] theorem endWaits_mem (s : State) (b : Nat) (f : WaitFor → Bool) : (endWaits s b f).mem = s.mem := by
  unfold endWaits
  repeat' (first
    | with_reducible rfl | with_reducible assumption | with_reducible refine Eq.trans (setStrand_mem _ _ _) ?_
    | with_reducible refine Eq.trans (post_mem _ _ _ _ _ _ _ _) ?_ | dsimp only | split)

theorem releaseHandoff_inv (s : State) (h : Handoff) (hinv : s.Inv) : (releaseHandoff s h).Inv := by
  unfold releaseHandoff
  repeat' (first
    | with_reducible assumption | with_reducible refine inv_of (setToken_mem _ _ _) ?_ | with_reducible refine inv_of (postArrival_mem _ _) ?_
    | with_reducible refine mapHeld_inv _ _ _ ?_ | with_reducible refine writeBack_inv _ _ _ ?_ | split
    | (refine inv_iff.2 ?_; dsimp only; refine inv_iff.1 ?_) | dsimp only)

theorem returnArrives_inv (s : State) (h : Handoff) (hinv : s.Inv) : (returnArrives s h).Inv := by
  unfold returnArrives
  repeat' (first
    | with_reducible assumption | with_reducible refine inv_of (setToken_mem _ _ _) ?_ | with_reducible refine inv_of (orphan_mem _ _) ?_
    | with_reducible refine mapHeld_inv _ _ _ ?_ | with_reducible refine inv_of (invalidateFor_mem _ _ _) ?_ | split
    | (refine inv_iff.2 ?_; dsimp only; refine inv_iff.1 ?_) | dsimp only)

theorem holdArrives_inv (s : State) (h : Handoff) (hinv : s.Inv) : (holdArrives s h).Inv := by
  unfold holdArrives
  repeat' (first
    | with_reducible assumption | with_reducible refine inv_of (setToken_mem _ _ _) ?_ | with_reducible refine mapHeld_inv _ _ _ ?_ | split
    | (refine inv_iff.2 ?_; dsimp only; refine inv_iff.1 ?_) | dsimp only)

@[simp] theorem wakeTake_mem (s : State) (agent : Nat) (id : Nat) (share : Bool) : (wakeTake s agent id share).mem = s.mem := by
  unfold wakeTake
  repeat' (first
    | with_reducible rfl | with_reducible assumption | with_reducible refine Eq.trans (post_mem _ _ _ _ _ _ _ _) ?_
    | with_reducible refine Eq.trans (endWaits_mem _ _ _) ?_ | dsimp only | split)

theorem arriveHandoff_inv (s : State) (h : Handoff) (hinv : s.Inv) : (arriveHandoff s h).Inv := by
  unfold arriveHandoff
  repeat' (first
    | with_reducible assumption | with_reducible refine inv_of (setToken_mem _ _ _) ?_
    | with_reducible refine inv_of (backToLender_mem _ _ _) ?_ | with_reducible refine mapHeld_inv _ _ _ ?_
    | with_reducible refine returnArrives_inv _ _ ?_ | with_reducible refine holdArrives_inv _ _ ?_
    | with_reducible refine inv_of (wakeTake_mem _ _ _ _) ?_ | split | (refine inv_iff.2 ?_; dsimp only; refine inv_iff.1 ?_) | dsimp only)

@[simp] theorem toHub_mem (s : State) (i : Instr) : (toHub s i).mem = s.mem := by
  unfold toHub
  repeat' (first
    | with_reducible rfl | with_reducible assumption | with_reducible refine Eq.trans (post_mem _ _ _ _ _ _ _ _) ?_
    | with_reducible refine Eq.trans (arrivalAt_mem _ _ _ _ _ _) ?_ | refine Eq.trans (arrivalAt_mem' _ _ _ _ _ _ _ _ (by assumption)) ?_
    | dsimp only | split)

@[simp] theorem farAnswer_mem (s : State) (z : Nat) (key : Nat) : (farAnswer s z key).mem = s.mem := by
  unfold farAnswer
  repeat' (first
    | with_reducible rfl | with_reducible assumption | with_reducible refine Eq.trans (post_mem _ _ _ _ _ _ _ _) ?_
    | with_reducible refine Eq.trans (freeValue_mem _) ?_ | refine Eq.trans (freeValue_mem' _ _ _ (by assumption)) ?_ | dsimp only | split)

@[simp] theorem notify_mem (s : State) (i : Nat) : (notify s i).mem = s.mem := by
  unfold notify
  repeat' (first
    | with_reducible rfl | with_reducible assumption | with_reducible refine Eq.trans (post_mem _ _ _ _ _ _ _ _) ?_
    | with_reducible refine Eq.trans (arrivalAt_mem _ _ _ _ _ _) ?_ | refine Eq.trans (arrivalAt_mem' _ _ _ _ _ _ _ _ (by assumption)) ?_
    | (refine foldl_mem _ _ _ _ ?_ ?_) | intro _ _ | dsimp only | split)

@[simp] theorem changeBarrier_mem (s : State) (i : Nat) (x : Barrier) : (changeBarrier s i x).mem = s.mem := by
  unfold changeBarrier
  repeat' (first
    | with_reducible rfl | with_reducible assumption | with_reducible refine Eq.trans (setBarrier_mem _ _ _) ?_
    | with_reducible refine Eq.trans (notify_mem _ _) ?_ | dsimp only | split)

theorem hubFault_inv (s : State) (c : Ctx) (r : FaultRec) (hinv : s.Inv) : (hubFault s c r).Inv := by
  unfold hubFault
  repeat' (first
    | with_reducible assumption | with_reducible refine takeException_inv _ _ _ _ _ _ _ ?_ | split
    | (refine inv_iff.2 ?_; dsimp only; refine inv_iff.1 ?_) | dsimp only)

theorem barrierCounter_inv (s : State) (x : Barrier) (hinv : s.Inv) : (barrierCounter s x).Inv := by
  unfold barrierCounter
  repeat' (first
    | with_reducible assumption | with_reducible refine storeBytes_inv _ _ _ ?_ | split | (refine inv_iff.2 ?_; dsimp only; refine inv_iff.1 ?_)
    | dsimp only)

@[simp] theorem sendRefusal_mem (s : State) (e : BarEvent) : (sendRefusal s e).mem = s.mem := by
  unfold sendRefusal
  repeat' (first
    | with_reducible rfl | with_reducible assumption | with_reducible refine Eq.trans (sendFlit_mem _ _ _ _ _ _ _) ?_ | dsimp only | split)

theorem countEvent_inv (s : State) (e : BarEvent) (hinv : s.Inv) : (countEvent s e).Inv := by
  unfold countEvent
  repeat' (first
    | with_reducible assumption | with_reducible refine inv_of (setBarrier_mem _ _ _) ?_
    | with_reducible refine inv_of (logRec_mem _ _ _ _ _ _ _) ?_ | with_reducible refine inv_of (changeBarrier_mem _ _ _) ?_
    | with_reducible refine barrierCounter_inv _ _ ?_ | with_reducible refine inv_of (sendRefusal_mem _ _) ?_ | split
    | (refine inv_iff.2 ?_; dsimp only; refine inv_iff.1 ?_) | dsimp only)

theorem waitBreaks_inv (s : State) (w : LooseWait) (idx : Nat) (hinv : s.Inv) : (waitBreaks s w idx).Inv := by
  unfold waitBreaks
  repeat' (first
    | with_reducible assumption | with_reducible refine inv_of (setStrand_mem _ _ _) ?_
    | with_reducible refine inv_of (post_mem _ _ _ _ _ _ _ _) ?_ | with_reducible refine takeException_inv _ _ _ _ _ _ _ ?_ | split
    | (refine inv_iff.2 ?_; dsimp only; refine inv_iff.1 ?_) | dsimp only)

theorem breakTimed_inv (s : State) (e : Timed) (idx : Nat) (hinv : s.Inv) : (breakTimed s e idx).Inv := by
  unfold breakTimed
  repeat' (first
    | with_reducible assumption | with_reducible refine inv_of (post_mem _ _ _ _ _ _ _ _) ?_
    | with_reducible refine takeException_inv _ _ _ _ _ _ _ ?_ | split | (refine inv_iff.2 ?_; dsimp only; refine inv_iff.1 ?_) | dsimp only)

theorem applyNotice_inv (s : State) (n : BarNotice) (hinv : s.Inv) : (applyNotice s n).Inv := by
  unfold applyNotice
  repeat' (first
    | with_reducible assumption | with_reducible refine inv_of (setStack_mem _ _ _) ?_
    | with_reducible refine inv_of (post_mem _ _ _ _ _ _ _ _) ?_ | with_reducible refine inv_of (dropEntries_mem _ _) ?_
    | with_reducible refine waitBreaks_inv _ _ _ ?_ | with_reducible refine breakTimed_inv _ _ _ ?_
    | with_reducible refine foldl_inv _ _ _ ?_ ?_ | intro _ _ _ | split | (refine inv_iff.2 ?_; dsimp only; refine inv_iff.1 ?_) | dsimp only)

theorem barLeaves_inv (s0 : State) (pkg : Nat) (idx : Nat) (hinv : s0.Inv) : (barLeaves s0 pkg idx).Inv := by
  unfold barLeaves
  repeat' (first
    | with_reducible assumption | with_reducible refine cleanLine_inv _ _ _ _ ?_ | with_reducible refine inv_of (sendFlit_mem _ _ _ _ _ _ _) ?_
    | with_reducible refine inv_of (toHub_mem _ _) ?_ | with_reducible refine foldl_inv _ _ _ ?_ ?_ | intro _ _ _ | split
    | (refine inv_iff.2 ?_; dsimp only; refine inv_iff.1 ?_) | dsimp only)

@[simp] theorem landSrdef_mem (s : State) (b : Nat) (slot : Nat) (img : ShapeImg) (reg : Nat) : (landSrdef s b slot img reg).mem = s.mem := by
  unfold landSrdef
  repeat' (first
    | with_reducible rfl | with_reducible assumption | with_reducible refine Eq.trans (setSlot_mem _ _ _ _ _) ?_
    | with_reducible refine Eq.trans (putReg_mem _ _ _ _) ?_ | dsimp only | split)

@[simp] theorem landSrkill_mem (s : State) (b : Nat) (h : Dword) : (landSrkill s b h).mem = s.mem := by
  unfold landSrkill
  repeat' (first
    | with_reducible rfl | with_reducible assumption | with_reducible refine Eq.trans (setSlot_mem _ _ _ _ _) ?_ | dsimp only | split)

@[simp] theorem drainRows_mem (s : State) (id : Nat) (d : Nat) : (drainRows s id d).mem = s.mem := by
  unfold drainRows
  repeat' (first
    | with_reducible rfl | with_reducible assumption | with_reducible refine Eq.trans (mLater_mem _ _ _ _ _ _ _ _ _ _) ?_
    | with_reducible refine Eq.trans (forEach_mem _ _ _ ?_) ?_ | intro _ _ | dsimp only | split)

@[simp] theorem drainIssue_mem (s : State) (bf : Bool) : (drainIssue s bf).mem = s.mem := by
  unfold drainIssue
  repeat' (first
    | with_reducible rfl | with_reducible assumption | with_reducible refine Eq.trans (setRow_mem _ _ _) ?_
    | with_reducible refine Eq.trans (putMacro_mem _ _ _ _) ?_ | with_reducible refine Eq.trans (newMacro_mem _ _ _ _) ?_
    | refine Eq.trans (newMacro_mem' _ _ _ _ _ _ (by assumption)) ?_ | with_reducible refine Eq.trans (mHold_mem _) ?_
    | with_reducible refine Eq.trans (mLater_mem _ _ _ _ _ _ _ _ _ _) ?_ | with_reducible refine Eq.trans (drainRows_mem _ _ _) ?_ | dsimp only
    | split)

@[simp] theorem noteCell_mem (s : State) (b : Nat) (r : FaultRec) : (noteCell s b r).mem = s.mem := by
  unfold noteCell
  repeat' (first
    | with_reducible rfl | with_reducible assumption | with_reducible refine Eq.trans (setGroup_mem _ _ _) ?_
    | with_reducible refine Eq.trans (logRec_mem _ _ _ _ _ _ _) ?_ | dsimp only | split)

@[simp] theorem raiseSkip_mem (s : State) : (raiseSkip s).mem = s.mem := by
  unfold raiseSkip
  repeat' (first
    | with_reducible rfl | with_reducible assumption | with_reducible refine Eq.trans (setStrand_mem _ _ _) ?_ | dsimp only | split)

theorem compareStep_inv (s : State) (id : Nat) (a : Access) (hinv : s.Inv) : (compareStep s id a).Inv := by
  unfold compareStep
  repeat' (first
    | with_reducible assumption | with_reducible refine inv_of (setStrand_mem _ _ _) ?_ | with_reducible refine inv_of (setRow_mem _ _ _) ?_
    | with_reducible refine lateFault_inv _ _ _ _ _ ?_ | with_reducible refine inv_of (setTile_mem _ _ _ _) ?_
    | with_reducible refine inv_of (drainRows_mem _ _ _) ?_ | with_reducible refine inv_of (noteCell_mem _ _ _) ?_
    | with_reducible refine inv_of (raiseSkip_mem _) ?_ | split | (refine inv_iff.2 ?_; dsimp only; refine inv_iff.1 ?_) | dsimp only)

@[simp] theorem leaveStep_mem (s : State) (id : Nat) (i : Nat) : (leaveStep s id i).mem = s.mem := by
  unfold leaveStep
  repeat' (first
    | with_reducible rfl | with_reducible assumption | with_reducible refine Eq.trans (landLater_mem _ _ _ _) ?_
    | with_reducible refine Eq.trans (putMacro_mem _ _ _ _) ?_ | (refine foldl_mem _ _ _ _ ?_ ?_) | intro _ _ | dsimp only | split)

theorem outStep_inv (s : State) (id : Nat) (i : Nat) (a : Access) (hinv : s.Inv) : (outStep s id i a).Inv := by
  unfold outStep
  repeat' (first
    | with_reducible assumption | with_reducible refine writeVa_inv _ _ _ _ ?_ | split | (refine inv_iff.2 ?_; dsimp only; refine inv_iff.1 ?_)
    | dsimp only)

@[simp] theorem portStep_mem (s : State) (id : Nat) (ti : Nat) : (portStep s id ti).mem = s.mem := by
  unfold portStep
  repeat' (first
    | with_reducible rfl | with_reducible assumption | with_reducible refine Eq.trans (dropMacro_mem _ _ _) ?_
    | with_reducible refine Eq.trans (clearTile_mem _ _ _) ?_ | dsimp only | split)

@[simp] theorem countAttempt_mem (s : State) : (countAttempt s).mem = s.mem := by
  unfold countAttempt
  repeat' (first
    | with_reducible rfl | with_reducible assumption | with_reducible refine Eq.trans (setStrand_mem _ _ _) ?_ | dsimp only | split)

theorem locStep_inv (s : State) (id : Nat) (i : Nat) (a : Access) (hinv : s.Inv) : (locStep s id i a).Inv := by
  unfold locStep
  repeat' (first
    | with_reducible assumption | with_reducible refine inv_of (setStrand_mem _ _ _) ?_ | with_reducible refine inv_of (dropMacro_mem _ _ _) ?_
    | with_reducible refine writeVa_inv _ _ _ _ ?_ | split | (refine inv_iff.2 ?_; dsimp only; refine inv_iff.1 ?_) | dsimp only)

@[simp] theorem fixWrite_mem (s : State) (id : Nat) (row : Nat) (p : Prod) : (fixWrite s id row p).mem = s.mem := by
  unfold fixWrite
  repeat' (first
    | with_reducible rfl | with_reducible assumption | with_reducible refine Eq.trans (setTile_mem _ _ _ _) ?_
    | with_reducible refine Eq.trans (arrWritten_mem _ _ _) ?_ | dsimp only | split)

@[simp] theorem fixNote_mem (s : State) (id : Nat) (p : Prod) : (fixNote s id p).mem = s.mem := by
  unfold fixNote
  repeat' (first
    | with_reducible rfl | with_reducible assumption | with_reducible refine Eq.trans (setStrand_mem _ _ _) ?_
    | with_reducible refine Eq.trans (dropMacro_mem _ _ _) ?_ | dsimp only | split)

theorem mStep_inv (s : State) (id k : Nat) (a : Access) (hinv : s.Inv) : (mStep s id k a).Inv := by
  unfold mStep
  extract_lets r cls i
  split
  · exact hinv
  · extract_lets op
    split
    · extract_lets p0 p
      clear_value p p0 op cls i r
      repeat' (first
        | with_reducible assumption
        | with_reducible refine inv_of (loadStep_mem _ _ _ _ _) ?_
        | with_reducible refine inv_of (rowStep_mem _ _ _ _ _ _) ?_
        | with_reducible refine inv_of (headerStep_mem _ _ _ _ _ _) ?_
        | with_reducible refine inv_of (gatherStep_mem _ _ _ _ _ _) ?_
        | with_reducible refine inv_of (edgeStep_mem _ _ _) ?_
        | with_reducible refine inv_of (checkStep_mem _ _ _ _ _) ?_
        | with_reducible refine inv_of (countStep_mem _ _ _ _) ?_
        | with_reducible refine inv_of (doneStep_mem _ _ _) ?_
        | with_reducible refine inv_of (releaseStep_mem _ _) ?_
        | with_reducible refine inv_of (dropMacro_mem _ _ _) ?_
        | with_reducible refine inv_of (fixWrite_mem _ _ _ _) ?_
        | with_reducible refine inv_of (writeStep_mem _ _ _ _ _) ?_
        | with_reducible refine inv_of (fixNote_mem _ _ _) ?_
        | with_reducible refine ite_inv ?_ ?_)
    · clear_value op cls i r
      repeat' (first
        | with_reducible assumption
        | with_reducible refine inv_of (loadStep_mem _ _ _ _ _) ?_
        | with_reducible refine inv_of (scaleStep_mem _ _ _) ?_
        | with_reducible refine inv_of (sclRead_mem _ _ _) ?_
        | with_reducible refine inv_of (leaveStep_mem _ _ _) ?_
        | with_reducible refine inv_of (sclWrite_mem _ _ _) ?_
        | with_reducible refine outStep_inv _ _ _ _ ?_
        | with_reducible refine inv_of (doneStep_mem _ _ _) ?_
        | with_reducible refine inv_of (dropMacro_mem _ _ _) ?_
        | with_reducible refine compareStep_inv _ _ _ ?_
        | with_reducible refine inv_of (portStep_mem _ _ _) ?_
        | with_reducible refine locStep_inv _ _ _ _ ?_
        | with_reducible refine ite_inv ?_ ?_)

@[simp] theorem healArray_mem (s : State) (c : Ctx) (a : Access) : (healArray s c a).mem = s.mem := by
  unfold healArray
  repeat' (first
    | with_reducible rfl | with_reducible assumption | with_reducible refine Eq.trans (setRow_mem _ _ _) ?_
    | with_reducible refine Eq.trans (countInner_mem _ _ _) ?_ | dsimp only | split)

@[simp] theorem mFails_mem (s : State) (id : Nat) (k : Nat) (cause : Nat) : (mFails s id k cause).mem = s.mem := by
  unfold mFails
  repeat' (first
    | with_reducible rfl | with_reducible assumption | with_reducible refine Eq.trans (putMacro_mem _ _ _ _) ?_
    | with_reducible refine Eq.trans (setTile_mem _ _ _ _) ?_ | with_reducible refine Eq.trans (setCreel_mem _ _ _ _) ?_
    | with_reducible refine Eq.trans (groupsEnd_mem _ _ _) ?_ | dsimp only | split)

@[simp] theorem goTo_mem (s : State) (c : Ctx) (t : Nat) (cp : Nat) : (goTo s c t cp).mem = s.mem := by
  unfold goTo
  repeat' (first
    | with_reducible rfl | with_reducible assumption | with_reducible refine Eq.trans (setStrand_mem _ _ _) ?_
    | with_reducible refine Eq.trans (post_mem _ _ _ _ _ _ _ _) ?_ | dsimp only | split)

@[simp] theorem takeBranch_mem (s : State) (target : Nat) (pops : Bool) : (takeBranch s target pops).mem = s.mem := by
  unfold takeBranch
  repeat' (first
    | with_reducible rfl | with_reducible assumption | with_reducible refine Eq.trans (setStrand_mem _ _ _) ?_
    | with_reducible refine Eq.trans (goTo_mem _ _ _ _) ?_ | dsimp only | split)

@[simp] theorem startLoop_mem (s : State) (count : Nat) (len : Nat) : (startLoop s count len).mem = s.mem := by
  unfold startLoop
  repeat' (first
    | with_reducible rfl | with_reducible assumption | with_reducible refine Eq.trans (setStrand_mem _ _ _) ?_
    | with_reducible refine Eq.trans (goTo_mem _ _ _ _) ?_ | dsimp only | split)

@[simp] theorem writeCsr_mem (s : State) (i : Nat) (x : Dword) : (writeCsr s i x).mem = s.mem := by
  unfold writeCsr
  repeat' (first
    | with_reducible rfl | with_reducible assumption | with_reducible refine Eq.trans (setStrand_mem _ _ _) ?_ | dsimp only | split)

@[simp] theorem afterNode_mem (s : State) : (afterNode s).mem = s.mem := by
  unfold afterNode
  repeat' (first
    | with_reducible rfl | with_reducible assumption | with_reducible refine Eq.trans (goTo_mem _ _ _ _) ?_ | dsimp only | split)

@[simp] theorem nextPhase_mem (s : State) (b : Nat) : (nextPhase s b).mem = s.mem := by
  unfold nextPhase
  repeat' (first
    | with_reducible rfl | with_reducible assumption | with_reducible refine Eq.trans (setStrand_mem _ _ _) ?_
    | with_reducible refine Eq.trans (setGroup_mem _ _ _) ?_ | dsimp only | split)

@[simp] theorem accessLater_mem (s : State) (d : Nat) (ph : Nat) (a : Access) : (accessLater s d ph a).mem = s.mem := by
  unfold accessLater
  repeat' (first
    | with_reducible rfl | with_reducible assumption | with_reducible refine Eq.trans (later_mem _ _ _ _ _) ?_ | dsimp only | split)

@[simp] theorem cAccess_mem (s : State) (va : Nat) (size : Nat) (ph : Nat) (lag : Nat) (cls : Nat) (op : AccOp) (frameOp : Option AccOp) : (cAccess s va size ph lag cls op frameOp).mem = s.mem := by
  unfold cAccess
  repeat' (first
    | with_reducible rfl | with_reducible assumption | with_reducible refine Eq.trans (freeValue_mem _) ?_
    | refine Eq.trans (freeValue_mem' _ _ _ (by assumption)) ?_ | with_reducible refine Eq.trans (accessLater_mem _ _ _ _) ?_ | dsimp only
    | split)

@[simp] theorem pushStream_mem (s : State) (b : Nat) (q : Nat) (ws : List Word) : (pushStream s b q ws).mem = s.mem := by
  unfold pushStream
  repeat' (first
    | with_reducible rfl | with_reducible assumption | with_reducible refine Eq.trans (setStrand_mem _ _ _) ?_ | dsimp only | split)

theorem pushFault_inv (s : State) (excess : Nat) (hinv : s.Inv) : (pushFault s excess).Inv := by
  unfold pushFault
  repeat' (first
    | with_reducible assumption | with_reducible refine lateFault_inv _ _ _ _ _ ?_ | split
    | (refine inv_iff.2 ?_; dsimp only; refine inv_iff.1 ?_) | dsimp only)

@[simp] theorem readLines_mem (s : State) (id : Nat) (d : Nat) (ls : List Nat) : (readLines s id d ls).mem = s.mem := by
  unfold readLines
  repeat' (first
    | with_reducible rfl | with_reducible assumption | with_reducible refine Eq.trans (stepLater_mem _ _ _ _ _ _ _ _ _ _) ?_
    | (refine foldl_mem _ _ _ _ ?_ ?_) | intro _ _ | dsimp only | split)

@[simp] theorem writeLines_mem (s : State) (id : Nat) (d : Nat) (sel : Nat) (ls : List Nat) (mask : Nat → Nat) : (writeLines s id d sel ls mask).mem = s.mem := by
  unfold writeLines
  repeat' (first
    | with_reducible rfl | with_reducible assumption | with_reducible refine Eq.trans (stepUnder_mem _ _ _ _ _ _ _ _ _ _ _) ?_
    | (refine foldl_mem _ _ _ _ ?_ ?_) | intro _ _ | dsimp only | split)

@[simp] theorem consume_mem (s : State) (id : Nat) (chan : Nat) (m : ChanMsg) : (consume s id chan m).mem = s.mem := by
  unfold consume
  repeat' (first
    | with_reducible rfl | with_reducible assumption | with_reducible refine Eq.trans (setStrand_mem _ _ _) ?_
    | with_reducible refine Eq.trans (putMacro_mem _ _ _ _) ?_ | with_reducible refine Eq.trans (stepLater_mem _ _ _ _ _ _ _ _ _ _) ?_
    | with_reducible refine Eq.trans (endWaits_mem _ _ _) ?_ | with_reducible refine Eq.trans (writeLines_mem _ _ _ _ _ _) ?_
    | (refine foldl_mem _ _ _ _ ?_ ?_) | intro _ _ | dsimp only | split)

theorem misfit_inv (s : State) (ph : Nat) (pay : Pay) (chan : Nat) (m : ChanMsg) (hinv : s.Inv) : (misfit s ph pay chan m).Inv := by
  unfold misfit
  repeat' (first
    | with_reducible assumption | with_reducible refine inv_of (setStrand_mem _ _ _) ?_ | with_reducible refine lateFault_inv _ _ _ _ _ ?_
    | with_reducible refine inv_of (endWaits_mem _ _ _) ?_ | split | (refine inv_iff.2 ?_; dsimp only; refine inv_iff.1 ?_) | dsimp only)

theorem chanFault_inv (s : State) (b : Nat) (chan : Nat) (hinv : s.Inv) : (chanFault s b chan).Inv := by
  unfold chanFault
  repeat' (first
    | with_reducible assumption | with_reducible refine inv_of (setStrand_mem _ _ _) ?_ | with_reducible refine lateFault_inv _ _ _ _ _ ?_
    | with_reducible refine inv_of (endWaits_mem _ _ _) ?_ | split | (refine inv_iff.2 ?_; dsimp only; refine inv_iff.1 ?_) | dsimp only)

theorem putLine_inv (s : State) (c : Ctx) (line : Nat) (bs : List Byte) (bits : Nat) (hinv : s.Inv) : (putLine s c line bs bits).Inv := by
  unfold putLine
  repeat' (first
    | with_reducible assumption | with_reducible refine writeVaMasked_inv _ _ _ _ _ ?_ | with_reducible refine foldl_inv _ _ _ ?_ ?_
    | intro _ _ _ | split | (refine inv_iff.2 ?_; dsimp only; refine inv_iff.1 ?_) | dsimp only)

@[simp] theorem sendMessage_mem (s : State) (m : Macro) : (sendMessage s m).mem = s.mem := by
  unfold sendMessage
  repeat' (first
    | with_reducible rfl | with_reducible assumption | with_reducible refine Eq.trans (post_mem _ _ _ _ _ _ _ _) ?_
    | with_reducible refine Eq.trans (freeValue_mem _) ?_ | refine Eq.trans (freeValue_mem' _ _ _ (by assumption)) ?_
    | with_reducible refine Eq.trans (arrivalAt_mem _ _ _ _ _ _) ?_ | refine Eq.trans (arrivalAt_mem' _ _ _ _ _ _ _ _ (by assumption)) ?_
    | with_reducible refine Eq.trans (useSlot_mem _ _ _ _) ?_ | refine Eq.trans (useSlot_mem' _ _ _ _ _ _ (by assumption)) ?_ | dsimp only
    | split)

theorem xStep_inv (s : State) (id : Nat) (k : Nat) (a : Access) (hinv : s.Inv) : (xStep s id k a).Inv := by
  unfold xStep
  repeat' (first
    | with_reducible assumption | with_reducible refine inv_of (putMacro_mem _ _ _ _) ?_ | with_reducible refine inv_of (dropMacro_mem _ _ _) ?_
    | with_reducible refine inv_of (afterReads_mem _ _ _) ?_ | with_reducible refine writeVaMasked_inv _ _ _ _ _ ?_
    | with_reducible refine putLine_inv _ _ _ _ _ ?_ | with_reducible refine inv_of (sendMessage_mem _ _) ?_ | split
    | (refine inv_iff.2 ?_; dsimp only; refine inv_iff.1 ?_) | dsimp only)

@[simp] theorem xFails_mem (s : State) (id : Nat) (cause : Nat) : (xFails s id cause).mem = s.mem := by
  unfold xFails
  repeat' (first
    | with_reducible rfl | with_reducible assumption | with_reducible refine Eq.trans (putMacro_mem _ _ _ _) ?_ | dsimp only | split)

@[simp] theorem holdMessage_mem (s : State) (b : Nat) (m : Message) : (holdMessage s b m).mem = s.mem := by
  unfold holdMessage
  repeat' (first
    | with_reducible rfl | with_reducible assumption | with_reducible refine Eq.trans (setStrand_mem _ _ _) ?_
    | with_reducible refine Eq.trans (post_mem _ _ _ _ _ _ _ _) ?_ | dsimp only | split)

theorem strandFault_inv (s : State) (b : Nat) (r : FaultRec) (hinv : s.Inv) : (strandFault s b r).Inv := by
  unfold strandFault
  repeat' (first
    | with_reducible assumption | with_reducible refine takeException_inv _ _ _ _ _ _ _ ?_ | split
    | (refine inv_iff.2 ?_; dsimp only; refine inv_iff.1 ?_) | dsimp only)

@[simp] theorem postJob_mem (s : State) (d : Nat) (i : Instr) : (postJob s d i).mem = s.mem := by
  unfold postJob
  repeat' (first
    | with_reducible rfl | with_reducible assumption | with_reducible refine Eq.trans (post_mem _ _ _ _ _ _ _ _) ?_ | dsimp only | split)

@[simp] theorem enterJob_mem (s : State) (key : Nat) (j : Job) : (enterJob s key j).mem = s.mem := by
  unfold enterJob
  repeat' (first
    | with_reducible rfl | with_reducible assumption | with_reducible refine Eq.trans (postJob_mem _ _ _) ?_ | dsimp only | split)

@[simp] theorem noteCard_mem (s : State) (b : Nat) (k : BitVec 1024) : (noteCard s b k).mem = s.mem := by
  unfold noteCard
  repeat' (first
    | with_reducible rfl | with_reducible assumption | with_reducible refine Eq.trans (setStrand_mem _ _ _) ?_ | dsimp only | split)

@[simp] theorem submit_mem (s : State) (rb : Nat) : (submit s rb).mem = s.mem := by
  unfold submit
  repeat' (first
    | with_reducible rfl | with_reducible assumption | with_reducible refine Eq.trans (later_mem _ _ _ _ _) ?_
    | with_reducible refine Eq.trans (scalarLater_mem _ _ _ _) ?_ | with_reducible refine Eq.trans (handDelay_mem _ _) ?_
    | refine Eq.trans (handDelay_mem' _ _ _ _ (by assumption)) ?_ | with_reducible refine Eq.trans (enterJob_mem _ _ _) ?_
    | with_reducible refine Eq.trans (noteCard_mem _ _ _) ?_ | (refine foldl_mem _ _ _ _ ?_ ?_) | intro _ _ | dsimp only | split)

@[simp] theorem carryLeaving_mem (s : State) (w : Word) (c : Ctx) : (carryLeaving s w c).mem = s.mem := by
  unfold carryLeaving
  repeat' (first
    | with_reducible rfl | with_reducible assumption | with_reducible refine Eq.trans (setStrand_mem _ _ _) ?_ | dsimp only | split)

theorem landKind_inv (s : State) (k : LandKind) (hinv : s.Inv) : (landKind s k).Inv := by
  unfold landKind
  repeat' (first
    | with_reducible assumption | with_reducible refine inv_of (setStrand_mem _ _ _) ?_ | with_reducible refine inv_of (freeValue_mem _) ?_
    | refine inv_of (freeValue_mem' _ _ _ (by assumption)) ?_ | with_reducible refine inv_of (logWrites_mem _ _ _) ?_
    | with_reducible refine inv_of (putReg_mem _ _ _ _) ?_ | with_reducible refine inv_of (landLater_mem _ _ _ _) ?_
    | with_reducible refine lateFault_inv _ _ _ _ _ ?_ | with_reducible refine inv_of (landShareRv_mem _ _ _) ?_
    | with_reducible refine inv_of (landRetSh_mem _ _ _) ?_ | with_reducible refine inv_of (landTaken_mem _ _ _ _) ?_
    | with_reducible refine inv_of (landSplit_mem _ _ _ _ _) ?_ | with_reducible refine inv_of (landJoin_mem _ _ _ _ _ _) ?_
    | with_reducible refine inv_of (landMint_mem _ _ _ _) ?_ | with_reducible refine inv_of (landMintNew_mem _ _ _ _) ?_
    | with_reducible refine inv_of (endWaits_mem _ _ _) ?_ | with_reducible refine barLeaves_inv _ _ _ ?_
    | with_reducible refine inv_of (landSrdef_mem _ _ _ _ _) ?_ | with_reducible refine inv_of (landSrkill_mem _ _ _) ?_ | split
    | (refine inv_iff.2 ?_; dsimp only; refine inv_iff.1 ?_) | dsimp only)

theorem land_inv (s : State) (l : Landing) (hinv : s.Inv) : (land s l).Inv := by
  unfold land
  repeat' (first
    | with_reducible assumption | with_reducible refine inv_of (setStrand_mem _ _ _) ?_ | with_reducible refine landKind_inv _ _ ?_ | split
    | (refine inv_iff.2 ?_; dsimp only; refine inv_iff.1 ?_) | dsimp only)

@[simp] theorem landLogs_mem (s : State) (l : Landing) : (landLogs s l).mem = s.mem := by
  unfold landLogs
  repeat' (first
    | with_reducible rfl | with_reducible assumption | with_reducible refine Eq.trans (logInner_mem _) ?_ | dsimp only | split)

theorem readSegs_mem (s : State) (l : List Seg) : (readSegs s l).2.mem = s.mem := by
  induction l generalizing s with
  | nil => rfl
  | cons g t ih =>
    simp only [readSegs]
    refine (ih _).trans ?_
    split
    · exact afterRead_mem _ _ _
    · rfl
theorem readSegs_mem' (s : State) (l : List Seg) (x : _) (t : State) (e : readSegs s l = (x, t)) : t.mem = s.mem := by
  have q := readSegs_mem s l; rwa [e] at q
theorem gatherLaneRead_mem (acc : List Word × State) (c : Ctx) (v : Option Nat) : (gatherLaneRead acc c v).2.mem = acc.2.mem := by
  unfold gatherLaneRead
  split
  · exact readSegs_mem _ _
  · rfl
theorem gatherLanes_mem (l : List (Option Nat)) (acc : List Word × State) (c : Ctx) :
    (l.foldl (fun acc v => gatherLaneRead acc c v) acc).2.mem = acc.2.mem := by
  induction l generalizing acc with
  | nil => rfl
  | cons v t ih => exact (ih _).trans (gatherLaneRead_mem _ _ _)

theorem cacheFill_inv (s : State) (r : Nat) (agent : Nat) (l : Nat) (hinv : s.Inv) : (cacheFill s r agent l).Inv := by
  unfold cacheFill
  repeat' (first
    | with_reducible assumption | with_reducible refine inv_of (setRow_mem _ _ _) ?_ | with_reducible refine inv_of (freeValue_mem _) ?_
    | refine inv_of (freeValue_mem' _ _ _ (by assumption)) ?_ | with_reducible refine inv_of (afterRead_mem _ _ _) ?_
    | with_reducible refine evictLine_inv _ _ _ ?_ | split | (refine inv_iff.2 ?_; dsimp only; refine inv_iff.1 ?_) | dsimp only)

theorem cacheRead_inv (s : State) (r : Nat) (agent : Nat) (a : Nat) (n : Nat) (hinv : s.Inv) : (cacheRead s r agent a n).2.Inv := by
  unfold cacheRead
  repeat' (first
    | with_reducible assumption | with_reducible refine cacheFill_inv _ _ _ _ ?_ | split
    | (refine inv_iff.2 ?_; dsimp only; refine inv_iff.1 ?_) | dsimp only)
theorem cacheRead_inv' (s : State) (r : Nat) (agent : Nat) (a : Nat) (n : Nat) (x' : _) (t' : State) (e' : cacheRead s r agent a n = (x', t')) (hinv : s.Inv) : t'.Inv := by
  have q := cacheRead_inv s r agent a n hinv; rwa [e'] at q

theorem cacheWrite_inv (s : State) (r : Nat) (agent : Nat) (a : Nat) (n : Nat) (x : Nat) (hinv : s.Inv) : (cacheWrite s r agent a n x).Inv := by
  unfold cacheWrite
  repeat' (first
    | with_reducible assumption | with_reducible refine inv_of (setRow_mem _ _ _) ?_ | with_reducible refine cacheFill_inv _ _ _ _ ?_ | split
    | (refine inv_iff.2 ?_; dsimp only; refine inv_iff.1 ?_) | dsimp only)

theorem evictFor_inv (s : State) (c : Ctx) (l : List Seg) (hinv : s.Inv) : (evictFor s c l).Inv := by
  unfold evictFor
  repeat' (first
    | with_reducible assumption | with_reducible refine evictLine_inv _ _ _ ?_ | split | (refine inv_iff.2 ?_; dsimp only; refine inv_iff.1 ?_)
    | dsimp only)

theorem readC_inv (s : State) (c : Ctx) (a : Access) (hinv : s.Inv) : (readC s c a).2.Inv := by
  unfold readC
  repeat' (first
    | with_reducible assumption | with_reducible refine inv_of (readSegs_mem _ _) ?_ | refine inv_of (readSegs_mem' _ _ _ _ (by assumption)) ?_
    | with_reducible refine cacheRead_inv _ _ _ _ _ ?_ | refine cacheRead_inv' _ _ _ _ _ _ _ (by assumption) ?_ | split
    | (refine inv_iff.2 ?_; dsimp only; refine inv_iff.1 ?_) | dsimp only)
theorem readC_inv' (s : State) (c : Ctx) (a : Access) (x' : _) (t' : State) (e' : readC s c a = (x', t')) (hinv : s.Inv) : t'.Inv := by
  have q := readC_inv s c a hinv; rwa [e'] at q

theorem writeC_inv (s : State) (c : Ctx) (a : Access) (x : Nat) (cached : Bool) (hinv : s.Inv) : (writeC s c a x cached).Inv := by
  unfold writeC
  repeat' (first
    | with_reducible assumption | with_reducible refine inv_of (markDirty_mem _ _ _ _) ?_ | with_reducible refine writeSegs_inv _ _ _ _ _ ?_
    | with_reducible refine cacheWrite_inv _ _ _ _ _ _ ?_ | split | (refine inv_iff.2 ?_; dsimp only; refine inv_iff.1 ?_) | dsimp only)

theorem macroStep_inv (s : State) (id : Nat) (k : Nat) (a : Access) (hinv : s.Inv) : (macroStep s id k a).Inv := by
  unfold macroStep
  repeat' (first
    | with_reducible assumption | with_reducible refine bStep_inv _ _ _ _ ?_ | with_reducible refine mStep_inv _ _ _ _ ?_
    | with_reducible refine xStep_inv _ _ _ _ ?_ | split | (refine inv_iff.2 ?_; dsimp only; refine inv_iff.1 ?_) | dsimp only)

@[simp] theorem macroFails_mem (s : State) (id : Nat) (k : Nat) (cause : Nat) : (macroFails s id k cause).mem = s.mem := by
  unfold macroFails
  repeat' (first
    | with_reducible rfl | with_reducible assumption | with_reducible refine Eq.trans (bFails_mem _ _ _) ?_
    | with_reducible refine Eq.trans (mFails_mem _ _ _ _) ?_ | with_reducible refine Eq.trans (xFails_mem _ _ _) ?_ | dsimp only | split)

theorem doAccess_inv (s0 : State) (a : Access) (hinv : s0.Inv) : (doAccess s0 a).Inv := by
  unfold doAccess
  repeat' (first
    | with_reducible assumption | with_reducible refine inv_of (setStrand_mem _ _ _) ?_
    | with_reducible refine inv_of (landLater_mem _ _ _ _) ?_ | with_reducible refine writeSegs_inv _ _ _ _ _ ?_
    | with_reducible refine inv_of (noteAck_mem _ _ _) ?_ | with_reducible refine inv_of (readSegs_mem _ _) ?_
    | refine inv_of (readSegs_mem' _ _ _ _ (by assumption)) ?_ | with_reducible refine evictFor_inv _ _ _ ?_
    | with_reducible refine readC_inv _ _ _ ?_ | refine readC_inv' _ _ _ _ _ (by assumption) ?_ | with_reducible refine writeC_inv _ _ _ _ _ ?_
    | with_reducible refine macroStep_inv _ _ _ _ ?_ | with_reducible refine inv_of (gatherLanes_mem _ _ _) ?_
    | with_reducible refine foldl_inv _ _ _ ?_ ?_ | intro _ _ _ | split | (refine inv_iff.2 ?_; dsimp only; refine inv_iff.1 ?_) | dsimp only)

theorem rebuild_inv (s : State) (c : Ctx) (a : Access) (hinv : s.Inv) : (rebuild s c a).Inv := by
  unfold rebuild
  repeat' (first
    | with_reducible assumption | with_reducible refine inv_of (afterRead_mem _ _ _) ?_ | with_reducible refine freezeGroup_inv _ _ _ _ ?_
    | with_reducible refine inv_of (endStop_mem _ _ _ _) ?_ | with_reducible refine inv_of (healArray_mem _ _ _) ?_
    | with_reducible refine foldl_inv _ _ _ ?_ ?_ | intro _ _ _ | split | (refine inv_iff.2 ?_; dsimp only; refine inv_iff.1 ?_) | dsimp only)

theorem accessFaults_inv (s : State) (a : Access) (r : FaultRec) (hinv : s.Inv) : (accessFaults s a r).Inv := by
  unfold accessFaults
  repeat' (first
    | with_reducible assumption | with_reducible refine inv_of (post_mem _ _ _ _ _ _ _ _) ?_ | with_reducible refine lateFault_inv _ _ _ _ _ ?_
    | with_reducible refine macroStep_inv _ _ _ _ ?_ | with_reducible refine inv_of (macroFails_mem _ _ _ _) ?_ | split
    | (refine inv_iff.2 ?_; dsimp only; refine inv_iff.1 ?_) | dsimp only)

@[simp] theorem commitWord_mem (s : State) (c : Ctx) (w : Word) : (commitWord s c w).mem = s.mem := by
  unfold commitWord
  repeat' (first
    | with_reducible rfl | with_reducible assumption | with_reducible refine Eq.trans (setRow_mem _ _ _) ?_ | dsimp only | split)

@[simp] theorem refetch_mem (s : State) (b : Nat) (d : Nat) : (refetch s b d).mem = s.mem := by
  unfold refetch
  repeat' (first
    | with_reducible rfl | with_reducible assumption | with_reducible refine Eq.trans (post_mem _ _ _ _ _ _ _ _) ?_ | dsimp only | split)

theorem dispatchFault_inv (s : State) (b : Nat) (c : Ctx) (f : Fail) (hinv : s.Inv) : (dispatchFault s b c f).Inv := by
  unfold dispatchFault
  repeat' (first
    | with_reducible assumption | with_reducible refine takeException_inv _ _ _ _ _ _ _ ?_ | with_reducible refine inv_of (refetch_mem _ _ _) ?_
    | split | (refine inv_iff.2 ?_; dsimp only; refine inv_iff.1 ?_) | dsimp only)

@[simp] theorem holdPacket_mem (s : State) (b : Nat) : (holdPacket s b).mem = s.mem := by
  unfold holdPacket
  repeat' (first
    | with_reducible rfl | with_reducible assumption | with_reducible refine Eq.trans (setStrand_mem _ _ _) ?_
    | with_reducible refine Eq.trans (post_mem _ _ _ _ _ _ _ _) ?_ | with_reducible refine Eq.trans (refetch_mem _ _ _) ?_ | dsimp only | split)

@[simp] theorem repairReg_mem (s : State) (b : Nat) (r : Nat) : (repairReg s b r).mem = s.mem := by
  unfold repairReg
  repeat' (first
    | with_reducible rfl | with_reducible assumption | with_reducible refine Eq.trans (setStrand_mem _ _ _) ?_
    | with_reducible refine Eq.trans (logRec_mem _ _ _ _ _ _ _) ?_ | dsimp only | split)

@[simp] theorem sendWord_mem (s : State) (timed : Bool) (p : PWord) (c : Ctx) : (sendWord s timed p c).mem = s.mem := by
  unfold sendWord
  repeat' (first
    | with_reducible rfl | with_reducible assumption | with_reducible refine Eq.trans (setStrand_mem _ _ _) ?_
    | with_reducible refine Eq.trans (setRow_mem _ _ _) ?_ | with_reducible refine Eq.trans (post_mem _ _ _ _ _ _ _ _) ?_
    | with_reducible refine Eq.trans (carryLeaving_mem _ _ _) ?_ | with_reducible refine Eq.trans (commitWord_mem _ _ _) ?_ | dsimp only | split)

@[simp] theorem stirPath_mem (s : State) (b : Nat) (ws : List (PWord × Ctx)) : (stirPath s b ws).mem = s.mem := by
  unfold stirPath
  repeat' (first
    | with_reducible rfl | with_reducible assumption | with_reducible refine Eq.trans (setRow_mem _ _ _) ?_
    | with_reducible refine Eq.trans (post_mem _ _ _ _ _ _ _ _) ?_ | dsimp only | split)

@[simp] theorem issuePacket_mem (s : State) (b : Nat) (c : Ctx) (ws : List (PWord × Ctx)) : (issuePacket s b c ws).mem = s.mem := by
  unfold issuePacket
  repeat' (first
    | with_reducible rfl | with_reducible assumption | with_reducible refine Eq.trans (setStrand_mem _ _ _) ?_
    | with_reducible refine Eq.trans (goTo_mem _ _ _ _) ?_ | with_reducible refine Eq.trans (repairReg_mem _ _ _) ?_
    | with_reducible refine Eq.trans (sendWord_mem _ _ _ _) ?_ | with_reducible refine Eq.trans (stirPath_mem _ _ _) ?_
    | (refine foldl_mem _ _ _ _ ?_ ?_) | intro _ _ | dsimp only | split)

theorem fetchAgain_inv (s : State) (b : Nat) (hinv : s.Inv) : (fetchAgain s b).Inv := by
  unfold fetchAgain
  repeat' (first
    | with_reducible assumption | with_reducible refine freezeGroup_inv _ _ _ _ ?_ | with_reducible refine inv_of (endStop_mem _ _ _ _) ?_
    | with_reducible refine inv_of (refetch_mem _ _ _) ?_ | split | (refine inv_iff.2 ?_; dsimp only; refine inv_iff.1 ?_) | dsimp only)

@[simp] theorem postArg_mem (s : State) (d : Nat) (n : Nat) (i : Instr) : (postArg s d n i).mem = s.mem := by
  unfold postArg
  repeat' (first
    | with_reducible rfl | with_reducible assumption | with_reducible refine Eq.trans (post_mem _ _ _ _ _ _ _ _) ?_ | dsimp only | split)

@[simp] theorem advanceKernels_mem (s : State) (z : Nat) : (advanceKernels s z).mem = s.mem := by
  unfold advanceKernels
  repeat' (first
    | with_reducible rfl | with_reducible assumption | dsimp only | split)

theorem resumeGroup_inv (s : State) (g : Nat) (z : Nat) (hinv : s.Inv) : (resumeGroup s g z).Inv := by
  unfold resumeGroup
  repeat' (first
    | with_reducible assumption | with_reducible refine inv_of (setGroup_mem _ _ _) ?_ | with_reducible refine writeBlock_inv _ _ ?_
    | with_reducible refine inv_of (mapStrands_mem _ _ _ _) ?_ | split | (refine inv_iff.2 ?_; dsimp only; refine inv_iff.1 ?_) | dsimp only)

theorem resumeZone_inv (s : State) (z : Nat) (hinv : s.Inv) : (resumeZone s z).Inv := by
  unfold resumeZone
  repeat' (first
    | with_reducible assumption | with_reducible refine resumeGroup_inv _ _ _ ?_ | with_reducible refine foldl_inv _ _ _ ?_ ?_ | intro _ _ _
    | split | (refine inv_iff.2 ?_; dsimp only; refine inv_iff.1 ?_) | dsimp only)

@[simp] theorem openSlots_mem (s : State) (z : Nat) : (openSlots s z).mem = s.mem := by
  unfold openSlots
  repeat' (first
    | with_reducible rfl | with_reducible assumption | with_reducible refine Eq.trans (postArg_mem _ _ _ _) ?_
    | (refine foldl_mem _ _ _ _ ?_ ?_) | intro _ _ | dsimp only | split)

theorem tickZone_inv (s : State) (z : Nat) (hinv : s.Inv) : (tickZone s z).Inv := by
  unfold tickZone
  repeat' (first
    | with_reducible assumption | with_reducible refine inv_of (setStack_mem _ _ _) ?_ | with_reducible refine inv_of (postArg_mem _ _ _ _) ?_
    | with_reducible refine inv_of (advanceKernels_mem _ _) ?_ | with_reducible refine resumeZone_inv _ _ ?_
    | with_reducible refine inv_of (openSlots_mem _ _) ?_ | split | (refine inv_iff.2 ?_; dsimp only; refine inv_iff.1 ?_) | dsimp only)

@[simp] theorem forwardPulse_mem (s : State) (l : Nat) : (forwardPulse s l).mem = s.mem := by
  unfold forwardPulse
  repeat' (first
    | with_reducible rfl | with_reducible assumption | with_reducible refine Eq.trans (sendFlit_mem _ _ _ _ _ _ _) ?_ | dsimp only | split)

@[simp] theorem drainLinks_mem (s : State) : (drainLinks s).mem = s.mem := by
  unfold drainLinks
  repeat' (first
    | with_reducible rfl | with_reducible assumption | with_reducible refine Eq.trans (pumpLink_mem _ _) ?_
    | with_reducible refine Eq.trans (forwardPulse_mem _ _) ?_ | (refine foldl_mem _ _ _ _ ?_ ?_) | intro _ _ | dsimp only | split)

theorem tick_inv (s : State) (hinv : s.Inv) : (tick s).Inv := by
  unfold tick
  repeat' (first
    | with_reducible assumption | with_reducible refine tickZone_inv _ _ ?_ | with_reducible refine inv_of (drainLinks_mem _) ?_
    | with_reducible refine foldl_inv _ _ _ ?_ ?_ | intro _ _ _ | split | (refine inv_iff.2 ?_; dsimp only; refine inv_iff.1 ?_) | dsimp only)

theorem startFrame_inv (s : State) (z : Nat) (hinv : s.Inv) : (startFrame s z).Inv := by
  unfold startFrame
  repeat' (first
    | with_reducible assumption | with_reducible refine inv_of (setStack_mem _ _ _) ?_ | with_reducible refine resumeZone_inv _ _ ?_
    | with_reducible refine inv_of (openSlots_mem _ _) ?_ | split | (refine inv_iff.2 ?_; dsimp only; refine inv_iff.1 ?_) | dsimp only)

@[simp] theorem clearReplays_mem (s : State) : (clearReplays s).mem = s.mem := by
  unfold clearReplays
  repeat' (first
    | with_reducible rfl | with_reducible assumption | dsimp only | split)

theorem pulse_inv (s : State) (hinv : s.Inv) : (pulse s).Inv := by
  unfold pulse
  repeat' (first
    | with_reducible assumption | with_reducible refine inv_of (postHub_mem _ _ _) ?_ | with_reducible refine inv_of (dropEntries_mem _ _) ?_
    | with_reducible refine startFrame_inv _ _ ?_ | with_reducible refine inv_of (clearReplays_mem _) ?_
    | with_reducible refine foldl_inv _ _ _ ?_ ?_ | intro _ _ _ | split | (refine inv_iff.2 ?_; dsimp only; refine inv_iff.1 ?_) | dsimp only)

theorem rewriteLine_inv (s : State) (a : Nat) (hinv : s.Inv) : (rewriteLine s a).Inv := by
  unfold rewriteLine
  repeat' (first
    | with_reducible assumption | with_reducible refine writeBytes_inv _ _ _ ?_ | split | (refine inv_iff.2 ?_; dsimp only; refine inv_iff.1 ?_)
    | dsimp only)

theorem scrubLine_inv (s : State) (a : Nat) (hinv : s.Inv) : (scrubLine s a).Inv := by
  unfold scrubLine
  repeat' (first
    | with_reducible assumption | with_reducible refine inv_of (logRec_mem _ _ _ _ _ _ _) ?_
    | with_reducible refine inv_of (poisonPage_mem _ _) ?_ | with_reducible refine inv_of (countDram_mem _ _ _) ?_
    | with_reducible refine rewriteLine_inv _ _ ?_ | split | (refine inv_iff.2 ?_; dsimp only; refine inv_iff.1 ?_) | dsimp only)

@[simp] theorem packetAgain_mem (s : State) (b : Nat) : (packetAgain s b).mem = s.mem := by
  unfold packetAgain
  repeat' (first
    | with_reducible rfl | with_reducible assumption | with_reducible refine Eq.trans (setStrand_mem _ _ _) ?_
    | with_reducible refine Eq.trans (refetch_mem _ _ _) ?_ | dsimp only | split)

@[simp] theorem postTimer_mem (s : State) (b : Nat) : (postTimer s b).mem = s.mem := by
  unfold postTimer
  repeat' (first
    | with_reducible rfl | with_reducible assumption | with_reducible refine Eq.trans (post_mem _ _ _ _ _ _ _ _) ?_ | dsimp only | split)

@[simp] theorem drainedReady_mem (s : State) (b : Nat) : (drainedReady s b).mem = s.mem := by
  unfold drainedReady
  repeat' (first
    | with_reducible rfl | with_reducible assumption | with_reducible refine Eq.trans (setStrand_mem _ _ _) ?_
    | with_reducible refine Eq.trans (postHub_mem _ _ _) ?_ | dsimp only | split)

theorem heldReady_inv (s : State) (b : Nat) (hinv : s.Inv) : (heldReady s b).Inv := by
  unfold heldReady
  repeat' (first
    | with_reducible assumption | with_reducible refine inv_of (endStop_mem _ _ _ _) ?_ | with_reducible refine takeInterrupt_inv _ _ _ ?_
    | split | (refine inv_iff.2 ?_; dsimp only; refine inv_iff.1 ?_) | dsimp only)

theorem releaseGroup_inv (s : State) (g : Nat) (lo : Nat) (r0 : Nat) (hinv : s.Inv) : (releaseGroup s g lo r0).Inv := by
  unfold releaseGroup
  repeat' (first
    | with_reducible assumption | with_reducible refine inv_of (setGroup_mem _ _ _) ?_ | with_reducible refine setGroupState_inv _ _ _ ?_
    | with_reducible refine settle_inv _ _ ?_ | with_reducible refine foldl_inv _ _ _ ?_ ?_ | intro _ _ _ | split
    | (refine inv_iff.2 ?_; dsimp only; refine inv_iff.1 ?_) | dsimp only)

@[simp] theorem startSlack_mem (s : State) (g : Nat) (z : Nat) (l : List (Nat × Nat × Nat × Ctx)) : (startSlack s g z l).mem = s.mem := by
  unfold startSlack
  repeat' (first
    | with_reducible rfl | with_reducible assumption | with_reducible refine Eq.trans (post_mem _ _ _ _ _ _ _ _) ?_
    | (refine foldl_mem _ _ _ _ ?_ ?_) | intro _ _ | dsimp only | split)

@[simp] theorem realignFault_mem (s : State) (g : Nat) (b : Nat) : (realignFault s g b).mem = s.mem := by
  unfold realignFault
  repeat' (first
    | with_reducible rfl | with_reducible assumption | with_reducible refine Eq.trans (setStrand_mem _ _ _) ?_
    | with_reducible refine Eq.trans (post_mem _ _ _ _ _ _ _ _) ?_ | dsimp only | split)

@[simp] theorem disarm_mem (s : State) (g : Nat) : (disarm s g).mem = s.mem := by
  unfold disarm
  repeat' (first
    | with_reducible rfl | with_reducible assumption | dsimp only | split)

@[simp] theorem restartStrand_mem (s : State) (b : Nat) : (restartStrand s b).mem = s.mem := by
  unfold restartStrand
  repeat' (first
    | with_reducible rfl | with_reducible assumption | with_reducible refine Eq.trans (setStrand_mem _ _ _) ?_
    | with_reducible refine Eq.trans (post_mem _ _ _ _ _ _ _ _) ?_ | with_reducible refine Eq.trans (dropLog_mem _ _) ?_ | dsimp only | split)

@[simp] theorem repostDeadline_mem (s : State) (g : Nat) (b : Nat) : (repostDeadline s g b).mem = s.mem := by
  unfold repostDeadline
  repeat' (first
    | with_reducible rfl | with_reducible assumption | with_reducible refine Eq.trans (post_mem _ _ _ _ _ _ _ _) ?_ | dsimp only | split)

theorem restartGroup_inv (s : State) (g : Nat) (hinv : s.Inv) : (restartGroup s g).Inv := by
  unfold restartGroup
  repeat' (first
    | with_reducible assumption | with_reducible refine setGroupState_inv _ _ _ ?_ | with_reducible refine inv_of (restartAt_mem _ _ _) ?_
    | with_reducible refine inv_of (postTimer_mem _ _) ?_ | with_reducible refine inv_of (restartStrand_mem _ _) ?_
    | with_reducible refine inv_of (repostDeadline_mem _ _ _) ?_ | with_reducible refine foldl_inv _ _ _ ?_ ?_ | intro _ _ _ | split
    | (refine inv_iff.2 ?_; dsimp only; refine inv_iff.1 ?_) | dsimp only)

theorem resubmit_mem (s : State) (b : Nat) (bytes : List Byte) (t : State) (h : resubmit s b bytes = some t) : t.mem = s.mem := by
  unfold resubmit at h
  dsimp only at h
  split at h
  · cases h
  · injection h with h
    subst h
    repeat' (first
      | with_reducible rfl | with_reducible assumption | with_reducible refine Eq.trans (hubHandoff_mem _ _ _ _ _ _) ?_
      | with_reducible refine Eq.trans (enterJob_mem _ _ _) ?_ | (refine foldl_mem _ _ _ _ ?_ ?_; intro _ _) | dsimp only | split)
theorem resubmits_mem (l : List (Nat × List Byte)) (s : State) : (resubmits l s).1.mem = s.mem := by
  induction l generalizing s with
  | nil => rfl
  | cons e t ih =>
    unfold resubmits
    split
    · rfl
    · rename_i h; exact (ih _).trans (resubmit_mem _ _ _ _ h)
theorem resubmitCards_mem (s : State) (g : Nat) : (resubmitCards s g).mem = s.mem := by
  unfold resubmitCards
  split
  · rfl
  · exact (setGroup_mem _ _ _).trans (resubmits_mem _ _)

@[simp] theorem reloadSlots_mem (s : State) (g : Nat) : (reloadSlots s g).mem = s.mem := by
  unfold reloadSlots
  repeat' (first
    | with_reducible rfl | with_reducible assumption | with_reducible refine Eq.trans (setStack_mem _ _ _) ?_ | (refine foldl_mem _ _ _ _ ?_ ?_)
    | intro _ _ | dsimp only | split)

@[simp] theorem failStrand_mem (s : State) (b : Nat) : (failStrand s b).mem = s.mem := by
  unfold failStrand
  repeat' (first
    | with_reducible rfl | with_reducible assumption | with_reducible refine Eq.trans (setStrand_mem _ _ _) ?_ | dsimp only | split)

theorem writeRes_inv (s : State) (a : Nat) (res : Nat) (hinv : s.Inv) : (writeRes s a res).Inv := by
  unfold writeRes
  repeat' (first
    | with_reducible assumption | with_reducible refine putMem_inv _ _ _ _ ?_ | split | (refine inv_iff.2 ?_; dsimp only; refine inv_iff.1 ?_)
    | dsimp only)

theorem parsed_inv (s : State) (q : Nat) (p : List Pending) (hinv : s.Inv) : (parsed s q p).Inv := by
  unfold parsed
  repeat' (first
    | with_reducible assumption | with_reducible refine inv_of (afterRead_mem _ _ _) ?_ | with_reducible refine putQueue_inv _ _ _ ?_ | split
    | (refine inv_iff.2 ?_; dsimp only; refine inv_iff.1 ?_) | dsimp only)

@[simp] theorem setAside_mem (s : State) (g : Nat) : (setAside s g).mem = s.mem := by
  unfold setAside
  repeat' (first
    | with_reducible rfl | with_reducible assumption | (refine foldl_mem _ _ _ _ ?_ ?_) | intro _ _ | dsimp only | split)

theorem loadStack_inv (s : State) (k : Nat) (z : Nat) (hinv : s.Inv) : (loadStack s k z).Inv := by
  unfold loadStack
  repeat' (first
    | with_reducible assumption | with_reducible refine inv_of (setStack_mem _ _ _) ?_ | with_reducible refine inv_of (setKernel_mem _ _ _) ?_
    | with_reducible refine inv_of (markPages_mem _ _ _) ?_ | with_reducible refine fillOutside_inv _ _ _ ?_
    | with_reducible refine copyRange_inv _ _ _ _ ?_ | with_reducible refine foldl_inv _ _ _ ?_ ?_ | intro _ _ _ | split
    | (refine inv_iff.2 ?_; dsimp only; refine inv_iff.1 ?_) | dsimp only)

@[simp] theorem takeBank_mem (s : State) (g : Nat) (r : Nat) (gstack : Nat) (grow : Nat) : (takeBank s g r gstack grow).mem = s.mem := by
  unfold takeBank
  repeat' (first
    | with_reducible rfl | with_reducible assumption | with_reducible refine Eq.trans (setStrand_mem _ _ _) ?_
    | with_reducible refine Eq.trans (setRow_mem _ _ _) ?_ | with_reducible refine Eq.trans (switchTo_mem _ _) ?_ | dsimp only | split)

@[simp] theorem mintPlacement_mem (s : State) (g : Nat) : (mintPlacement s g).2.mem = s.mem := by
  unfold mintPlacement
  repeat' (first
    | with_reducible rfl | with_reducible assumption | with_reducible refine Eq.trans (setGroup_mem _ _ _) ?_
    | with_reducible refine Eq.trans (setToken_mem _ _ _) ?_ | with_reducible refine Eq.trans (freeValue_mem _) ?_
    | refine Eq.trans (freeValue_mem' _ _ _ (by assumption)) ?_ | with_reducible refine Eq.trans (freeEntry_mem _) ?_
    | refine Eq.trans (freeEntry_mem' _ _ _ (by assumption)) ?_ | dsimp only | split)
theorem mintPlacement_mem' (s : State) (g : Nat) (x' : _) (t' : State) (e' : mintPlacement s g = (x', t')) : t'.mem = s.mem := by
  have q := mintPlacement_mem s g; rwa [e'] at q

@[simp] theorem loadBank_mem (s : State) (g : Nat) (tok : Nat) (b : Nat) : (loadBank s g tok b).mem = s.mem := by
  unfold loadBank
  repeat' (first
    | with_reducible rfl | with_reducible assumption | with_reducible refine Eq.trans (setStrand_mem _ _ _) ?_ | dsimp only | split)

@[simp] theorem wakeRows_mem (s : State) (k : Kernel) (rows : List Nat) : (wakeRows s k rows).mem = s.mem := by
  unfold wakeRows
  repeat' (first
    | with_reducible rfl | with_reducible assumption | with_reducible refine Eq.trans (postArg_mem _ _ _ _) ?_
    | (refine foldl_mem _ _ _ _ ?_ ?_) | intro _ _ | dsimp only | split)

@[simp] theorem pairRows_mem (s : State) (rows : List Nat) : (pairRows s rows).mem = s.mem := by
  unfold pairRows
  repeat' (first
    | with_reducible rfl | with_reducible assumption | with_reducible refine Eq.trans (setRow_mem _ _ _) ?_ | (refine foldl_mem _ _ _ _ ?_ ?_)
    | intro _ _ | dsimp only | split)

theorem placeGroup_inv (s : State) (g : Nat) (k : Nat) (z0 : Nat) (row0 : Nat) (win : Nat) (hinv : s.Inv) : (placeGroup s g k z0 row0 win).Inv := by
  unfold placeGroup
  repeat' (first
    | with_reducible assumption | with_reducible refine inv_of (setGroup_mem _ _ _) ?_ | with_reducible refine inv_of (setKernel_mem _ _ _) ?_
    | with_reducible refine setGroupState_inv _ _ _ ?_ | with_reducible refine inv_of (takeBank_mem _ _ _ _ _) ?_
    | with_reducible refine inv_of (wakeRows_mem _ _ _) ?_ | with_reducible refine inv_of (pairRows_mem _ _) ?_
    | with_reducible refine foldl_inv _ _ _ ?_ ?_ | intro _ _ _ | split | (refine inv_iff.2 ?_; dsimp only; refine inv_iff.1 ?_) | dsimp only)

@[simp] theorem retryPass_mem (s : State) : (retryPass s).mem = s.mem := by
  unfold retryPass
  repeat' (first
    | with_reducible rfl | with_reducible assumption | with_reducible refine Eq.trans (postHub_mem _ _ _) ?_ | dsimp only | split)

theorem startGroup_inv (s : State) (g : Nat) (hinv : s.Inv) : (startGroup s g).Inv := by
  unfold startGroup
  repeat' (first
    | with_reducible assumption | with_reducible refine inv_of (setGroup_mem _ _ _) ?_ | with_reducible refine restartGroup_inv _ _ ?_ | split
    | (refine inv_iff.2 ?_; dsimp only; refine inv_iff.1 ?_) | dsimp only)

@[simp] theorem startKernel_mem (s : State) (k : Nat) : (startKernel s k).mem = s.mem := by
  unfold startKernel
  repeat' (first
    | with_reducible rfl | with_reducible assumption | with_reducible refine Eq.trans (setKernel_mem _ _ _) ?_
    | with_reducible refine Eq.trans (checkKernel_mem _ _) ?_ | dsimp only | split)

theorem releaseWave_inv (s : State) (w : Nat) (wave : List Nat) (hinv : s.Inv) : (releaseWave s w wave).Inv := by
  unfold releaseWave
  repeat' (first
    | with_reducible assumption | with_reducible refine startGroup_inv _ _ ?_ | with_reducible refine inv_of (startKernel_mem _ _) ?_
    | with_reducible refine foldl_inv _ _ _ ?_ ?_ | intro _ _ _ | split | (refine inv_iff.2 ?_; dsimp only; refine inv_iff.1 ?_) | dsimp only)

theorem flushCaches_inv (s : State) (k : Nat) (hinv : s.Inv) : (flushCaches s k).Inv := by
  unfold flushCaches
  repeat' (first
    | with_reducible assumption | with_reducible refine cleanLine_inv _ _ _ _ ?_ | with_reducible refine foldl_inv _ _ _ ?_ ?_ | intro _ _ _
    | split | (refine inv_iff.2 ?_; dsimp only; refine inv_iff.1 ?_) | dsimp only)

theorem bumpCounter_inv (s : State) (pa : Nat) (swap : Bool) (x : Dword) (hinv : s.Inv) : (bumpCounter s pa swap x).Inv := by
  unfold bumpCounter
  repeat' (first
    | with_reducible assumption | with_reducible refine putMem_inv _ _ _ _ ?_ | split | (refine inv_iff.2 ?_; dsimp only; refine inv_iff.1 ?_)
    | dsimp only)

@[simp] theorem postUpdate_mem (s : State) (k : Nat) (d : Nat) (i : Nat) : (postUpdate s k d i).mem = s.mem := by
  unfold postUpdate
  repeat' (first
    | with_reducible rfl | with_reducible assumption | with_reducible refine Eq.trans (post_mem _ _ _ _ _ _ _ _) ?_ | dsimp only | split)

@[simp] theorem changeCopies_mem (s : State) (k : Nat) (c : WChange) : (changeCopies s k c).mem = s.mem := by
  unfold changeCopies
  repeat' (first
    | with_reducible rfl | with_reducible assumption | dsimp only | split)

@[simp] theorem unmarkPage_mem (s : State) (c : Nat) (e : WEntry) : (unmarkPage s c e).mem = s.mem := by
  unfold unmarkPage
  repeat' (first
    | with_reducible rfl | with_reducible assumption | dsimp only | split)

theorem endShootdown_inv (s : State) (k : Nat) (hinv : s.Inv) : (endShootdown s k).Inv := by
  unfold endShootdown
  repeat' (first
    | with_reducible assumption | with_reducible refine inv_of (setKernel_mem _ _ _) ?_ | with_reducible refine inv_of (postHub_mem _ _ _) ?_
    | with_reducible refine inv_of (markPages_mem _ _ _) ?_ | with_reducible refine inv_of (endStop_mem _ _ _ _) ?_
    | with_reducible refine inv_of (checkKernel_mem _ _) ?_ | with_reducible refine moveWith_inv _ _ _ ?_
    | with_reducible refine inv_of (unmarkPage_mem _ _ _) ?_ | with_reducible refine foldl_inv _ _ _ ?_ ?_ | intro _ _ _ | split
    | (refine inv_iff.2 ?_; dsimp only; refine inv_iff.1 ?_) | dsimp only)

@[simp] theorem setPower_mem (s : State) (r : Nat) (p : Power) : (setPower s r p).mem = s.mem := by
  unfold setPower
  repeat' (first
    | with_reducible rfl | with_reducible assumption | with_reducible refine Eq.trans (setRow_mem _ _ _) ?_ | dsimp only | split)

@[simp] theorem postRow_mem (s : State) (r : Nat) (d : Nat) (i : Instr) : (postRow s r d i).mem = s.mem := by
  unfold postRow
  repeat' (first
    | with_reducible rfl | with_reducible assumption | with_reducible refine Eq.trans (post_mem _ _ _ _ _ _ _ _) ?_ | dsimp only | split)

@[simp] theorem dropVectors_mem (s : State) (r : Nat) : (dropVectors s r).mem = s.mem := by
  unfold dropVectors
  repeat' (first
    | with_reducible rfl | with_reducible assumption | with_reducible refine Eq.trans (setStrand_mem _ _ _) ?_
    | (refine foldl_mem _ _ _ _ ?_ ?_) | intro _ _ | dsimp only | split)

@[simp] theorem sendMsix_mem (s : State) (v : Nat) : (sendMsix s v).mem = s.mem := by
  unfold sendMsix
  repeat' (first
    | with_reducible rfl | with_reducible assumption | dsimp only | split)

@[simp] theorem counterValue_mem (s : State) (e : Nat × Nat × Nat) : (counterValue s e).2.mem = s.mem := by
  unfold counterValue
  repeat' (first
    | with_reducible rfl | with_reducible assumption | with_reducible refine Eq.trans (freeValue_mem _) ?_
    | refine Eq.trans (freeValue_mem' _ _ _ (by assumption)) ?_ | with_reducible refine Eq.trans (afterRead_mem _ _ _) ?_ | dsimp only | split)
theorem counterValue_mem' (s : State) (e : Nat × Nat × Nat) (x' : _) (t' : State) (e' : counterValue s e = (x', t')) : t'.mem = s.mem := by
  have q := counterValue_mem s e; rwa [e'] at q

theorem readFence_mem (s : State) (l : List (Nat × Nat × Nat)) : (readFence s l).2.mem = s.mem := by
  induction l generalizing s with
  | nil => rfl
  | cons e t ih => exact (ih _).trans (counterValue_mem s e)
theorem readFence_mem' (s : State) (l : List (Nat × Nat × Nat)) (x : _) (t : State) (e : readFence s l = (x, t)) : t.mem = s.mem := by
  have q := readFence_mem s l; rwa [e] at q

theorem pollFence_inv (s : State) (q : Nat) (no : Nat) (hinv : s.Inv) : (pollFence s q no).Inv := by
  unfold pollFence
  repeat' (first
    | with_reducible assumption | with_reducible refine inv_of (post_mem _ _ _ _ _ _ _ _) ?_ | with_reducible refine putQueue_inv _ _ _ ?_
    | with_reducible refine inv_of (readFence_mem _ _) ?_ | refine inv_of (readFence_mem' _ _ _ _ (by assumption)) ?_ | split
    | (refine inv_iff.2 ?_; dsimp only; refine inv_iff.1 ?_) | dsimp only)

theorem refuseToken_inv (s : State) (q : Nat) (cause : Nat) (hinv : s.Inv) : (refuseToken s q cause).Inv := by
  unfold refuseToken
  repeat' (first
    | with_reducible assumption | with_reducible refine stopQueue_inv _ _ _ _ _ _ ?_ | split
    | (refine inv_iff.2 ?_; dsimp only; refine inv_iff.1 ?_) | dsimp only)

theorem hostHand_inv (s : State) (kind : HandKind) (hinv : s.Inv) : (hostHand s kind).Inv := by
  unfold hostHand
  repeat' (first
    | with_reducible assumption | with_reducible refine inv_of (hubHandoff_mem _ _ _ _ _ _) ?_ | with_reducible refine mapHeld_inv _ _ _ ?_
    | with_reducible refine parsed_inv _ _ _ ?_ | with_reducible refine refuseToken_inv _ _ _ ?_ | split
    | (refine inv_iff.2 ?_; dsimp only; refine inv_iff.1 ?_) | dsimp only)

theorem disableQueue_inv (s : State) (q : Nat) (hinv : s.Inv) : (disableQueue s q).Inv := by
  unfold disableQueue
  repeat' (first
    | with_reducible assumption | with_reducible refine inv_of (dropEntries_mem _ _) ?_ | with_reducible refine putQueue_inv _ _ _ ?_ | split
    | (refine inv_iff.2 ?_; dsimp only; refine inv_iff.1 ?_) | dsimp only)

@[simp] theorem freeDomain_mem (s : State) (c : Nat) : (freeDomain s c).mem = s.mem := by
  unfold freeDomain
  repeat' (first
    | with_reducible rfl | with_reducible assumption | dsimp only | split)

@[simp] theorem killRect_mem (s : State) (q : QWord) (t : Nat) : (killRect s q t).mem = s.mem := by
  unfold killRect
  repeat' (first
    | with_reducible rfl | with_reducible assumption | with_reducible refine Eq.trans (setRow_mem _ _ _) ?_ | (refine foldl_mem _ _ _ _ ?_ ?_)
    | intro _ _ | dsimp only | split)

@[simp] theorem waitQueue_mem (s : State) (row : Nat) (c : Ctx) (i : Instr) : (waitQueue s row c i).mem = s.mem := by
  unfold waitQueue
  repeat' (first
    | with_reducible rfl | with_reducible assumption | with_reducible refine Eq.trans (setRow_mem _ _ _) ?_
    | with_reducible refine Eq.trans (post_mem _ _ _ _ _ _ _ _) ?_ | dsimp only | split)

@[simp] theorem toEngine_mem (s : State) (row : Nat) (c : Ctx) (dead : Bool) : (toEngine s row c dead).mem = s.mem := by
  unfold toEngine
  repeat' (first
    | with_reducible rfl | with_reducible assumption | with_reducible refine Eq.trans (post_mem _ _ _ _ _ _ _ _) ?_ | dsimp only | split)

@[simp] theorem followLost_mem (s : State) (c : Ctx) : (followLost s c).mem = s.mem := by
  unfold followLost
  repeat' (first
    | with_reducible rfl | with_reducible assumption | with_reducible refine Eq.trans (logRec_mem _ _ _ _ _ _ _) ?_ | dsimp only | split)

theorem enterFollowOn_inv (s : State) (c : Ctx) (hinv : s.Inv) : (enterFollowOn s c).Inv := by
  unfold enterFollowOn
  repeat' (first
    | with_reducible assumption | with_reducible refine inv_of (setRow_mem _ _ _) ?_
    | with_reducible refine inv_of (post_mem _ _ _ _ _ _ _ _) ?_ | with_reducible refine takeException_inv _ _ _ _ _ _ _ ?_
    | with_reducible refine inv_of (logJobFault_mem _ _ _) ?_ | with_reducible refine inv_of (commitWord_mem _ _ _) ?_
    | with_reducible refine inv_of (followLost_mem _ _) ?_ | split | (refine inv_iff.2 ?_; dsimp only; refine inv_iff.1 ?_) | dsimp only)

theorem landPartial_inv (s : State) (p : Partial) (hinv : s.Inv) : (landPartial s p).Inv := by
  unfold landPartial
  repeat' (first
    | with_reducible assumption | with_reducible refine inv_of (setRow_mem _ _ _) ?_
    | with_reducible refine inv_of (post_mem _ _ _ _ _ _ _ _) ?_ | with_reducible refine strandFault_inv _ _ _ ?_ | split
    | (refine inv_iff.2 ?_; dsimp only; refine inv_iff.1 ?_) | dsimp only)

theorem partialIn_inv (s : State) (f : Flit) (hinv : s.Inv) : (partialIn s f).Inv := by
  unfold partialIn
  repeat' (first
    | with_reducible assumption | with_reducible refine landPartial_inv _ _ ?_ | split | (refine inv_iff.2 ?_; dsimp only; refine inv_iff.1 ?_)
    | dsimp only)

@[simp] theorem outsideVals_mem (s : State) (bits : Nat) (n : Nat) : (outsideVals s bits n).2.mem = s.mem := by
  unfold outsideVals
  repeat' (first
    | with_reducible rfl | with_reducible assumption | dsimp only | split)
theorem outsideVals_mem' (s : State) (bits : Nat) (n : Nat) (x' : _) (t' : State) (e' : outsideVals s bits n = (x', t')) : t'.mem = s.mem := by
  have q := outsideVals_mem s bits n; rwa [e'] at q

theorem contributions_mem (s : State) (bits : Nat) (own : List Nat) (ps : List Nat) : (contributions s bits own ps).2.mem = s.mem := by
  induction ps generalizing s with
  | nil => rfl
  | cons p t ih =>
    rw [contributions]; dsimp only; rw [ih]
    split
    · rfl
    · exact outsideVals_mem _ _ _
theorem contributions_mem' (s : State) (bits : Nat) (own : List Nat) (ps : List Nat) (x : _) (t : State) (e : contributions s bits own ps = (x, t)) : t.mem = s.mem := by
  have q := contributions_mem s bits own ps; rwa [e] at q

@[simp] theorem reduceAll_mem (s : State) (op : Nat) (n : Nat) (l : List (List Nat)) : (reduceAll s op n l).2.mem = s.mem := by
  unfold reduceAll
  repeat' (first
    | with_reducible rfl | with_reducible assumption | with_reducible refine Eq.trans (outsideVals_mem _ _ _) ?_
    | refine Eq.trans (outsideVals_mem' _ _ _ _ _ (by assumption)) ?_ | (refine foldl_mem _ _ _ _ ?_ ?_) | intro _ _ | dsimp only | split)
theorem reduceAll_mem' (s : State) (op : Nat) (n : Nat) (l : List (List Nat)) (x' : _) (t' : State) (e' : reduceAll s op n l = (x', t')) : t'.mem = s.mem := by
  have q := reduceAll_mem s op n l; rwa [e'] at q

@[simp] theorem jobElems_mem (s : State) (k : BitVec 1024) (src : ShapeImg) (dst : ShapeImg) (buf : Sparse (BitVec 512)) : (jobElems s k src dst buf).2.mem = s.mem := by
  unfold jobElems
  repeat' (first
    | with_reducible rfl | with_reducible assumption | with_reducible refine Eq.trans (contributions_mem _ _ _ _) ?_
    | refine Eq.trans (contributions_mem' _ _ _ _ _ _ (by assumption)) ?_ | with_reducible refine Eq.trans (reduceAll_mem _ _ _ _) ?_
    | refine Eq.trans (reduceAll_mem' _ _ _ _ _ _ (by assumption)) ?_ | dsimp only | split)
theorem jobElems_mem' (s : State) (k : BitVec 1024) (src : ShapeImg) (dst : ShapeImg) (buf : Sparse (BitVec 512)) (x' : _) (t' : State) (e' : jobElems s k src dst buf = (x', t')) : t'.mem = s.mem := by
  have q := jobElems_mem s k src dst buf; rwa [e'] at q

@[simp] theorem markJob_mem (s : State) (key : Nat) (j : Job) (pa : Nat) : (markJob s key j pa).mem = s.mem := by
  unfold markJob
  repeat' (first
    | with_reducible rfl | with_reducible assumption | dsimp only | split)

theorem jobWrite_inv (s : State) (key : Nat) (j : Job) (w : Nat × Nat × Nat) (hinv : s.Inv) : (jobWrite s key j w).Inv := by
  unfold jobWrite
  repeat' (first
    | with_reducible assumption | with_reducible refine putBits_inv _ _ _ _ ?_ | with_reducible refine inv_of (markJob_mem _ _ _ _) ?_ | split
    | (refine inv_iff.2 ?_; dsimp only; refine inv_iff.1 ?_) | dsimp only)

@[simp] theorem jobDelay_mem (s : State) (key : Nat) (j : Job) (reads : List Nat) (writes : List Nat) : (jobDelay s key j reads writes).2.mem = s.mem := by
  unfold jobDelay
  repeat' (first
    | with_reducible rfl | with_reducible assumption | with_reducible refine Eq.trans (carry_mem _ _ _ _) ?_
    | refine Eq.trans (carry_mem' _ _ _ _ _ _ (by assumption)) ?_ | dsimp only | split)
theorem jobDelay_mem' (s : State) (key : Nat) (j : Job) (reads : List Nat) (writes : List Nat) (x' : _) (t' : State) (e' : jobDelay s key j reads writes = (x', t')) : t'.mem = s.mem := by
  have q := jobDelay_mem s key j reads writes; rwa [e'] at q

@[simp] theorem jobRead_mem (s : State) (j : Job) (buf : Sparse (BitVec 512)) (line : Nat) : (jobRead s j buf line).2.mem = s.mem := by
  unfold jobRead
  repeat' (first
    | with_reducible rfl | with_reducible assumption | with_reducible refine Eq.trans (readSegs_mem _ _) ?_
    | refine Eq.trans (readSegs_mem' _ _ _ _ (by assumption)) ?_ | dsimp only | split)
theorem jobRead_mem' (s : State) (j : Job) (buf : Sparse (BitVec 512)) (line : Nat) (x' : _) (t' : State) (e' : jobRead s j buf line = (x', t')) : t'.mem = s.mem := by
  have q := jobRead_mem s j buf line; rwa [e'] at q

theorem jobReads_mem (s : State) (j : Job) (buf : Sparse (BitVec 512)) (ls : List Nat) : (jobReads s j buf ls).2.mem = s.mem := by
  induction ls generalizing s buf with
  | nil => rfl
  | cons l t ih => exact (ih _ _).trans (jobRead_mem _ _ _ _)
theorem jobReads_mem' (s : State) (j : Job) (buf : Sparse (BitVec 512)) (ls : List Nat) (x : _) (t : State) (e : jobReads s j buf ls = (x, t)) : t.mem = s.mem := by
  have q := jobReads_mem s j buf ls; rwa [e] at q

@[simp] theorem poisonLine_mem (s : State) (j : Job) (cause : Nat) (addr : Nat) : (poisonLine s j cause addr).mem = s.mem := by
  unfold poisonLine
  repeat' (first
    | with_reducible rfl | with_reducible assumption | with_reducible refine Eq.trans (poisonSegs_mem _ _) ?_ | dsimp only | split)

@[simp] theorem repairPages_mem (s : State) (a : Nat) (n : Nat) : (repairPages s a n).mem = s.mem := by
  unfold repairPages
  repeat' (first
    | with_reducible rfl | with_reducible assumption | dsimp only | split)

@[simp] theorem freeEdges_mem (s : State) (serial : Nat) : (freeEdges s serial).mem = s.mem := by
  unfold freeEdges
  repeat' (first
    | with_reducible rfl | with_reducible assumption | with_reducible refine Eq.trans (postJob_mem _ _ _) ?_ | (refine foldl_mem _ _ _ _ ?_ ?_)
    | intro _ _ | dsimp only | split)

@[simp] theorem dropJob_mem (s : State) (key : Nat) (serial : Nat) : (dropJob s key serial).mem = s.mem := by
  unfold dropJob
  repeat' (first
    | with_reducible rfl | with_reducible assumption | with_reducible refine Eq.trans (freeEdges_mem _ _) ?_ | dsimp only | split)

theorem dropShares_inv (s : State) (j : Job) (hinv : s.Inv) : (dropShares s j).Inv := by
  unfold dropShares
  repeat' (first
    | with_reducible assumption | with_reducible refine mapHeld_inv _ _ _ ?_ | with_reducible refine foldl_inv _ _ _ ?_ ?_ | intro _ _ _ | split
    | (refine inv_iff.2 ?_; dsimp only; refine inv_iff.1 ?_) | dsimp only)

theorem faultJob_inv (s : State) (key : Nat) (j : Job) (cause : Nat) (sel : Nat) (addr : Nat) (hinv : s.Inv) : (faultJob s key j cause sel addr).Inv := by
  unfold faultJob
  repeat' (first
    | with_reducible assumption | with_reducible refine inv_of (logRec_mem _ _ _ _ _ _ _) ?_
    | with_reducible refine inv_of (failAgent_mem _ _ _) ?_ | with_reducible refine takeException_inv _ _ _ _ _ _ _ ?_
    | with_reducible refine inv_of (logJobFault_mem _ _ _) ?_ | with_reducible refine inv_of (dropJob_mem _ _ _) ?_
    | with_reducible refine dropShares_inv _ _ ?_ | split | (refine inv_iff.2 ?_; dsimp only; refine inv_iff.1 ?_) | dsimp only)

/-- The state that a job's run leaves keeps the invariant. -/
def JobRun.Inv (r : JobRun) : Prop :=
  match r with
  | .runs t _ => t.Inv
  | .parks t _ => t.Inv
  | .faults t _ _ _ => t.Inv
theorem JobRun.runs_inv {t : State} {d : Nat} (h : t.Inv) : JobRun.Inv (.runs t d) := h
theorem JobRun.parks_inv {t : State} {l : List (Nat × Nat × Nat)} (h : t.Inv) : JobRun.Inv (.parks t l) := h
theorem JobRun.faults_inv {t : State} {c x a : Nat} (h : t.Inv) : JobRun.Inv (.faults t c x a) := h
theorem jobWrites_inv (s : State) (key : Nat) (j : Job) (d : Nat) (ws : List (Nat × Nat × Nat)) (hinv : s.Inv) : (jobWrites s key j d ws).Inv := by
  induction ws generalizing s with
  | nil => exact hinv
  | cons w t ih =>
    unfold jobWrites
    split
    · exact JobRun.faults_inv (inv_of (poisonLine_mem _ _ _ _) hinv)
    · split
      · exact ih _ (jobWrite_inv _ _ _ _ hinv)
      · exact JobRun.parks_inv hinv
    · exact ih _ (jobWrite_inv _ _ _ _ hinv)
theorem runMove_inv (s : State) (j : Job) (hinv : s.Inv) : (runMove s j).Inv := by
  unfold runMove
  repeat' (first
    | with_reducible assumption
    | with_reducible refine inv_of (repairPages_mem _ _ _) ?_
    | with_reducible refine inv_of (poisonRange_mem _ _ _) ?_
    | with_reducible refine inv_of (readRange_mem _ _ _) ?_
    | with_reducible refine inv_of (carryMove_mem _ _ _ _) ?_
    | with_reducible refine copyRange_inv _ _ _ _ ?_
    | with_reducible refine fillOutside_inv _ _ _ ?_
    | with_reducible refine JobRun.runs_inv ?_
    | with_reducible refine JobRun.parks_inv ?_
    | with_reducible refine JobRun.faults_inv ?_
    | split
    | dsimp only)
theorem runCard_inv (s : State) (key : Nat) (j : Job) (hinv : s.Inv) : (runCard s key j).Inv := by
  unfold runCard
  repeat' (first
    | with_reducible assumption
    | with_reducible refine inv_of (poisonLine_mem _ _ _ _) ?_
    | with_reducible refine inv_of (jobElems_mem _ _ _ _ _) ?_
    | with_reducible refine inv_of (jobReads_mem _ _ _ _) ?_
    | with_reducible refine inv_of (jobDelay_mem _ _ _ _ _) ?_
    | with_reducible refine jobWrites_inv _ _ _ _ _ ?_
    | with_reducible refine JobRun.faults_inv ?_
    | split
    | dsimp only)
theorem runJob_inv (s : State) (key : Nat) (j : Job) (hinv : s.Inv) : (runJob s key j).Inv := by
  unfold runJob
  split
  · exact jobWrites_inv _ _ _ _ _ hinv
  · split
    · exact runMove_inv s j hinv
    · exact runCard_inv s key j hinv
theorem launchJob_inv (s : State) (key : Nat) (j : Job) (hinv : s.Inv) : (launchJob s key j).Inv := by
  have q := runJob_inv s key j hinv
  unfold launchJob
  generalize runJob s key j = r at q ⊢
  cases r with
  | runs t d =>
    dsimp only [JobRun.Inv] at q ⊢
    have q2 : (freeValue t).2.Inv := inv_of (freeValue_mem t) q
    split
    · exact inv_of (postHub_mem _ _ _) q2
    · exact q2
  | parks t l =>
    dsimp only [JobRun.Inv] at q ⊢
    split
    · exact inv_of (postJob_mem _ _ _) q
    · exact q
  | faults t c x a => exact faultJob_inv _ _ _ _ _ _ q

theorem beginJob_inv (s : State) (key : Nat) (j : Job) (hinv : s.Inv) : (beginJob s key j).Inv := by
  unfold beginJob
  repeat' (first
    | with_reducible assumption | with_reducible refine inv_of (postJob_mem _ _ _) ?_ | with_reducible refine launchJob_inv _ _ _ ?_ | split
    | (refine inv_iff.2 ?_; dsimp only; refine inv_iff.1 ?_) | dsimp only)

theorem disposeTok_inv (s : State) (key : Nat) (j : Job) (i : Nat) (hinv : s.Inv) : (disposeTok s key j i).Inv := by
  unfold disposeTok
  repeat' (first
    | with_reducible assumption | with_reducible refine inv_of (setToken_mem _ _ _) ?_ | with_reducible refine inv_of (postArrival_mem _ _) ?_
    | with_reducible refine mapHeld_inv _ _ _ ?_ | with_reducible refine releaseHandoff_inv _ _ ?_ | split
    | (refine inv_iff.2 ?_; dsimp only; refine inv_iff.1 ?_) | dsimp only)

@[simp] theorem creditJob_mem (s : State) (key : Nat) (j : Job) : (creditJob s key j).mem = s.mem := by
  unfold creditJob
  repeat' (first
    | with_reducible rfl | with_reducible assumption | with_reducible refine Eq.trans (post_mem _ _ _ _ _ _ _ _) ?_
    | with_reducible refine Eq.trans (arrivalAt_mem _ _ _ _ _ _) ?_ | refine Eq.trans (arrivalAt_mem' _ _ _ _ _ _ _ _ (by assumption)) ?_
    | dsimp only | split)

@[simp] theorem hubReplay_mem (s : State) (z : Nat) : (hubReplay s z).mem = s.mem := by
  unfold hubReplay
  repeat' (first
    | with_reducible rfl | with_reducible assumption | dsimp only | split)

@[simp] theorem moveArrivals_mem (s : State) (f : Nat × Nat → Bool) (g : Nat → Nat) : (moveArrivals s f g).mem = s.mem := by
  unfold moveArrivals
  repeat' (first
    | with_reducible rfl | with_reducible assumption | dsimp only | split)

@[simp] theorem startRetrain_mem (s : State) (l : Nat) : (startRetrain s l).mem = s.mem := by
  unfold startRetrain
  repeat' (first
    | with_reducible rfl | with_reducible assumption | with_reducible refine Eq.trans (setLink_mem _ _ _) ?_
    | with_reducible refine Eq.trans (postArg_mem _ _ _ _) ?_ | with_reducible refine Eq.trans (moveArrivals_mem _ _ _) ?_ | dsimp only | split)

@[simp] theorem replay_mem (s : State) (l : Nat) (slot : Nat) : (replay s l slot).mem = s.mem := by
  unfold replay
  repeat' (first
    | with_reducible rfl | with_reducible assumption | with_reducible refine Eq.trans (setLink_mem _ _ _) ?_
    | with_reducible refine Eq.trans (postArg_mem _ _ _ _) ?_ | with_reducible refine Eq.trans (moveArrivals_mem _ _ _) ?_
    | with_reducible refine Eq.trans (startRetrain_mem _ _) ?_ | dsimp only | split)

@[simp] theorem newsIn_mem (s : State) (n : Nat) (h : Handoff) : (newsIn s n h).mem = s.mem := by
  unfold newsIn
  repeat' (first
    | with_reducible rfl | with_reducible assumption | with_reducible refine Eq.trans (setToken_mem _ _ _) ?_
    | with_reducible refine Eq.trans (orphan_mem _ _) ?_ | with_reducible refine Eq.trans (cancelShare_mem _ _) ?_
    | with_reducible refine Eq.trans (releaseShare_mem _ _) ?_ | dsimp only | split)

@[simp] theorem tokenIn_mem (s0 : State) (l : Nat) (f : Flit) : (tokenIn s0 l f).mem = s0.mem := by
  unfold tokenIn
  repeat' (first
    | with_reducible rfl | with_reducible assumption | with_reducible refine Eq.trans (setToken_mem _ _ _) ?_
    | with_reducible refine Eq.trans (sendFlit_mem _ _ _ _ _ _ _) ?_ | with_reducible refine Eq.trans (postArrival_mem _ _) ?_
    | with_reducible refine Eq.trans (newsIn_mem _ _ _) ?_ | dsimp only | split)

theorem refusedIn_inv (s : State) (p : Nat) (hinv : s.Inv) : (refusedIn s p).Inv := by
  unfold refusedIn
  repeat' (first
    | with_reducible assumption | with_reducible refine hubFault_inv _ _ _ ?_ | split | (refine inv_iff.2 ?_; dsimp only; refine inv_iff.1 ?_)
    | dsimp only)

theorem creditIn_inv (s : State) (l : Nat) (f : Flit) (hinv : s.Inv) : (creditIn s l f).Inv := by
  unfold creditIn
  repeat' (first
    | with_reducible assumption | with_reducible refine inv_of (post_mem _ _ _ _ _ _ _ _) ?_
    | with_reducible refine inv_of (sendFlit_mem _ _ _ _ _ _ _) ?_ | with_reducible refine refusedIn_inv _ _ ?_ | split
    | (refine inv_iff.2 ?_; dsimp only; refine inv_iff.1 ?_) | dsimp only)

@[simp] theorem ackFlit_mem (s : State) (l : Nat) (slot : Nat) (seq : Nat) (again : Bool) : (ackFlit s l slot seq again).mem = s.mem := by
  unfold ackFlit
  repeat' (first
    | with_reducible rfl | with_reducible assumption | with_reducible refine Eq.trans (sendFlit_mem _ _ _ _ _ _ _) ?_ | dsimp only | split)

@[simp] theorem ackIn_mem (s : State) (l : Nat) (f : Flit) : (ackIn s l f).mem = s.mem := by
  unfold ackIn
  repeat' (first
    | with_reducible rfl | with_reducible assumption | with_reducible refine Eq.trans (setLink_mem _ _ _) ?_
    | with_reducible refine Eq.trans (replay_mem _ _ _) ?_ | dsimp only | split)

theorem takeFlit_inv (s : State) (l : Nat) (f : Flit) (hinv : s.Inv) : (takeFlit s l f).Inv := by
  unfold takeFlit
  repeat' (first
    | with_reducible assumption | with_reducible refine inv_of (logRec_mem _ _ _ _ _ _ _) ?_
    | with_reducible refine inv_of (postArg_mem _ _ _ _) ?_ | with_reducible refine partialIn_inv _ _ ?_
    | with_reducible refine inv_of (tokenIn_mem _ _ _) ?_ | with_reducible refine creditIn_inv _ _ _ ?_
    | with_reducible refine inv_of (ackIn_mem _ _ _) ?_ | split | (refine inv_iff.2 ?_; dsimp only; refine inv_iff.1 ?_) | dsimp only)

@[simp] theorem loseToken_mem (s : State) (i : Nat) : (loseToken s i).mem = s.mem := by
  unfold loseToken
  repeat' (first
    | with_reducible rfl | with_reducible assumption | with_reducible refine Eq.trans (logRec_mem _ _ _ _ _ _ _) ?_
    | with_reducible refine Eq.trans (orphan_mem _ _) ?_ | dsimp only | split)

theorem retireLink_inv (s : State) (l : Nat) (hinv : s.Inv) : (retireLink s l).Inv := by
  unfold retireLink
  repeat' (first
    | with_reducible assumption | with_reducible refine inv_of (setLink_mem _ _ _) ?_ | with_reducible refine inv_of (dropEntries_mem _ _) ?_
    | with_reducible refine inv_of (logRec_mem _ _ _ _ _ _ _) ?_ | with_reducible refine faultJob_inv _ _ _ _ _ _ ?_
    | with_reducible refine inv_of (loseToken_mem _ _) ?_ | with_reducible refine foldl_inv _ _ _ ?_ ?_ | intro _ _ _ | split
    | (refine inv_iff.2 ?_; dsimp only; refine inv_iff.1 ?_) | dsimp only)

@[simp] theorem reply_mem (s : State) (ok : Bool) (bs : List Byte) : (reply s ok bs).mem = s.mem := by
  unfold reply
  repeat' (first
    | with_reducible rfl | with_reducible assumption | dsimp only | split)

@[simp] theorem hostFails_mem (s : State) (src : Nat) (c : Nat) (det : Nat) : (hostFails s src c det).mem = s.mem := by
  unfold hostFails
  repeat' (first
    | with_reducible rfl | with_reducible assumption | with_reducible refine Eq.trans (logRec_mem _ _ _ _ _ _ _) ?_
    | with_reducible refine Eq.trans (reply_mem _ _ _) ?_ | dsimp only | split)

theorem hostStore_inv (s : State) (l : List Seg) (bs : List Byte) (hinv : s.Inv) : (hostStore s l bs).Inv := by
  induction l generalizing s bs with
  | nil => exact hinv
  | cons g t ih =>
    refine ih _ _ ?_
    split
    · exact storeBytes_inv _ _ _ hinv
    · exact hinv

@[simp] theorem markHost_mem (s : State) (c : Nat) (l : List Seg) : (markHost s c l).mem = s.mem := by
  unfold markHost
  repeat' (first
    | with_reducible rfl | with_reducible assumption | with_reducible refine Eq.trans (setContext_mem _ _ _) ?_ | dsimp only | split)

theorem hostPerforms_inv (s : State) (c : Nat) (a : HostAcc) (segs : List Seg) (hinv : s.Inv) : (hostPerforms s c a segs).Inv := by
  unfold hostPerforms
  repeat' (first
    | with_reducible assumption | with_reducible refine inv_of (poisonPiece_mem _ _ _) ?_ | with_reducible refine inv_of (readSegs_mem _ _) ?_
    | refine inv_of (readSegs_mem' _ _ _ _ (by assumption)) ?_ | with_reducible refine inv_of (reply_mem _ _ _) ?_
    | with_reducible refine inv_of (hostFails_mem _ _ _ _) ?_ | with_reducible refine hostStore_inv _ _ _ ?_
    | with_reducible refine inv_of (markHost_mem _ _ _) ?_ | with_reducible refine foldl_inv _ _ _ ?_ ?_ | intro _ _ _ | split
    | (refine inv_iff.2 ?_; dsimp only; refine inv_iff.1 ?_) | dsimp only)

theorem coldState_inv (s : State) (hinv : s.Inv) : (coldState s).Inv := Memory.wf_filter _ _ hinv

theorem bringUpFails_inv (s : State) (n : Nat) (hinv : s.Inv) : (bringUpFails s n).Inv := by
  unfold bringUpFails
  repeat' (first
    | with_reducible assumption | with_reducible refine inv_of (logRec_mem _ _ _ _ _ _ _) ?_ | split
    | (refine inv_iff.2 ?_; dsimp only; refine inv_iff.1 ?_) | dsimp only)

theorem warmState_inv (s : State) (bankB : Bool) (hinv : s.Inv) : (warmState s bankB).Inv := by
  unfold warmState
  repeat' (first
    | with_reducible assumption | with_reducible refine inv_of (postHub_mem _ _ _) ?_ | with_reducible refine inv_of (openSlots_mem _ _) ?_
    | with_reducible refine foldl_inv _ _ _ ?_ ?_ | intro _ _ _ | split | (refine inv_iff.2 ?_; dsimp only; refine inv_iff.1 ?_) | dsimp only)

@[simp] theorem setHot_mem (s : State) (n : Nat) (h : Bool) : (setHot s n h).mem = s.mem := by
  unfold setHot
  repeat' (first
    | with_reducible rfl | with_reducible assumption | with_reducible refine Eq.trans (setStack_mem _ _ _) ?_ | dsimp only | split)

@[simp] theorem remap_mem (s : State) (c : Nat) (va : Nat) (f : WEntry → WEntry) : (remap s c va f).mem = s.mem := by
  unfold remap
  repeat' (first
    | with_reducible rfl | with_reducible assumption | with_reducible refine Eq.trans (postHub_mem _ _ _) ?_ | (refine foldl_mem _ _ _ _ ?_ ?_)
    | intro _ _ | dsimp only | split)

theorem frameElsewhere_mem (s : State) (z : Nat) (size : Nat) (l : List Nat) : (frameElsewhere s z size l).2.mem = s.mem := by
  induction l generalizing s with
  | nil => rfl
  | cons y t ih =>
    unfold frameElsewhere
    split
    · exact ih _
    · dsimp only; split
      · exact findFrame_mem s y size
      · exact (ih _).trans (findFrame_mem _ _ _)
theorem frameElsewhere_mem' (s : State) (z : Nat) (size : Nat) (l : List Nat) (x : _) (t : State) (e : frameElsewhere s z size l = (x, t)) : t.mem = s.mem := by
  have q := frameElsewhere_mem s z size l; rwa [e] at q

@[simp] theorem setToward_mem (s : State) (x : Nat × PageFrame) (dst : Nat) : (setToward s x dst).mem = s.mem := by
  unfold setToward
  repeat' (first
    | with_reducible rfl | with_reducible assumption | dsimp only | split)

theorem startEvac_inv (s : State) (c : Nat) (e : WEntry) (dst : Nat) (f : WEntry → WEntry) (hinv : s.Inv) : (startEvac s c e dst f).Inv := by
  unfold startEvac
  repeat' (first
    | with_reducible assumption | with_reducible refine finishMove_inv _ _ _ _ ?_ | with_reducible refine inv_of (remap_mem _ _ _ _) ?_
    | with_reducible refine inv_of (setToward_mem _ _ _) ?_ | split | (refine inv_iff.2 ?_; dsimp only; refine inv_iff.1 ?_) | dsimp only)

@[simp] theorem extendEvac_mem (s : State) (c : Nat) (e : WEntry) (at_ : Nat) (dst : Nat) (f : WEntry → WEntry) : (extendEvac s c e at_ dst f).mem = s.mem := by
  unfold extendEvac
  repeat' (first
    | with_reducible rfl | with_reducible assumption | with_reducible refine Eq.trans (remap_mem _ _ _ _) ?_
    | with_reducible refine Eq.trans (setToward_mem _ _ _) ?_ | dsimp only | split)

@[simp] theorem redirect_mem (s : State) (c : Nat) (e : WEntry) (dst : Nat) : (redirect s c e dst).mem = s.mem := by
  unfold redirect
  repeat' (first
    | with_reducible rfl | with_reducible assumption | dsimp only | split)

theorem evacuate_inv (s : State) (c z : Nat) (e : WEntry) (t : State) (h : evacuate s c z e = some t) (hinv : s.Inv) : t.Inv := by
  have hf : (frameElsewhere s z (weSize e) (liveStacks s)).2.Inv := inv_of (frameElsewhere_mem _ _ _ _) hinv
  unfold evacuate at h
  extract_lets x fin r p at h
  clear_value p
  split at h
  · obtain ⟨a, -, rfl⟩ := Option.map_eq_some_iff.1 h
    exact inv_of (redirect_mem _ _ _ _) hf
  · split at h
    · obtain ⟨a, -, rfl⟩ := Option.map_eq_some_iff.1 h
      exact startEvac_inv _ _ _ _ _ hf
    · split at h
      · obtain ⟨a, -, rfl⟩ := Option.map_eq_some_iff.1 h
        exact inv_of (extendEvac_mem _ _ _ _ _ _) hf
      · injection h with h; subst h; exact inv_of (remap_mem _ _ _ _) hinv
theorem evacuateAll_inv (s : State) (z : Nat) (l : List (Nat × WEntry)) (hinv : s.Inv) : (evacuateAll s z l).2.Inv := by
  induction l generalizing s with
  | nil => exact hinv
  | cons x t ih =>
    obtain ⟨c, e⟩ := x
    unfold evacuateAll
    split
    · rename_i s1 h; exact ih _ (evacuate_inv _ _ _ _ _ h hinv)
    · exact hinv
theorem evacuateAll_inv' (s : State) (z : Nat) (l : List (Nat × WEntry)) (x : _) (t : State) (e : evacuateAll s z l = (x, t)) (hinv : s.Inv) : t.Inv := by
  have q := evacuateAll_inv s z l hinv; rwa [e] at q

theorem closeStack_inv (s : State) (z : Nat) (hinv : s.Inv) : (closeStack s z).Inv := by
  unfold closeStack
  repeat' (first
    | with_reducible assumption | with_reducible refine inv_of (setStack_mem _ _ _) ?_ | with_reducible refine forcePreempt_inv _ _ ?_
    | with_reducible refine foldl_inv _ _ _ ?_ ?_ | intro _ _ _ | split | (refine inv_iff.2 ?_; dsimp only; refine inv_iff.1 ?_) | dsimp only)

@[simp] theorem loseFrames_mem (s : State) (n a : Nat) : (loseFrames s n a).mem = s.mem := by
  induction n generalizing s a with
  | zero => rfl
  | succ n ih =>
    unfold loseFrames
    split
    · rfl
    · dsimp only; split
      · exact ih _ _
      · rfl

@[simp] theorem losePage_mem (s : State) (c : Nat) (e : WEntry) : (losePage s c e).mem = s.mem := by
  unfold losePage
  repeat' (first
    | with_reducible rfl | with_reducible assumption | with_reducible refine Eq.trans (setToken_mem _ _ _) ?_
    | with_reducible refine Eq.trans (loseFrames_mem _ _ _) ?_ | (refine foldl_mem _ _ _ _ ?_ ?_) | intro _ _ | dsimp only | split)

@[simp] theorem without_mem (s : State) (e : Timed) : (without s e).mem = s.mem := by
  unfold without
  repeat' (first
    | with_reducible rfl | with_reducible assumption | dsimp only | split)

theorem stopAt_mem (g k : Nat) (s : State) (y : GZone) : (stopAt g k s y).mem = s.mem := by
  unfold stopAt
  dsimp only
  split
  · rfl
  · rfl
theorem nextGroup_inv (s : State) (k g : Nat) (t : State) (e : nextGroup s k = some (g, t)) (hinv : s.Inv) : t.Inv := by
  unfold nextGroup at e
  extract_lets kn back at e
  clear_value back
  split at e
  · injection e with e; injection e with _ e; subst e; exact hinv
  · split at e
    · cases e
    · split at e
      · cases e
      · injection e with e; injection e with _ e; subst e
        exact inv_of (setGroup_mem _ _ _) (inv_of (setAside_mem _ _) hinv)
theorem choose_inv (n : Nat) (s : State) (wave : List Nat) (hinv : s.Inv) : (choose n s wave).1.Inv := by
  induction n generalizing s wave with
  | zero => exact hinv
  | succ n ih =>
    unfold choose
    split
    · exact hinv
    · split
      · exact hinv
      · rename_i h
        split
        · exact hinv
        · exact ih _ _ (placeGroup_inv _ _ _ _ _ _ (nextGroup_inv _ _ _ _ h hinv))

/-- Where an outcome is a next state, that state keeps the invariant. -/
def OutInv (o : Host.Outcome State Fault Refusal) : Prop := ∀ t, o = .next t → t.Inv
theorem out_next {x : State} (h : x.Inv) : OutInv (.next x) := by intro t e; cases e; exact h
theorem out_fault {f : Fault} : OutInv (.fault f) := by intro t e; cases e
theorem out_refused {f : Refusal} : OutInv (.refused f) := by intro t e; cases e
theorem ite_out {c : Prop} [Decidable c] {x y : Host.Outcome State Fault Refusal} (hx : OutInv x) (hy : OutInv y) : OutInv (if c then x else y) := by
  split <;> assumption
theorem runWord_out (s : State) (g : BitVec 4) (f : State → State) (h : s.Inv) (hf : (f s).Inv) : OutInv (runWord s g f) := by
  unfold runWord; split
  · exact out_next hf
  · exact out_next h
theorem runMacro_out (s : State) (g : BitVec 4) (i : Instr) (f : State → State) (h : s.Inv) (hf : ∀ x : State, x.Inv → (f x).Inv) : OutInv (runMacro s g i f) :=
  runWord_out _ _ _ h (hf _ h)

end Sys2Proof.Machine
end

