-- ==== Sys2Proof/Laws/PerInstr.lean ====
section
/-! SUPPORT. A family of statements per instruction: the guard of a code word stands in bits 28 to 25 of its encoding (R55, R57). -/

namespace Sys2Proof.Laws.Encoded

open Sys2Proof Sys2Proof.Machine

set_option Elab.async false

/-- The guard of the instruction stands in bits 28 to 25 of its word (R57). -/
def Statement (i : Instr) : Prop := ∀ w ∈ encode i, ∀ g, guardField i = some g → bitsAt w.toNat 25 4 = g.toNat

theorem packetHeader (i : BitVec 8) (c : BitVec 3) (j : BitVec 13) : Statement (.packetHeader i c j) := by
  intro w hw g hg; cases hg

theorem add (g : BitVec 4) (d : BitVec 5) (a : BitVec 5) (b : BitVec 5) : Statement (.add g d a b) := by
  intro w hw g' hg; cases hg; simp only [encode, encodeNat, List.mem_singleton] at hw; subst hw
  simp only [tot, put, bitsAt, BitVec.toNat_ofNat]; omega

theorem sub (g : BitVec 4) (d : BitVec 5) (a : BitVec 5) (b : BitVec 5) : Statement (.sub g d a b) := by
  intro w hw g' hg; cases hg; simp only [encode, encodeNat, List.mem_singleton] at hw; subst hw
  simp only [tot, put, bitsAt, BitVec.toNat_ofNat]; omega

theorem and (g : BitVec 4) (d : BitVec 5) (a : BitVec 5) (b : BitVec 5) : Statement (.and g d a b) := by
  intro w hw g' hg; cases hg; simp only [encode, encodeNat, List.mem_singleton] at hw; subst hw
  simp only [tot, put, bitsAt, BitVec.toNat_ofNat]; omega

theorem or (g : BitVec 4) (d : BitVec 5) (a : BitVec 5) (b : BitVec 5) : Statement (.or g d a b) := by
  intro w hw g' hg; cases hg; simp only [encode, encodeNat, List.mem_singleton] at hw; subst hw
  simp only [tot, put, bitsAt, BitVec.toNat_ofNat]; omega

theorem xor (g : BitVec 4) (d : BitVec 5) (a : BitVec 5) (b : BitVec 5) : Statement (.xor g d a b) := by
  intro w hw g' hg; cases hg; simp only [encode, encodeNat, List.mem_singleton] at hw; subst hw
  simp only [tot, put, bitsAt, BitVec.toNat_ofNat]; omega

theorem shl (g : BitVec 4) (d : BitVec 5) (a : BitVec 5) (b : BitVec 5) : Statement (.shl g d a b) := by
  intro w hw g' hg; cases hg; simp only [encode, encodeNat, List.mem_singleton] at hw; subst hw
  simp only [tot, put, bitsAt, BitVec.toNat_ofNat]; omega

theorem shr (g : BitVec 4) (d : BitVec 5) (a : BitVec 5) (b : BitVec 5) : Statement (.shr g d a b) := by
  intro w hw g' hg; cases hg; simp only [encode, encodeNat, List.mem_singleton] at hw; subst hw
  simp only [tot, put, bitsAt, BitVec.toNat_ofNat]; omega

theorem shra (g : BitVec 4) (d : BitVec 5) (a : BitVec 5) (b : BitVec 5) : Statement (.shra g d a b) := by
  intro w hw g' hg; cases hg; simp only [encode, encodeNat, List.mem_singleton] at hw; subst hw
  simp only [tot, put, bitsAt, BitVec.toNat_ofNat]; omega

theorem min (g : BitVec 4) (d : BitVec 5) (a : BitVec 5) (b : BitVec 5) : Statement (.min g d a b) := by
  intro w hw g' hg; cases hg; simp only [encode, encodeNat, List.mem_singleton] at hw; subst hw
  simp only [tot, put, bitsAt, BitVec.toNat_ofNat]; omega

theorem max (g : BitVec 4) (d : BitVec 5) (a : BitVec 5) (b : BitVec 5) : Statement (.max g d a b) := by
  intro w hw g' hg; cases hg; simp only [encode, encodeNat, List.mem_singleton] at hw; subst hw
  simp only [tot, put, bitsAt, BitVec.toNat_ofNat]; omega

theorem clz (g : BitVec 4) (d : BitVec 5) (a : BitVec 5) : Statement (.clz g d a) := by
  intro w hw g' hg; cases hg; simp only [encode, encodeNat, List.mem_singleton] at hw; subst hw
  simp only [tot, put, bitsAt, BitVec.toNat_ofNat]; omega

theorem popc (g : BitVec 4) (d : BitVec 5) (a : BitVec 5) : Statement (.popc g d a) := by
  intro w hw g' hg; cases hg; simp only [encode, encodeNat, List.mem_singleton] at hw; subst hw
  simp only [tot, put, bitsAt, BitVec.toNat_ofNat]; omega

theorem mul (g : BitVec 4) (d : BitVec 5) (a : BitVec 5) (b : BitVec 5) : Statement (.mul g d a b) := by
  intro w hw g' hg; cases hg; simp only [encode, encodeNat, List.mem_singleton] at hw; subst hw
  simp only [tot, put, bitsAt, BitVec.toNat_ofNat]; omega

theorem mulh (g : BitVec 4) (d : BitVec 5) (a : BitVec 5) (b : BitVec 5) : Statement (.mulh g d a b) := by
  intro w hw g' hg; cases hg; simp only [encode, encodeNat, List.mem_singleton] at hw; subst hw
  simp only [tot, put, bitsAt, BitVec.toNat_ofNat]; omega

theorem mulhu (g : BitVec 4) (d : BitVec 5) (a : BitVec 5) (b : BitVec 5) : Statement (.mulhu g d a b) := by
  intro w hw g' hg; cases hg; simp only [encode, encodeNat, List.mem_singleton] at hw; subst hw
  simp only [tot, put, bitsAt, BitVec.toNat_ofNat]; omega

theorem div (g : BitVec 4) (d : BitVec 5) (a : BitVec 5) (b : BitVec 5) : Statement (.div g d a b) := by
  intro w hw g' hg; cases hg; simp only [encode, encodeNat, List.mem_singleton] at hw; subst hw
  simp only [tot, put, bitsAt, BitVec.toNat_ofNat]; omega

theorem divu (g : BitVec 4) (d : BitVec 5) (a : BitVec 5) (b : BitVec 5) : Statement (.divu g d a b) := by
  intro w hw g' hg; cases hg; simp only [encode, encodeNat, List.mem_singleton] at hw; subst hw
  simp only [tot, put, bitsAt, BitVec.toNat_ofNat]; omega

theorem rem (g : BitVec 4) (d : BitVec 5) (a : BitVec 5) (b : BitVec 5) : Statement (.rem g d a b) := by
  intro w hw g' hg; cases hg; simp only [encode, encodeNat, List.mem_singleton] at hw; subst hw
  simp only [tot, put, bitsAt, BitVec.toNat_ofNat]; omega

theorem remu (g : BitVec 4) (d : BitVec 5) (a : BitVec 5) (b : BitVec 5) : Statement (.remu g d a b) := by
  intro w hw g' hg; cases hg; simp only [encode, encodeNat, List.mem_singleton] at hw; subst hw
  simp only [tot, put, bitsAt, BitVec.toNat_ofNat]; omega

theorem cmpEq (g : BitVec 4) (d : BitVec 5) (a : BitVec 5) (b : BitVec 5) : Statement (.cmpEq g d a b) := by
  intro w hw g' hg; cases hg; simp only [encode, encodeNat, List.mem_singleton] at hw; subst hw
  simp only [tot, put, bitsAt, BitVec.toNat_ofNat]; omega

theorem cmpLt (g : BitVec 4) (d : BitVec 5) (a : BitVec 5) (b : BitVec 5) : Statement (.cmpLt g d a b) := by
  intro w hw g' hg; cases hg; simp only [encode, encodeNat, List.mem_singleton] at hw; subst hw
  simp only [tot, put, bitsAt, BitVec.toNat_ofNat]; omega

theorem cmpLtu (g : BitVec 4) (d : BitVec 5) (a : BitVec 5) (b : BitVec 5) : Statement (.cmpLtu g d a b) := by
  intro w hw g' hg; cases hg; simp only [encode, encodeNat, List.mem_singleton] at hw; subst hw
  simp only [tot, put, bitsAt, BitVec.toNat_ofNat]; omega

theorem cmpLe (g : BitVec 4) (d : BitVec 5) (a : BitVec 5) (b : BitVec 5) : Statement (.cmpLe g d a b) := by
  intro w hw g' hg; cases hg; simp only [encode, encodeNat, List.mem_singleton] at hw; subst hw
  simp only [tot, put, bitsAt, BitVec.toNat_ofNat]; omega

theorem cmpLeu (g : BitVec 4) (d : BitVec 5) (a : BitVec 5) (b : BitVec 5) : Statement (.cmpLeu g d a b) := by
  intro w hw g' hg; cases hg; simp only [encode, encodeNat, List.mem_singleton] at hw; subst hw
  simp only [tot, put, bitsAt, BitVec.toNat_ofNat]; omega

theorem pand (g : BitVec 4) (d : BitVec 5) (a : BitVec 5) (b : BitVec 5) : Statement (.pand g d a b) := by
  intro w hw g' hg; cases hg; simp only [encode, encodeNat, List.mem_singleton] at hw; subst hw
  simp only [tot, put, bitsAt, BitVec.toNat_ofNat]; omega

theorem por (g : BitVec 4) (d : BitVec 5) (a : BitVec 5) (b : BitVec 5) : Statement (.por g d a b) := by
  intro w hw g' hg; cases hg; simp only [encode, encodeNat, List.mem_singleton] at hw; subst hw
  simp only [tot, put, bitsAt, BitVec.toNat_ofNat]; omega

theorem pxor (g : BitVec 4) (d : BitVec 5) (a : BitVec 5) (b : BitVec 5) : Statement (.pxor g d a b) := by
  intro w hw g' hg; cases hg; simp only [encode, encodeNat, List.mem_singleton] at hw; subst hw
  simp only [tot, put, bitsAt, BitVec.toNat_ofNat]; omega

theorem pandn (g : BitVec 4) (d : BitVec 5) (a : BitVec 5) (b : BitVec 5) : Statement (.pandn g d a b) := by
  intro w hw g' hg; cases hg; simp only [encode, encodeNat, List.mem_singleton] at hw; subst hw
  simp only [tot, put, bitsAt, BitVec.toNat_ofNat]; omega

theorem jr (g : BitVec 4) (d : BitVec 5) (a : BitVec 5) : Statement (.jr g d a) := by
  intro w hw g' hg; cases hg; simp only [encode, encodeNat, List.mem_singleton] at hw; subst hw
  simp only [tot, put, bitsAt, BitVec.toNat_ofNat]; omega

theorem addi (g : BitVec 4) (d : BitVec 5) (a : BitVec 5) (i : BitVec 9) : Statement (.addi g d a i) := by
  intro w hw g' hg; cases hg; simp only [encode, encodeNat, List.mem_singleton] at hw; subst hw
  simp only [tot, put, bitsAt, BitVec.toNat_ofNat]; omega

theorem andi (g : BitVec 4) (d : BitVec 5) (a : BitVec 5) (i : BitVec 9) : Statement (.andi g d a i) := by
  intro w hw g' hg; cases hg; simp only [encode, encodeNat, List.mem_singleton] at hw; subst hw
  simp only [tot, put, bitsAt, BitVec.toNat_ofNat]; omega

theorem ori (g : BitVec 4) (d : BitVec 5) (a : BitVec 5) (i : BitVec 9) : Statement (.ori g d a i) := by
  intro w hw g' hg; cases hg; simp only [encode, encodeNat, List.mem_singleton] at hw; subst hw
  simp only [tot, put, bitsAt, BitVec.toNat_ofNat]; omega

theorem xori (g : BitVec 4) (d : BitVec 5) (a : BitVec 5) (i : BitVec 9) : Statement (.xori g d a i) := by
  intro w hw g' hg; cases hg; simp only [encode, encodeNat, List.mem_singleton] at hw; subst hw
  simp only [tot, put, bitsAt, BitVec.toNat_ofNat]; omega

theorem shli (g : BitVec 4) (d : BitVec 5) (a : BitVec 5) (i : BitVec 9) : Statement (.shli g d a i) := by
  intro w hw g' hg; cases hg; simp only [encode, encodeNat, List.mem_singleton] at hw; subst hw
  simp only [tot, put, bitsAt, BitVec.toNat_ofNat]; omega

theorem shri (g : BitVec 4) (d : BitVec 5) (a : BitVec 5) (i : BitVec 9) : Statement (.shri g d a i) := by
  intro w hw g' hg; cases hg; simp only [encode, encodeNat, List.mem_singleton] at hw; subst hw
  simp only [tot, put, bitsAt, BitVec.toNat_ofNat]; omega

theorem shrai (g : BitVec 4) (d : BitVec 5) (a : BitVec 5) (i : BitVec 9) : Statement (.shrai g d a i) := by
  intro w hw g' hg; cases hg; simp only [encode, encodeNat, List.mem_singleton] at hw; subst hw
  simp only [tot, put, bitsAt, BitVec.toNat_ofNat]; omega

theorem cmpiEq (g : BitVec 4) (d : BitVec 5) (a : BitVec 5) (i : BitVec 9) : Statement (.cmpiEq g d a i) := by
  intro w hw g' hg; cases hg; simp only [encode, encodeNat, List.mem_singleton] at hw; subst hw
  simp only [tot, put, bitsAt, BitVec.toNat_ofNat]; omega

theorem cmpiLt (g : BitVec 4) (d : BitVec 5) (a : BitVec 5) (i : BitVec 9) : Statement (.cmpiLt g d a i) := by
  intro w hw g' hg; cases hg; simp only [encode, encodeNat, List.mem_singleton] at hw; subst hw
  simp only [tot, put, bitsAt, BitVec.toNat_ofNat]; omega

theorem cmpiLtu (g : BitVec 4) (d : BitVec 5) (a : BitVec 5) (i : BitVec 9) : Statement (.cmpiLtu g d a i) := by
  intro w hw g' hg; cases hg; simp only [encode, encodeNat, List.mem_singleton] at hw; subst hw
  simp only [tot, put, bitsAt, BitVec.toNat_ofNat]; omega

theorem br (g : BitVec 4) (o : BitVec 19) : Statement (.br g o) := by
  intro w hw g' hg; cases hg; simp only [encode, encodeNat, List.mem_singleton] at hw; subst hw
  simp only [tot, put, bitsAt, BitVec.toNat_ofNat]; omega

theorem call (g : BitVec 4) (o : BitVec 19) : Statement (.call g o) := by
  intro w hw g' hg; cases hg; simp only [encode, encodeNat, List.mem_singleton] at hw; subst hw
  simp only [tot, put, bitsAt, BitVec.toNat_ofNat]; omega

theorem loop (a : BitVec 5) (l : BitVec 14) : Statement (.loop a l) := by
  intro w hw g hg; cases hg

theorem loopi (c : BitVec 10) (l : BitVec 9) : Statement (.loopi c l) := by
  intro w hw g hg; cases hg

theorem ldB (g : BitVec 4) (t : BitVec 5) (a : BitVec 5) (c : BitVec 4) (o : BitVec 5) : Statement (.ldB g t a c o) := by
  intro w hw g' hg; cases hg; simp only [encode, encodeNat, List.mem_singleton] at hw; subst hw
  simp only [tot, put, bitsAt, BitVec.toNat_ofNat]; omega

theorem ldBu (g : BitVec 4) (t : BitVec 5) (a : BitVec 5) (c : BitVec 4) (o : BitVec 5) : Statement (.ldBu g t a c o) := by
  intro w hw g' hg; cases hg; simp only [encode, encodeNat, List.mem_singleton] at hw; subst hw
  simp only [tot, put, bitsAt, BitVec.toNat_ofNat]; omega

theorem ldH (g : BitVec 4) (t : BitVec 5) (a : BitVec 5) (c : BitVec 4) (o : BitVec 5) : Statement (.ldH g t a c o) := by
  intro w hw g' hg; cases hg; simp only [encode, encodeNat, List.mem_singleton] at hw; subst hw
  simp only [tot, put, bitsAt, BitVec.toNat_ofNat]; omega

theorem ldHu (g : BitVec 4) (t : BitVec 5) (a : BitVec 5) (c : BitVec 4) (o : BitVec 5) : Statement (.ldHu g t a c o) := by
  intro w hw g' hg; cases hg; simp only [encode, encodeNat, List.mem_singleton] at hw; subst hw
  simp only [tot, put, bitsAt, BitVec.toNat_ofNat]; omega

theorem ldW (g : BitVec 4) (t : BitVec 5) (a : BitVec 5) (c : BitVec 4) (o : BitVec 5) : Statement (.ldW g t a c o) := by
  intro w hw g' hg; cases hg; simp only [encode, encodeNat, List.mem_singleton] at hw; subst hw
  simp only [tot, put, bitsAt, BitVec.toNat_ofNat]; omega

theorem ldWu (g : BitVec 4) (t : BitVec 5) (a : BitVec 5) (c : BitVec 4) (o : BitVec 5) : Statement (.ldWu g t a c o) := by
  intro w hw g' hg; cases hg; simp only [encode, encodeNat, List.mem_singleton] at hw; subst hw
  simp only [tot, put, bitsAt, BitVec.toNat_ofNat]; omega

theorem ldD (g : BitVec 4) (t : BitVec 5) (a : BitVec 5) (c : BitVec 4) (o : BitVec 5) : Statement (.ldD g t a c o) := by
  intro w hw g' hg; cases hg; simp only [encode, encodeNat, List.mem_singleton] at hw; subst hw
  simp only [tot, put, bitsAt, BitVec.toNat_ofNat]; omega

theorem stB (g : BitVec 4) (t : BitVec 5) (a : BitVec 5) (c : BitVec 4) (o : BitVec 5) : Statement (.stB g t a c o) := by
  intro w hw g' hg; cases hg; simp only [encode, encodeNat, List.mem_singleton] at hw; subst hw
  simp only [tot, put, bitsAt, BitVec.toNat_ofNat]; omega

theorem stH (g : BitVec 4) (t : BitVec 5) (a : BitVec 5) (c : BitVec 4) (o : BitVec 5) : Statement (.stH g t a c o) := by
  intro w hw g' hg; cases hg; simp only [encode, encodeNat, List.mem_singleton] at hw; subst hw
  simp only [tot, put, bitsAt, BitVec.toNat_ofNat]; omega

theorem stW (g : BitVec 4) (t : BitVec 5) (a : BitVec 5) (c : BitVec 4) (o : BitVec 5) : Statement (.stW g t a c o) := by
  intro w hw g' hg; cases hg; simp only [encode, encodeNat, List.mem_singleton] at hw; subst hw
  simp only [tot, put, bitsAt, BitVec.toNat_ofNat]; omega

theorem stD (g : BitVec 4) (t : BitVec 5) (a : BitVec 5) (c : BitVec 4) (o : BitVec 5) : Statement (.stD g t a c o) := by
  intro w hw g' hg; cases hg; simp only [encode, encodeNat, List.mem_singleton] at hw; subst hw
  simp only [tot, put, bitsAt, BitVec.toNat_ofNat]; omega

theorem amoAdd (g : BitVec 4) (d : BitVec 5) (a : BitVec 5) (b : BitVec 5) (c : BitVec 4) : Statement (.amoAdd g d a b c) := by
  intro w hw g' hg; cases hg; simp only [encode, encodeNat, List.mem_singleton] at hw; subst hw
  simp only [tot, put, bitsAt, BitVec.toNat_ofNat]; omega

theorem amoAnd (g : BitVec 4) (d : BitVec 5) (a : BitVec 5) (b : BitVec 5) (c : BitVec 4) : Statement (.amoAnd g d a b c) := by
  intro w hw g' hg; cases hg; simp only [encode, encodeNat, List.mem_singleton] at hw; subst hw
  simp only [tot, put, bitsAt, BitVec.toNat_ofNat]; omega

theorem amoOr (g : BitVec 4) (d : BitVec 5) (a : BitVec 5) (b : BitVec 5) (c : BitVec 4) : Statement (.amoOr g d a b c) := by
  intro w hw g' hg; cases hg; simp only [encode, encodeNat, List.mem_singleton] at hw; subst hw
  simp only [tot, put, bitsAt, BitVec.toNat_ofNat]; omega

theorem amoMax (g : BitVec 4) (d : BitVec 5) (a : BitVec 5) (b : BitVec 5) (c : BitVec 4) : Statement (.amoMax g d a b c) := by
  intro w hw g' hg; cases hg; simp only [encode, encodeNat, List.mem_singleton] at hw; subst hw
  simp only [tot, put, bitsAt, BitVec.toNat_ofNat]; omega

theorem amoSwap (g : BitVec 4) (d : BitVec 5) (a : BitVec 5) (b : BitVec 5) (c : BitVec 4) : Statement (.amoSwap g d a b c) := by
  intro w hw g' hg; cases hg; simp only [encode, encodeNat, List.mem_singleton] at hw; subst hw
  simp only [tot, put, bitsAt, BitVec.toNat_ofNat]; omega

theorem amoCas (g : BitVec 4) (d : BitVec 5) (a : BitVec 5) (b : BitVec 5) (c : BitVec 4) : Statement (.amoCas g d a b c) := by
  intro w hw g' hg; cases hg; simp only [encode, encodeNat, List.mem_singleton] at hw; subst hw
  simp only [tot, put, bitsAt, BitVec.toNat_ofNat]; omega

theorem csrr (g : BitVec 4) (d : BitVec 5) (c : BitVec 12) : Statement (.csrr g d c) := by
  intro w hw g' hg; cases hg; simp only [encode, encodeNat, List.mem_singleton] at hw; subst hw
  simp only [tot, put, bitsAt, BitVec.toNat_ofNat]; omega

theorem csrw (g : BitVec 4) (d : BitVec 5) (c : BitVec 12) : Statement (.csrw g d c) := by
  intro w hw g' hg; cases hg; simp only [encode, encodeNat, List.mem_singleton] at hw; subst hw
  simp only [tot, put, bitsAt, BitVec.toNat_ofNat]; omega

theorem csrs (g : BitVec 4) (d : BitVec 5) (c : BitVec 12) : Statement (.csrs g d c) := by
  intro w hw g' hg; cases hg; simp only [encode, encodeNat, List.mem_singleton] at hw; subst hw
  simp only [tot, put, bitsAt, BitVec.toNat_ofNat]; omega

theorem csrc (g : BitVec 4) (d : BitVec 5) (c : BitVec 12) : Statement (.csrc g d c) := by
  intro w hw g' hg; cases hg; simp only [encode, encodeNat, List.mem_singleton] at hw; subst hw
  simp only [tot, put, bitsAt, BitVec.toNat_ofNat]; omega

theorem trapEnd (g : BitVec 4) : Statement (.trapEnd g) := by
  intro w hw g' hg; cases hg; simp only [encode, encodeNat, List.mem_singleton] at hw; subst hw
  simp only [tot, put, bitsAt, BitVec.toNat_ofNat]; omega

theorem trapService (g : BitVec 4) (n : BitVec 9) : Statement (.trapService g n) := by
  intro w hw g' hg; cases hg; simp only [encode, encodeNat, List.mem_singleton] at hw; subst hw
  simp only [tot, put, bitsAt, BitVec.toNat_ofNat]; omega

theorem tfence (g : BitVec 4) : Statement (.tfence g) := by
  intro w hw g' hg; cases hg; simp only [encode, encodeNat, List.mem_singleton] at hw; subst hw
  simp only [tot, put, bitsAt, BitVec.toNat_ofNat]; omega

theorem vfaddF32 (g : BitVec 4) (d : BitVec 6) (a : BitVec 6) (b : BitVec 6) (n : BitVec 1) : Statement (.vfaddF32 g d a b n) := by
  intro w hw g' hg; cases hg; simp only [encode, encodeNat, List.mem_singleton] at hw; subst hw
  simp only [tot, put, bitsAt, BitVec.toNat_ofNat]; omega

theorem vfaddBf16 (g : BitVec 4) (d : BitVec 6) (a : BitVec 6) (b : BitVec 6) (n : BitVec 1) : Statement (.vfaddBf16 g d a b n) := by
  intro w hw g' hg; cases hg; simp only [encode, encodeNat, List.mem_singleton] at hw; subst hw
  simp only [tot, put, bitsAt, BitVec.toNat_ofNat]; omega

theorem vfsubF32 (g : BitVec 4) (d : BitVec 6) (a : BitVec 6) (b : BitVec 6) (n : BitVec 1) : Statement (.vfsubF32 g d a b n) := by
  intro w hw g' hg; cases hg; simp only [encode, encodeNat, List.mem_singleton] at hw; subst hw
  simp only [tot, put, bitsAt, BitVec.toNat_ofNat]; omega

theorem vfsubBf16 (g : BitVec 4) (d : BitVec 6) (a : BitVec 6) (b : BitVec 6) (n : BitVec 1) : Statement (.vfsubBf16 g d a b n) := by
  intro w hw g' hg; cases hg; simp only [encode, encodeNat, List.mem_singleton] at hw; subst hw
  simp only [tot, put, bitsAt, BitVec.toNat_ofNat]; omega

theorem vfmulF32 (g : BitVec 4) (d : BitVec 6) (a : BitVec 6) (b : BitVec 6) (n : BitVec 1) : Statement (.vfmulF32 g d a b n) := by
  intro w hw g' hg; cases hg; simp only [encode, encodeNat, List.mem_singleton] at hw; subst hw
  simp only [tot, put, bitsAt, BitVec.toNat_ofNat]; omega

theorem vfmulBf16 (g : BitVec 4) (d : BitVec 6) (a : BitVec 6) (b : BitVec 6) (n : BitVec 1) : Statement (.vfmulBf16 g d a b n) := by
  intro w hw g' hg; cases hg; simp only [encode, encodeNat, List.mem_singleton] at hw; subst hw
  simp only [tot, put, bitsAt, BitVec.toNat_ofNat]; omega

theorem vfmaF32 (g : BitVec 4) (d : BitVec 6) (a : BitVec 6) (b : BitVec 6) (n : BitVec 1) : Statement (.vfmaF32 g d a b n) := by
  intro w hw g' hg; cases hg; simp only [encode, encodeNat, List.mem_singleton] at hw; subst hw
  simp only [tot, put, bitsAt, BitVec.toNat_ofNat]; omega

theorem vfmaBf16 (g : BitVec 4) (d : BitVec 6) (a : BitVec 6) (b : BitVec 6) (n : BitVec 1) : Statement (.vfmaBf16 g d a b n) := by
  intro w hw g' hg; cases hg; simp only [encode, encodeNat, List.mem_singleton] at hw; subst hw
  simp only [tot, put, bitsAt, BitVec.toNat_ofNat]; omega

theorem vfmaxF32 (g : BitVec 4) (d : BitVec 6) (a : BitVec 6) (b : BitVec 6) (n : BitVec 1) : Statement (.vfmaxF32 g d a b n) := by
  intro w hw g' hg; cases hg; simp only [encode, encodeNat, List.mem_singleton] at hw; subst hw
  simp only [tot, put, bitsAt, BitVec.toNat_ofNat]; omega

theorem vfminF32 (g : BitVec 4) (d : BitVec 6) (a : BitVec 6) (b : BitVec 6) (n : BitVec 1) : Statement (.vfminF32 g d a b n) := by
  intro w hw g' hg; cases hg; simp only [encode, encodeNat, List.mem_singleton] at hw; subst hw
  simp only [tot, put, bitsAt, BitVec.toNat_ofNat]; omega

theorem vfrcp (g : BitVec 4) (d : BitVec 6) (a : BitVec 6) (n : BitVec 1) : Statement (.vfrcp g d a n) := by
  intro w hw g' hg; cases hg; simp only [encode, encodeNat, List.mem_singleton] at hw; subst hw
  simp only [tot, put, bitsAt, BitVec.toNat_ofNat]; omega

theorem vfrsq (g : BitVec 4) (d : BitVec 6) (a : BitVec 6) (n : BitVec 1) : Statement (.vfrsq g d a n) := by
  intro w hw g' hg; cases hg; simp only [encode, encodeNat, List.mem_singleton] at hw; subst hw
  simp only [tot, put, bitsAt, BitVec.toNat_ofNat]; omega

theorem vfexp2 (g : BitVec 4) (d : BitVec 6) (a : BitVec 6) (n : BitVec 1) : Statement (.vfexp2 g d a n) := by
  intro w hw g' hg; cases hg; simp only [encode, encodeNat, List.mem_singleton] at hw; subst hw
  simp only [tot, put, bitsAt, BitVec.toNat_ofNat]; omega

theorem vfcmpEq (g : BitVec 4) (d : BitVec 6) (a : BitVec 6) (b : BitVec 6) : Statement (.vfcmpEq g d a b) := by
  intro w hw g' hg; cases hg; simp only [encode, encodeNat, List.mem_singleton] at hw; subst hw
  simp only [tot, put, bitsAt, BitVec.toNat_ofNat]; omega

theorem vfcmpLt (g : BitVec 4) (d : BitVec 6) (a : BitVec 6) (b : BitVec 6) : Statement (.vfcmpLt g d a b) := by
  intro w hw g' hg; cases hg; simp only [encode, encodeNat, List.mem_singleton] at hw; subst hw
  simp only [tot, put, bitsAt, BitVec.toNat_ofNat]; omega

theorem vfcmpLe (g : BitVec 4) (d : BitVec 6) (a : BitVec 6) (b : BitVec 6) : Statement (.vfcmpLe g d a b) := by
  intro w hw g' hg; cases hg; simp only [encode, encodeNat, List.mem_singleton] at hw; subst hw
  simp only [tot, put, bitsAt, BitVec.toNat_ofNat]; omega

theorem vaddI32 (g : BitVec 4) (d : BitVec 6) (a : BitVec 6) (b : BitVec 6) (n : BitVec 1) : Statement (.vaddI32 g d a b n) := by
  intro w hw g' hg; cases hg; simp only [encode, encodeNat, List.mem_singleton] at hw; subst hw
  simp only [tot, put, bitsAt, BitVec.toNat_ofNat]; omega

theorem vaddI16 (g : BitVec 4) (d : BitVec 6) (a : BitVec 6) (b : BitVec 6) (n : BitVec 1) : Statement (.vaddI16 g d a b n) := by
  intro w hw g' hg; cases hg; simp only [encode, encodeNat, List.mem_singleton] at hw; subst hw
  simp only [tot, put, bitsAt, BitVec.toNat_ofNat]; omega

theorem vsubI32 (g : BitVec 4) (d : BitVec 6) (a : BitVec 6) (b : BitVec 6) (n : BitVec 1) : Statement (.vsubI32 g d a b n) := by
  intro w hw g' hg; cases hg; simp only [encode, encodeNat, List.mem_singleton] at hw; subst hw
  simp only [tot, put, bitsAt, BitVec.toNat_ofNat]; omega

theorem vmulI32 (g : BitVec 4) (d : BitVec 6) (a : BitVec 6) (b : BitVec 6) (n : BitVec 1) : Statement (.vmulI32 g d a b n) := by
  intro w hw g' hg; cases hg; simp only [encode, encodeNat, List.mem_singleton] at hw; subst hw
  simp only [tot, put, bitsAt, BitVec.toNat_ofNat]; omega

theorem vand (g : BitVec 4) (d : BitVec 6) (a : BitVec 6) (b : BitVec 6) (n : BitVec 1) : Statement (.vand g d a b n) := by
  intro w hw g' hg; cases hg; simp only [encode, encodeNat, List.mem_singleton] at hw; subst hw
  simp only [tot, put, bitsAt, BitVec.toNat_ofNat]; omega

theorem vor (g : BitVec 4) (d : BitVec 6) (a : BitVec 6) (b : BitVec 6) (n : BitVec 1) : Statement (.vor g d a b n) := by
  intro w hw g' hg; cases hg; simp only [encode, encodeNat, List.mem_singleton] at hw; subst hw
  simp only [tot, put, bitsAt, BitVec.toNat_ofNat]; omega

theorem vxor (g : BitVec 4) (d : BitVec 6) (a : BitVec 6) (b : BitVec 6) (n : BitVec 1) : Statement (.vxor g d a b n) := by
  intro w hw g' hg; cases hg; simp only [encode, encodeNat, List.mem_singleton] at hw; subst hw
  simp only [tot, put, bitsAt, BitVec.toNat_ofNat]; omega

theorem vshl (g : BitVec 4) (d : BitVec 6) (a : BitVec 6) (b : BitVec 6) (n : BitVec 1) : Statement (.vshl g d a b n) := by
  intro w hw g' hg; cases hg; simp only [encode, encodeNat, List.mem_singleton] at hw; subst hw
  simp only [tot, put, bitsAt, BitVec.toNat_ofNat]; omega

theorem vshr (g : BitVec 4) (d : BitVec 6) (a : BitVec 6) (b : BitVec 6) (n : BitVec 1) : Statement (.vshr g d a b n) := by
  intro w hw g' hg; cases hg; simp only [encode, encodeNat, List.mem_singleton] at hw; subst hw
  simp only [tot, put, bitsAt, BitVec.toNat_ofNat]; omega

theorem vshra (g : BitVec 4) (d : BitVec 6) (a : BitVec 6) (b : BitVec 6) (n : BitVec 1) : Statement (.vshra g d a b n) := by
  intro w hw g' hg; cases hg; simp only [encode, encodeNat, List.mem_singleton] at hw; subst hw
  simp only [tot, put, bitsAt, BitVec.toNat_ofNat]; omega

theorem vminI32 (g : BitVec 4) (d : BitVec 6) (a : BitVec 6) (b : BitVec 6) (n : BitVec 1) : Statement (.vminI32 g d a b n) := by
  intro w hw g' hg; cases hg; simp only [encode, encodeNat, List.mem_singleton] at hw; subst hw
  simp only [tot, put, bitsAt, BitVec.toNat_ofNat]; omega

theorem vmaxI32 (g : BitVec 4) (d : BitVec 6) (a : BitVec 6) (b : BitVec 6) (n : BitVec 1) : Statement (.vmaxI32 g d a b n) := by
  intro w hw g' hg; cases hg; simp only [encode, encodeNat, List.mem_singleton] at hw; subst hw
  simp only [tot, put, bitsAt, BitVec.toNat_ofNat]; omega

theorem vlut3 (g : BitVec 4) (d : BitVec 6) (a : BitVec 6) (b : BitVec 6) (n : BitVec 1) : Statement (.vlut3 g d a b n) := by
  intro w hw g' hg; cases hg; simp only [encode, encodeNat, List.mem_singleton] at hw; subst hw
  simp only [tot, put, bitsAt, BitVec.toNat_ofNat]; omega

theorem vfsh (g : BitVec 4) (d : BitVec 6) (a : BitVec 6) (b : BitVec 6) (n : BitVec 1) : Statement (.vfsh g d a b n) := by
  intro w hw g' hg; cases hg; simp only [encode, encodeNat, List.mem_singleton] at hw; subst hw
  simp only [tot, put, bitsAt, BitVec.toNat_ofNat]; omega

theorem vcmpEq (g : BitVec 4) (d : BitVec 6) (a : BitVec 6) (b : BitVec 6) : Statement (.vcmpEq g d a b) := by
  intro w hw g' hg; cases hg; simp only [encode, encodeNat, List.mem_singleton] at hw; subst hw
  simp only [tot, put, bitsAt, BitVec.toNat_ofNat]; omega

theorem vcmpLt (g : BitVec 4) (d : BitVec 6) (a : BitVec 6) (b : BitVec 6) : Statement (.vcmpLt g d a b) := by
  intro w hw g' hg; cases hg; simp only [encode, encodeNat, List.mem_singleton] at hw; subst hw
  simp only [tot, put, bitsAt, BitVec.toNat_ofNat]; omega

theorem vcmpLtu (g : BitVec 4) (d : BitVec 6) (a : BitVec 6) (b : BitVec 6) : Statement (.vcmpLtu g d a b) := by
  intro w hw g' hg; cases hg; simp only [encode, encodeNat, List.mem_singleton] at hw; subst hw
  simp only [tot, put, bitsAt, BitVec.toNat_ofNat]; omega

theorem vcvtBf16F32 (g : BitVec 4) (d : BitVec 6) (a : BitVec 6) (b : BitVec 6) (n : BitVec 1) : Statement (.vcvtBf16F32 g d a b n) := by
  intro w hw g' hg; cases hg; simp only [encode, encodeNat, List.mem_singleton] at hw; subst hw
  simp only [tot, put, bitsAt, BitVec.toNat_ofNat]; omega

theorem vcvtF32Bf16 (g : BitVec 4) (d : BitVec 6) (a : BitVec 6) (h : BitVec 1) (n : BitVec 1) : Statement (.vcvtF32Bf16 g d a h n) := by
  intro w hw g' hg; cases hg; simp only [encode, encodeNat, List.mem_singleton] at hw; subst hw
  simp only [tot, put, bitsAt, BitVec.toNat_ofNat]; omega

theorem vcvtF32I32 (g : BitVec 4) (d : BitVec 6) (a : BitVec 6) (n : BitVec 1) : Statement (.vcvtF32I32 g d a n) := by
  intro w hw g' hg; cases hg; simp only [encode, encodeNat, List.mem_singleton] at hw; subst hw
  simp only [tot, put, bitsAt, BitVec.toNat_ofNat]; omega

theorem vcvtI32F32 (g : BitVec 4) (d : BitVec 6) (a : BitVec 6) (n : BitVec 1) : Statement (.vcvtI32F32 g d a n) := by
  intro w hw g' hg; cases hg; simp only [encode, encodeNat, List.mem_singleton] at hw; subst hw
  simp only [tot, put, bitsAt, BitVec.toNat_ofNat]; omega

theorem vcvtE4m3F32 (g : BitVec 4) (d : BitVec 6) (a : BitVec 6) (q : BitVec 2) (n : BitVec 1) : Statement (.vcvtE4m3F32 g d a q n) := by
  intro w hw g' hg; cases hg; simp only [encode, encodeNat, List.mem_singleton] at hw; subst hw
  simp only [tot, put, bitsAt, BitVec.toNat_ofNat]; omega

theorem vcvtF32E4m3 (g : BitVec 4) (d : BitVec 6) (a : BitVec 6) (q : BitVec 2) (n : BitVec 1) : Statement (.vcvtF32E4m3 g d a q n) := by
  intro w hw g' hg; cases hg; simp only [encode, encodeNat, List.mem_singleton] at hw; subst hw
  simp only [tot, put, bitsAt, BitVec.toNat_ofNat]; omega

theorem vqntE2m1 (g : BitVec 4) (d : BitVec 6) (a : BitVec 6) (q : BitVec 2) (n : BitVec 1) : Statement (.vqntE2m1 g d a q n) := by
  intro w hw g' hg; cases hg; simp only [encode, encodeNat, List.mem_singleton] at hw; subst hw
  simp only [tot, put, bitsAt, BitVec.toNat_ofNat]; omega

theorem vdqntE2m1 (g : BitVec 4) (d : BitVec 6) (a : BitVec 6) (q : BitVec 2) (n : BitVec 1) : Statement (.vdqntE2m1 g d a q n) := by
  intro w hw g' hg; cases hg; simp only [encode, encodeNat, List.mem_singleton] at hw; subst hw
  simp only [tot, put, bitsAt, BitVec.toNat_ofNat]; omega

theorem vmov (g : BitVec 4) (d : BitVec 6) (a : BitVec 6) (n : BitVec 1) : Statement (.vmov g d a n) := by
  intro w hw g' hg; cases hg; simp only [encode, encodeNat, List.mem_singleton] at hw; subst hw
  simp only [tot, put, bitsAt, BitVec.toNat_ofNat]; omega

theorem vbcast (g : BitVec 4) (d : BitVec 6) (s : BitVec 5) : Statement (.vbcast g d s) := by
  intro w hw g' hg; cases hg; simp only [encode, encodeNat, List.mem_singleton] at hw; subst hw
  simp only [tot, put, bitsAt, BitVec.toNat_ofNat]; omega

theorem vrot (g : BitVec 4) (d : BitVec 6) (a : BitVec 6) (i : BitVec 6) (n : BitVec 1) : Statement (.vrot g d a i n) := by
  intro w hw g' hg; cases hg; simp only [encode, encodeNat, List.mem_singleton] at hw; subst hw
  simp only [tot, put, bitsAt, BitVec.toNat_ofNat]; omega

theorem vperm (g : BitVec 4) (d : BitVec 6) (a : BitVec 6) (b : BitVec 6) (n : BitVec 1) : Statement (.vperm g d a b n) := by
  intro w hw g' hg; cases hg; simp only [encode, encodeNat, List.mem_singleton] at hw; subst hw
  simp only [tot, put, bitsAt, BitVec.toNat_ofNat]; omega

theorem vsel (g : BitVec 4) (d : BitVec 6) (a : BitVec 6) (b : BitVec 6) (n : BitVec 1) : Statement (.vsel g d a b n) := by
  intro w hw g' hg; cases hg; simp only [encode, encodeNat, List.mem_singleton] at hw; subst hw
  simp only [tot, put, bitsAt, BitVec.toNat_ofNat]; omega

theorem vld (g : BitVec 4) (d : BitVec 6) (s : BitVec 5) (o : BitVec 4) (c : BitVec 4) : Statement (.vld g d s o c) := by
  intro w hw g' hg; cases hg; simp only [encode, encodeNat, List.mem_singleton] at hw; subst hw
  simp only [tot, put, bitsAt, BitVec.toNat_ofNat]; omega

theorem vst (g : BitVec 4) (d : BitVec 6) (s : BitVec 5) (o : BitVec 4) (c : BitVec 4) : Statement (.vst g d s o c) := by
  intro w hw g' hg; cases hg; simp only [encode, encodeNat, List.mem_singleton] at hw; subst hw
  simp only [tot, put, bitsAt, BitVec.toNat_ofNat]; omega

theorem vldg (g : BitVec 4) (d : BitVec 6) (a : BitVec 6) (s : BitVec 5) (c : BitVec 2) : Statement (.vldg g d a s c) := by
  intro w hw g' hg; cases hg; simp only [encode, encodeNat, List.mem_singleton] at hw; subst hw
  simp only [tot, put, bitsAt, BitVec.toNat_ofNat]; omega

theorem vredAdd (g : BitVec 4) (d : BitVec 6) (a : BitVec 6) (s : BitVec 3) (n : BitVec 1) : Statement (.vredAdd g d a s n) := by
  intro w hw g' hg; cases hg; simp only [encode, encodeNat, List.mem_singleton] at hw; subst hw
  simp only [tot, put, bitsAt, BitVec.toNat_ofNat]; omega

theorem vredMax (g : BitVec 4) (d : BitVec 6) (a : BitVec 6) (s : BitVec 3) (n : BitVec 1) : Statement (.vredMax g d a s n) := by
  intro w hw g' hg; cases hg; simp only [encode, encodeNat, List.mem_singleton] at hw; subst hw
  simp only [tot, put, bitsAt, BitVec.toNat_ofNat]; omega

theorem vany (g : BitVec 4) (d : BitVec 6) (a : BitVec 6) : Statement (.vany g d a) := by
  intro w hw g' hg; cases hg; simp only [encode, encodeNat, List.mem_singleton] at hw; subst hw
  simp only [tot, put, bitsAt, BitVec.toNat_ofNat]; omega

theorem vpush (g : BitVec 4) (d : BitVec 6) (a : BitVec 6) : Statement (.vpush g d a) := by
  intro w hw g' hg; cases hg; simp only [encode, encodeNat, List.mem_singleton] at hw; subst hw
  simp only [tot, put, bitsAt, BitVec.toNat_ofNat]; omega

theorem vpushBal (g : BitVec 4) (d : BitVec 6) (a : BitVec 6) : Statement (.vpushBal g d a) := by
  intro w hw g' hg; cases hg; simp only [encode, encodeNat, List.mem_singleton] at hw; subst hw
  simp only [tot, put, bitsAt, BitVec.toNat_ofNat]; omega

theorem vpop (g : BitVec 4) (d : BitVec 6) (a : BitVec 6) (b : BitVec 6) (n : BitVec 1) : Statement (.vpop g d a b n) := by
  intro w hw g' hg; cases hg; simp only [encode, encodeNat, List.mem_singleton] at hw; subst hw
  simp only [tot, put, bitsAt, BitVec.toNat_ofNat]; omega

theorem kand (g : BitVec 4) (d : BitVec 6) (a : BitVec 6) (b : BitVec 6) : Statement (.kand g d a b) := by
  intro w hw g' hg; cases hg; simp only [encode, encodeNat, List.mem_singleton] at hw; subst hw
  simp only [tot, put, bitsAt, BitVec.toNat_ofNat]; omega

theorem kor (g : BitVec 4) (d : BitVec 6) (a : BitVec 6) (b : BitVec 6) : Statement (.kor g d a b) := by
  intro w hw g' hg; cases hg; simp only [encode, encodeNat, List.mem_singleton] at hw; subst hw
  simp only [tot, put, bitsAt, BitVec.toNat_ofNat]; omega

theorem knot (g : BitVec 4) (d : BitVec 6) (a : BitVec 6) : Statement (.knot g d a) := by
  intro w hw g' hg; cases hg; simp only [encode, encodeNat, List.mem_singleton] at hw; subst hw
  simp only [tot, put, bitsAt, BitVec.toNat_ofNat]; omega

theorem mload (g : BitVec 4) (a : BitVec 5) (b : BitVec 5) (c : BitVec 1) : Statement (.mload g a b c) := by
  intro w hw g' hg; cases hg; simp only [encode, encodeNat, List.mem_singleton] at hw; subst hw
  simp only [tot, put, bitsAt, BitVec.toNat_ofNat]; omega

theorem mloadt (g : BitVec 4) (a : BitVec 5) (b : BitVec 5) (c : BitVec 1) : Statement (.mloadt g a b c) := by
  intro w hw g' hg; cases hg; simp only [encode, encodeNat, List.mem_singleton] at hw; subst hw
  simp only [tot, put, bitsAt, BitVec.toNat_ofNat]; omega

theorem mmulE2m1 (g : BitVec 4) (t : BitVec 2) (a : BitVec 5) (b : BitVec 5) (c : BitVec 1) (k : BitVec 1) (u : BitVec 1) : Statement (.mmulE2m1 g t a b c k u) := by
  intro w hw g' hg; cases hg; simp only [encode, encodeNat, List.mem_singleton] at hw; subst hw
  simp only [tot, put, bitsAt, BitVec.toNat_ofNat]; omega

theorem mmulE4m3 (g : BitVec 4) (t : BitVec 2) (a : BitVec 5) (b : BitVec 5) (c : BitVec 1) (k : BitVec 1) (u : BitVec 1) : Statement (.mmulE4m3 g t a b c k u) := by
  intro w hw g' hg; cases hg; simp only [encode, encodeNat, List.mem_singleton] at hw; subst hw
  simp only [tot, put, bitsAt, BitVec.toNat_ofNat]; omega

theorem mmulE5m2 (g : BitVec 4) (t : BitVec 2) (a : BitVec 5) (b : BitVec 5) (c : BitVec 1) (k : BitVec 1) (u : BitVec 1) : Statement (.mmulE5m2 g t a b c k u) := by
  intro w hw g' hg; cases hg; simp only [encode, encodeNat, List.mem_singleton] at hw; subst hw
  simp only [tot, put, bitsAt, BitVec.toNat_ofNat]; omega

theorem mmulI8 (g : BitVec 4) (t : BitVec 2) (a : BitVec 5) (b : BitVec 5) (c : BitVec 1) (k : BitVec 1) (u : BitVec 1) : Statement (.mmulI8 g t a b c k u) := by
  intro w hw g' hg; cases hg; simp only [encode, encodeNat, List.mem_singleton] at hw; subst hw
  simp only [tot, put, bitsAt, BitVec.toNat_ofNat]; omega

theorem mmulBf16 (g : BitVec 4) (t : BitVec 2) (a : BitVec 5) (b : BitVec 5) (c : BitVec 1) (k : BitVec 1) (u : BitVec 1) : Statement (.mmulBf16 g t a b c k u) := by
  intro w hw g' hg; cases hg; simp only [encode, encodeNat, List.mem_singleton] at hw; subst hw
  simp only [tot, put, bitsAt, BitVec.toNat_ofNat]; omega

theorem mmulF16 (g : BitVec 4) (t : BitVec 2) (a : BitVec 5) (b : BitVec 5) (c : BitVec 1) (k : BitVec 1) (u : BitVec 1) : Statement (.mmulF16 g t a b c k u) := by
  intro w hw g' hg; cases hg; simp only [encode, encodeNat, List.mem_singleton] at hw; subst hw
  simp only [tot, put, bitsAt, BitVec.toNat_ofNat]; omega

theorem mmulg (g : BitVec 4) (t : BitVec 2) (a : BitVec 5) (b : BitVec 5) (f : BitVec 3) (c : BitVec 1) (k : BitVec 1) (u : BitVec 1) : Statement (.mmulg g t a b f c k u) := by
  intro w hw g' hg; cases hg; simp only [encode, encodeNat, List.mem_singleton] at hw; subst hw
  simp only [tot, put, bitsAt, BitVec.toNat_ofNat]; omega

theorem mgrp (g : BitVec 4) (t : BitVec 2) (a : BitVec 5) (b : BitVec 5) (f : BitVec 3) (c : BitVec 1) (k : BitVec 1) (u : BitVec 1) : Statement (.mgrp g t a b f c k u) := by
  intro w hw g' hg; cases hg; simp only [encode, encodeNat, List.mem_singleton] at hw; subst hw
  simp only [tot, put, bitsAt, BitVec.toNat_ofNat]; omega

theorem mconv (g : BitVec 4) (t : BitVec 2) (a : BitVec 5) (b : BitVec 5) (f : BitVec 3) (c : BitVec 1) (k : BitVec 1) (u : BitVec 1) : Statement (.mconv g t a b f c k u) := by
  intro w hw g' hg; cases hg; simp only [encode, encodeNat, List.mem_singleton] at hw; subst hw
  simp only [tot, put, bitsAt, BitVec.toNat_ofNat]; omega

theorem mscl (g : BitVec 4) (t : BitVec 2) (a : BitVec 5) (b : BitVec 5) (u : BitVec 1) : Statement (.mscl g t a b u) := by
  intro w hw g' hg; cases hg; simp only [encode, encodeNat, List.mem_singleton] at hw; subst hw
  simp only [tot, put, bitsAt, BitVec.toNat_ofNat]; omega

theorem mdrainF32 (g : BitVec 4) (t : BitVec 2) (a : BitVec 5) (b : BitVec 5) (k : BitVec 1) (z : BitVec 1) : Statement (.mdrainF32 g t a b k z) := by
  intro w hw g' hg; cases hg; simp only [encode, encodeNat, List.mem_singleton] at hw; subst hw
  simp only [tot, put, bitsAt, BitVec.toNat_ofNat]; omega

theorem mdrainBf16 (g : BitVec 4) (t : BitVec 2) (a : BitVec 5) (b : BitVec 5) (k : BitVec 1) (z : BitVec 1) : Statement (.mdrainBf16 g t a b k z) := by
  intro w hw g' hg; cases hg; simp only [encode, encodeNat, List.mem_singleton] at hw; subst hw
  simp only [tot, put, bitsAt, BitVec.toNat_ofNat]; omega

theorem mzero (g : BitVec 4) (t : BitVec 2) : Statement (.mzero g t) := by
  intro w hw g' hg; cases hg; simp only [encode, encodeNat, List.mem_singleton] at hw; subst hw
  simp only [tot, put, bitsAt, BitVec.toNat_ofNat]; omega

theorem mmode (g : BitVec 4) (a : BitVec 5) (b : BitVec 5) : Statement (.mmode g a b) := by
  intro w hw g' hg; cases hg; simp only [encode, encodeNat, List.mem_singleton] at hw; subst hw
  simp only [tot, put, bitsAt, BitVec.toNat_ofNat]; omega

theorem ckloc (g : BitVec 4) (t : BitVec 2) (a : BitVec 5) : Statement (.ckloc g t a) := by
  intro w hw g' hg; cases hg; simp only [encode, encodeNat, List.mem_singleton] at hw; subst hw
  simp only [tot, put, bitsAt, BitVec.toNat_ofNat]; omega

theorem ckfix (g : BitVec 4) (t : BitVec 2) : Statement (.ckfix g t) := by
  intro w hw g' hg; cases hg; simp only [encode, encodeNat, List.mem_singleton] at hw; subst hw
  simp only [tot, put, bitsAt, BitVec.toNat_ofNat]; omega

theorem ckinj (g : BitVec 4) (t : BitVec 2) (b : BitVec 5) : Statement (.ckinj g t b) := by
  intro w hw g' hg; cases hg; simp only [encode, encodeNat, List.mem_singleton] at hw; subst hw
  simp only [tot, put, bitsAt, BitVec.toNat_ofNat]; omega

theorem ckrd (g : BitVec 4) (t : BitVec 2) (a : BitVec 5) (b : BitVec 5) : Statement (.ckrd g t a b) := by
  intro w hw g' hg; cases hg; simp only [encode, encodeNat, List.mem_singleton] at hw; subst hw
  simp only [tot, put, bitsAt, BitVec.toNat_ofNat]; omega

theorem mrty (g : BitVec 4) (t : BitVec 2) : Statement (.mrty g t) := by
  intro w hw g' hg; cases hg; simp only [encode, encodeNat, List.mem_singleton] at hw; subst hw
  simp only [tot, put, bitsAt, BitVec.toNat_ofNat]; omega

theorem xcopy (g : BitVec 4) (a : BitVec 5) (b : BitVec 5) (c : BitVec 5) (l : BitVec 4) : Statement (.xcopy g a b c l) := by
  intro w hw g' hg; cases hg; simp only [encode, encodeNat, List.mem_singleton] at hw; subst hw
  simp only [tot, put, bitsAt, BitVec.toNat_ofNat]; omega

theorem xsend (g : BitVec 4) (a : BitVec 5) (b : BitVec 5) (l : BitVec 4) : Statement (.xsend g a b l) := by
  intro w hw g' hg; cases hg; simp only [encode, encodeNat, List.mem_singleton] at hw; subst hw
  simp only [tot, put, bitsAt, BitVec.toNat_ofNat]; omega

theorem xrecv (g : BitVec 4) (a : BitVec 5) (b : BitVec 5) (c : BitVec 5) (l : BitVec 4) : Statement (.xrecv g a b c l) := by
  intro w hw g' hg; cases hg; simp only [encode, encodeNat, List.mem_singleton] at hw; subst hw
  simp only [tot, put, bitsAt, BitVec.toNat_ofNat]; omega

theorem xjob (g : BitVec 4) (a : BitVec 5) (b : BitVec 5) : Statement (.xjob g a b) := by
  intro w hw g' hg; cases hg; simp only [encode, encodeNat, List.mem_singleton] at hw; subst hw
  simp only [tot, put, bitsAt, BitVec.toNat_ofNat]; omega

theorem xjobf (g : BitVec 4) (a : BitVec 5) (b : BitVec 5) : Statement (.xjobf g a b) := by
  intro w hw g' hg; cases hg; simp only [encode, encodeNat, List.mem_singleton] at hw; subst hw
  simp only [tot, put, bitsAt, BitVec.toNat_ofNat]; omega

theorem fence (g : BitVec 4) (s : BitVec 4) (m : BitVec 16) : Statement (.fence g s m) := by
  intro w hw g' hg; cases hg; simp only [encode, encodeNat, List.mem_singleton] at hw; subst hw
  simp only [tot, put, bitsAt, BitVec.toNat_ofNat]; omega

theorem tklend (g : BitVec 4) (a : BitVec 5) (b : BitVec 5) (s : BitVec 4) : Statement (.tklend g a b s) := by
  intro w hw g' hg; cases hg; simp only [encode, encodeNat, List.mem_singleton] at hw; subst hw
  simp only [tot, put, bitsAt, BitVec.toNat_ofNat]; omega

theorem tklendPass (g : BitVec 4) (a : BitVec 5) (b : BitVec 5) (s : BitVec 4) : Statement (.tklendPass g a b s) := by
  intro w hw g' hg; cases hg; simp only [encode, encodeNat, List.mem_singleton] at hw; subst hw
  simp only [tot, put, bitsAt, BitVec.toNat_ofNat]; omega

theorem tkshare (g : BitVec 4) (a : BitVec 5) (b : BitVec 5) (s : BitVec 4) : Statement (.tkshare g a b s) := by
  intro w hw g' hg; cases hg; simp only [encode, encodeNat, List.mem_singleton] at hw; subst hw
  simp only [tot, put, bitsAt, BitVec.toNat_ofNat]; omega

theorem tkshareRv (g : BitVec 4) (a : BitVec 5) (b : BitVec 5) (s : BitVec 4) : Statement (.tkshareRv g a b s) := by
  intro w hw g' hg; cases hg; simp only [encode, encodeNat, List.mem_singleton] at hw; subst hw
  simp only [tot, put, bitsAt, BitVec.toNat_ofNat]; omega

theorem tktake (g : BitVec 4) (a : BitVec 5) (b : BitVec 5) (s : BitVec 4) : Statement (.tktake g a b s) := by
  intro w hw g' hg; cases hg; simp only [encode, encodeNat, List.mem_singleton] at hw; subst hw
  simp only [tot, put, bitsAt, BitVec.toNat_ofNat]; omega

theorem tktakeSh (g : BitVec 4) (a : BitVec 5) (b : BitVec 5) (s : BitVec 4) : Statement (.tktakeSh g a b s) := by
  intro w hw g' hg; cases hg; simp only [encode, encodeNat, List.mem_singleton] at hw; subst hw
  simp only [tot, put, bitsAt, BitVec.toNat_ofNat]; omega

theorem tkret (g : BitVec 4) (a : BitVec 5) (s : BitVec 4) : Statement (.tkret g a s) := by
  intro w hw g' hg; cases hg; simp only [encode, encodeNat, List.mem_singleton] at hw; subst hw
  simp only [tot, put, bitsAt, BitVec.toNat_ofNat]; omega

theorem tkretSh (g : BitVec 4) (a : BitVec 5) (s : BitVec 4) : Statement (.tkretSh g a s) := by
  intro w hw g' hg; cases hg; simp only [encode, encodeNat, List.mem_singleton] at hw; subst hw
  simp only [tot, put, bitsAt, BitVec.toNat_ofNat]; omega

theorem tksplit (g : BitVec 4) (a : BitVec 5) (b : BitVec 5) : Statement (.tksplit g a b) := by
  intro w hw g' hg; cases hg; simp only [encode, encodeNat, List.mem_singleton] at hw; subst hw
  simp only [tot, put, bitsAt, BitVec.toNat_ofNat]; omega

theorem tkjoin (g : BitVec 4) (a : BitVec 5) (b : BitVec 5) : Statement (.tkjoin g a b) := by
  intro w hw g' hg; cases hg; simp only [encode, encodeNat, List.mem_singleton] at hw; subst hw
  simp only [tot, put, bitsAt, BitVec.toNat_ofNat]; omega

theorem tkqry (g : BitVec 4) (a : BitVec 5) (b : BitVec 5) (s : BitVec 4) : Statement (.tkqry g a b s) := by
  intro w hw g' hg; cases hg; simp only [encode, encodeNat, List.mem_singleton] at hw; subst hw
  simp only [tot, put, bitsAt, BitVec.toNat_ofNat]; omega

theorem tkqryBase (g : BitVec 4) (a : BitVec 5) (b : BitVec 5) (s : BitVec 4) : Statement (.tkqryBase g a b s) := by
  intro w hw g' hg; cases hg; simp only [encode, encodeNat, List.mem_singleton] at hw; subst hw
  simp only [tot, put, bitsAt, BitVec.toNat_ofNat]; omega

theorem tkqryAg (g : BitVec 4) (a : BitVec 5) (b : BitVec 5) (s : BitVec 4) : Statement (.tkqryAg g a b s) := by
  intro w hw g' hg; cases hg; simp only [encode, encodeNat, List.mem_singleton] at hw; subst hw
  simp only [tot, put, bitsAt, BitVec.toNat_ofNat]; omega

theorem tkmint (g : BitVec 4) (a : BitVec 5) (b : BitVec 5) : Statement (.tkmint g a b) := by
  intro w hw g' hg; cases hg; simp only [encode, encodeNat, List.mem_singleton] at hw; subst hw
  simp only [tot, put, bitsAt, BitVec.toNat_ofNat]; omega

theorem tkmintNew (g : BitVec 4) (a : BitVec 5) (b : BitVec 5) : Statement (.tkmintNew g a b) := by
  intro w hw g' hg; cases hg; simp only [encode, encodeNat, List.mem_singleton] at hw; subst hw
  simp only [tot, put, bitsAt, BitVec.toNat_ofNat]; omega

theorem barm (g : BitVec 4) (a : BitVec 5) (b : BitVec 5) : Statement (.barm g a b) := by
  intro w hw g' hg; cases hg; simp only [encode, encodeNat, List.mem_singleton] at hw; subst hw
  simp only [tot, put, bitsAt, BitVec.toNat_ofNat]; omega

theorem barmFree (g : BitVec 4) (a : BitVec 5) : Statement (.barmFree g a) := by
  intro w hw g' hg; cases hg; simp only [encode, encodeNat, List.mem_singleton] at hw; subst hw
  simp only [tot, put, bitsAt, BitVec.toNat_ofNat]; omega

theorem barr (g : BitVec 4) (a : BitVec 5) (s : BitVec 4) : Statement (.barr g a s) := by
  intro w hw g' hg; cases hg; simp only [encode, encodeNat, List.mem_singleton] at hw; subst hw
  simp only [tot, put, bitsAt, BitVec.toNat_ofNat]; omega

theorem barrQ (g : BitVec 4) (a : BitVec 5) (b : BitVec 5) (s : BitVec 4) : Statement (.barrQ g a b s) := by
  intro w hw g' hg; cases hg; simp only [encode, encodeNat, List.mem_singleton] at hw; subst hw
  simp only [tot, put, bitsAt, BitVec.toNat_ofNat]; omega

theorem bwait (g : BitVec 4) (a : BitVec 5) (b : BitVec 5) (s : BitVec 4) : Statement (.bwait g a b s) := by
  intro w hw g' hg; cases hg; simp only [encode, encodeNat, List.mem_singleton] at hw; subst hw
  simp only [tot, put, bitsAt, BitVec.toNat_ofNat]; omega

theorem realign (g : BitVec 4) (a : BitVec 5) (b : BitVec 5) (s : BitVec 4) : Statement (.realign g a b s) := by
  intro w hw g' hg; cases hg; simp only [encode, encodeNat, List.mem_singleton] at hw; subst hw
  simp only [tot, put, bitsAt, BitVec.toNat_ofNat]; omega

theorem srdef (g : BitVec 4) (a : BitVec 5) (b : BitVec 5) : Statement (.srdef g a b) := by
  intro w hw g' hg; cases hg; simp only [encode, encodeNat, List.mem_singleton] at hw; subst hw
  simp only [tot, put, bitsAt, BitVec.toNat_ofNat]; omega

theorem srkill (g : BitVec 4) (a : BitVec 5) : Statement (.srkill g a) := by
  intro w hw g' hg; cases hg; simp only [encode, encodeNat, List.mem_singleton] at hw; subst hw
  simp only [tot, put, bitsAt, BitVec.toNat_ofNat]; omega

theorem badd (g : BitVec 4) (a : BitVec 5) (b : BitVec 5) (d : BitVec 5) (t : BitVec 1) (u : BitVec 1) : Statement (.badd g a b d t u) := by
  intro w hw g' hg; cases hg; simp only [encode, encodeNat, List.mem_singleton] at hw; subst hw
  simp only [tot, put, bitsAt, BitVec.toNat_ofNat]; omega

theorem bsub (g : BitVec 4) (a : BitVec 5) (b : BitVec 5) (d : BitVec 5) (t : BitVec 1) (u : BitVec 1) : Statement (.bsub g a b d t u) := by
  intro w hw g' hg; cases hg; simp only [encode, encodeNat, List.mem_singleton] at hw; subst hw
  simp only [tot, put, bitsAt, BitVec.toNat_ofNat]; omega

theorem bmul (g : BitVec 4) (a : BitVec 5) (b : BitVec 5) (d : BitVec 5) (t : BitVec 1) (u : BitVec 1) : Statement (.bmul g a b d t u) := by
  intro w hw g' hg; cases hg; simp only [encode, encodeNat, List.mem_singleton] at hw; subst hw
  simp only [tot, put, bitsAt, BitVec.toNat_ofNat]; omega

theorem bmac (g : BitVec 4) (a : BitVec 5) (b : BitVec 5) (d : BitVec 5) (t : BitVec 1) (u : BitVec 1) : Statement (.bmac g a b d t u) := by
  intro w hw g' hg; cases hg; simp only [encode, encodeNat, List.mem_singleton] at hw; subst hw
  simp only [tot, put, bitsAt, BitVec.toNat_ofNat]; omega

theorem bcmp (g : BitVec 4) (a : BitVec 5) (b : BitVec 5) (d : BitVec 5) (v : BitVec 1) (c : BitVec 2) : Statement (.bcmp g a b d v c) := by
  intro w hw g' hg; cases hg; simp only [encode, encodeNat, List.mem_singleton] at hw; subst hw
  simp only [tot, put, bitsAt, BitVec.toNat_ofNat]; omega

theorem blog (g : BitVec 4) (a : BitVec 5) (b : BitVec 5) (d : BitVec 5) (t : BitVec 4) : Statement (.blog g a b d t) := by
  intro w hw g' hg; cases hg; simp only [encode, encodeNat, List.mem_singleton] at hw; subst hw
  simp only [tot, put, bitsAt, BitVec.toNat_ofNat]; omega

theorem bsum (g : BitVec 4) (a : BitVec 5) (d : BitVec 5) (t : BitVec 1) (u : BitVec 1) : Statement (.bsum g a d t u) := by
  intro w hw g' hg; cases hg; simp only [encode, encodeNat, List.mem_singleton] at hw; subst hw
  simp only [tot, put, bitsAt, BitVec.toNat_ofNat]; omega

theorem looseWaitEnd (bank : Nat) : Statement (.looseWaitEnd bank) := by
  intro w hw g hg; cases hg

theorem mQueueIssue (row : Nat) (win : Nat) : Statement (.mQueueIssue row win) := by
  intro w hw g hg; cases hg

theorem bQueueIssue (row : Nat) : Statement (.bQueueIssue row) := by
  intro w hw g hg; cases hg

theorem resultLand (l : Landing) : Statement (.resultLand l) := by
  intro w hw g hg; cases hg

theorem accessPerform (a : Access) : Statement (.accessPerform a) := by
  intro w hw g hg; cases hg

theorem pagerRelease (pf : Nat) : Statement (.pagerRelease pf) := by
  intro w hw g hg; cases hg

theorem bankedOutReturn (bank : Nat) : Statement (.bankedOutReturn bank) := by
  intro w hw g hg; cases hg

theorem freezeRelease (g : Nat) : Statement (.freezeRelease g) := by
  intro w hw g hg; cases hg

theorem interruptTaken (bank : Nat) : Statement (.interruptTaken bank) := by
  intro w hw g hg; cases hg

theorem interruptTimerExpiry (bank : Nat) : Statement (.interruptTimerExpiry bank) := by
  intro w hw g hg; cases hg

theorem phaseRestart (g : Nat) : Statement (.phaseRestart g) := by
  intro w hw g hg; cases hg

theorem queueEnable (blk : Nat) : Statement (.queueEnable blk) := by
  intro w hw g hg; cases hg

theorem queueRestart (q : Nat) (ci : Nat) : Statement (.queueRestart q ci) := by
  intro w hw g hg; cases hg

theorem contextOpen (blk : Nat) : Statement (.contextOpen blk) := by
  intro w hw g hg; cases hg

theorem waveRelease (w : Nat) : Statement (.waveRelease w) := by
  intro w hw g hg; cases hg

theorem kernelComplete (k : Nat) : Statement (.kernelComplete k) := by
  intro w hw g hg; cases hg

theorem yieldRequestPost (g : Nat) (d : Nat) : Statement (.yieldRequestPost g d) := by
  intro w hw g hg; cases hg

theorem yieldRequestArm (g : Nat) (z : Nat) (d : Nat) : Statement (.yieldRequestArm g z d) := by
  intro w hw g hg; cases hg

theorem yieldDeadlineExpiry (g : Nat) : Statement (.yieldDeadlineExpiry g) := by
  intro w hw g hg; cases hg

theorem shootdownPost (k : Nat) (chg : List WChange) : Statement (.shootdownPost k chg) := by
  intro w hw g hg; cases hg

theorem shootdownAck (k : Nat) (z : Nat) : Statement (.shootdownAck k z) := by
  intro w hw g hg; cases hg

theorem shootdownUpdate (k : Nat) : Statement (.shootdownUpdate k) := by
  intro w hw g hg; cases hg

theorem timerArm (bank : Nat) (kc : Nat) : Statement (.timerArm bank kc) := by
  intro w hw g hg; cases hg

theorem runtimeMessagePost (bank : Nat) (payload : Nat) : Statement (.runtimeMessagePost bank payload) := by
  intro w hw g hg; cases hg

theorem hostWindowTableRegister (c : Nat) (addr : Nat) (n : Nat) : Statement (.hostWindowTableRegister c addr n) := by
  intro w hw g hg; cases hg

theorem realignStop (g : Nat) (z : Nat) : Statement (.realignStop g z) := by
  intro w hw g hg; cases hg

theorem realignRelease (g : Nat) : Statement (.realignRelease g) := by
  intro w hw g hg; cases hg

theorem realignTimeout (bank : Nat) : Statement (.realignTimeout bank) := by
  intro w hw g hg; cases hg

theorem handoffRelease (h : Handoff) : Statement (.handoffRelease h) := by
  intro w hw g hg; cases hg

theorem handoffArrival (h : Handoff) : Statement (.handoffArrival h) := by
  intro w hw g hg; cases hg

theorem tktakeTimeout (id : Nat) (share : Bool) : Statement (.tktakeTimeout id share) := by
  intro w hw g hg; cases hg

theorem jobStart (job : Nat) : Statement (.jobStart job) := by
  intro w hw g hg; cases hg

theorem jobUnpark (job : Nat) : Statement (.jobUnpark job) := by
  intro w hw g hg; cases hg

theorem jobComplete (job : Nat) : Statement (.jobComplete job) := by
  intro w hw g hg; cases hg

theorem messageArrival (m : Message) : Statement (.messageArrival m) := by
  intro w hw g hg; cases hg

theorem xrecvTimeout (id : Nat) : Statement (.xrecvTimeout id) := by
  intro w hw g hg; cases hg

theorem orphanMessageTimeout (chan : Nat) (serial : Nat) : Statement (.orphanMessageTimeout chan serial) := by
  intro w hw g hg; cases hg

theorem chainPartialArrival (p : Partial) : Statement (.chainPartialArrival p) := by
  intro w hw g hg; cases hg

theorem barmArrival (m : BarmMsg) : Statement (.barmArrival m) := by
  intro w hw g hg; cases hg

theorem barrierEvent (e : BarEvent) : Statement (.barrierEvent e) := by
  intro w hw g hg; cases hg

theorem barrierNotice (n : BarNotice) : Statement (.barrierNotice n) := by
  intro w hw g hg; cases hg

theorem bwaitDeadline (idx : Nat) (trips : Nat) : Statement (.bwaitDeadline idx trips) := by
  intro w hw g hg; cases hg

theorem flitReceive (link : Nat) (f : Flit) : Statement (.flitReceive link f) := by
  intro w hw g hg; cases hg

theorem linkTrainingDone (link : Nat) (failed : Nat) (passed : Bool) : Statement (.linkTrainingDone link failed passed) := by
  intro w hw g hg; cases hg

theorem lstatRplyClear (link : Nat) (ones : BitVec 32) : Statement (.lstatRplyClear link ones) := by
  intro w hw g hg; cases hg

theorem hostMemAccess (a : HostAcc) : Statement (.hostMemAccess a) := by
  intro w hw g hg; cases hg

theorem packageNumberSet (n : Nat) (east : Nat) : Statement (.packageNumberSet n east) := by
  intro w hw g hg; cases hg

theorem firmwareUpdate (image : List Byte) (sig : List Byte) : Statement (.firmwareUpdate image sig) := by
  intro w hw g hg; cases hg

theorem elogRdWrite (slot : Nat) : Statement (.elogRdWrite slot) := by
  intro w hw g hg; cases hg

theorem elogLostClear (ones : BitVec 32) : Statement (.elogLostClear ones) := by
  intro w hw g hg; cases hg

theorem managementPathTkmint (fresh : Bool) (val : Dword) : Statement (.managementPathTkmint fresh val) := by
  intro w hw g hg; cases hg

theorem managementPathBarrierArm (m : BarmMsg) : Statement (.managementPathBarrierArm m) := by
  intro w hw g hg; cases hg

theorem managementPathBarrierFree (idx : Nat) : Statement (.managementPathBarrierFree idx) := by
  intro w hw g hg; cases hg

theorem rett : Statement .rett := by
  intro w hw g hg; cases hg

theorem node0 : Statement .node0 := by
  intro w hw g hg; cases hg

theorem node1 : Statement .node1 := by
  intro w hw g hg; cases hg

theorem node2 : Statement .node2 := by
  intro w hw g hg; cases hg

theorem yield : Statement .yield := by
  intro w hw g hg; cases hg

theorem checkerMismatch : Statement .checkerMismatch := by
  intro w hw g hg; cases hg

theorem refreshSlot : Statement .refreshSlot := by
  intro w hw g hg; cases hg

theorem frameEnd : Statement .frameEnd := by
  intro w hw g hg; cases hg

theorem framePulse : Statement .framePulse := by
  intro w hw g hg; cases hg

theorem launch : Statement .launch := by
  intro w hw g hg; cases hg

theorem fencePacket : Statement .fencePacket := by
  intro w hw g hg; cases hg

theorem fencePoll : Statement .fencePoll := by
  intro w hw g hg; cases hg

theorem signal : Statement .signal := by
  intro w hw g hg; cases hg

theorem jobPacket : Statement .jobPacket := by
  intro w hw g hg; cases hg

theorem tokenMint : Statement .tokenMint := by
  intro w hw g hg; cases hg

theorem tokenLend : Statement .tokenLend := by
  intro w hw g hg; cases hg

theorem tokenPass : Statement .tokenPass := by
  intro w hw g hg; cases hg

theorem tokenReturn : Statement .tokenReturn := by
  intro w hw g hg; cases hg

theorem nop : Statement .nop := by
  intro w hw g hg; cases hg

theorem queueLevelAging : Statement .queueLevelAging := by
  intro w hw g hg; cases hg

theorem queueDisable : Statement .queueDisable := by
  intro w hw g hg; cases hg

theorem contextClose : Statement .contextClose := by
  intro w hw g hg; cases hg

theorem contextFree : Statement .contextFree := by
  intro w hw g hg; cases hg

theorem placeWave : Statement .placeWave := by
  intro w hw g hg; cases hg

theorem gateRequest : Statement .gateRequest := by
  intro w hw g hg; cases hg

theorem drainingQuiet : Statement .drainingQuiet := by
  intro w hw g hg; cases hg

theorem gateCounterExpiry : Statement .gateCounterExpiry := by
  intro w hw g hg; cases hg

theorem wakeRequest : Statement .wakeRequest := by
  intro w hw g hg; cases hg

theorem wakeComplete : Statement .wakeComplete := by
  intro w hw g hg; cases hg

theorem stackOffline : Statement .stackOffline := by
  intro w hw g hg; cases hg

theorem forcedOffline : Statement .forcedOffline := by
  intro w hw g hg; cases hg

theorem debuggerHalt : Statement .debuggerHalt := by
  intro w hw g hg; cases hg

theorem debuggerResume : Statement .debuggerResume := by
  intro w hw g hg; cases hg

theorem coreCountClear : Statement .coreCountClear := by
  intro w hw g hg; cases hg

theorem replayComplete : Statement .replayComplete := by
  intro w hw g hg; cases hg

theorem retrainTimeout : Statement .retrainTimeout := by
  intro w hw g hg; cases hg

theorem linkRetrainRequest : Statement .linkRetrainRequest := by
  intro w hw g hg; cases hg

theorem linkRetireRequest : Statement .linkRetireRequest := by
  intro w hw g hg; cases hg

theorem linkReset : Statement .linkReset := by
  intro w hw g hg; cases hg

theorem powerUp : Statement .powerUp := by
  intro w hw g hg; cases hg

theorem measurementRequest : Statement .measurementRequest := by
  intro w hw g hg; cases hg

theorem temperatureHigh : Statement .temperatureHigh := by
  intro w hw g hg; cases hg

theorem temperatureNormal : Statement .temperatureNormal := by
  intro w hw g hg; cases hg

theorem malformedPacket : Statement .malformedPacket := by
  intro w hw g hg; cases hg

end Sys2Proof.Laws.Encoded
end

