-- ==== Sys2Proof/Machine/Tables.lean ====
section
/-! DEFINITION. The tables that the hub keeps in its SRAM as the management path reads them, little-endian (R2): an entry of the token table (R221), a
barrier (R348) and a record of the error log (R384). Reserved fields read zero (R3). -/

namespace Sys2Proof.Machine

/-- The 32 bytes of a token entry (R221); the base is a global physical address of package `pkg`. -/
def tokenBytes (pkg : Nat) (t : Token) : List Byte :=
  leBytes 8 (t.gen % 2 ^ 12 + (pkg * 2 ^ 48 + t.base) / 4096 % 2 ^ 40 * 2 ^ 12 + t.size % 64 * 2 ^ 54 + tokCode t.st * 2 ^ 60) ++
    leBytes 4 t.holder ++ leBytes 4 t.lender ++ leBytes 4 t.target ++ leBytes 2 (t.shares % 2 ^ 12) ++ leBytes 1 t.ctx ++ leBytes 1 (t.hscope % 16) ++ zeros 8

/-- The 32 bytes of a barrier (R348). -/
def barrierBytes (x : Barrier) : List Byte :=
  leBytes 8 (x.arr % 2 ^ 16 + x.pending % 2 ^ 40 * 2 ^ 16 + (if x.phase then 2 ^ 60 else 0) + x.state % 8 * 2 ^ 61) ++
    leBytes 8 (x.bytes % 2 ^ 40 + x.n % 2 ^ 16 * 2 ^ 40 + x.ctx % 2 ^ 8 * 2 ^ 56) ++ leBytes 8 ((if x.sig then 1 else 0) + x.c % 2 ^ 22 * 2) ++ leBytes 8 x.trips

/-- The 64 bytes of a record of the error log (R384). -/
def logBytes (r : LogRec) : List Byte :=
  leBytes 4 r.seq ++ leBytes 1 r.src ++ leBytes 1 (r.sev % 4) ++ zeros 2 ++ leBytes 8 r.hkc ++ leBytes 4 r.tag ++ leBytes 1 r.ctx ++ zeros 3 ++ leBytes 8 r.det ++
    (match r.frec with | some f => frecBytes f | none => zeros 32)

/-- The image of the token table at entry `i` (R221). -/
def tokenImage (s : State) (i : Nat) : List Byte := tokenBytes s.dev.pkg (tokenOf s i)

/-- The image of a barrier (R348). -/
def barrierImage (s : State) (i : Nat) : List Byte := barrierBytes (barrierOf s i)

/-- The image of a slot of the error log (R384); one that no record has taken yet has none. -/
def logImage (s : State) (slot : Nat) : Option (List Byte) := (Sparse.find s.elog slot).map logBytes

end Sys2Proof.Machine
end

