-- ==== Sys2Proof/Tests/Slice0.lean ====
section
/-! SUPPORT. Tests: words decode as the spec's tables write them, ill-formed words are refused, single instructions on a small state, and for every
statement that has hypotheses a state and operands that meet them. Expected values are worked out by hand from the spec. -/

namespace Sys2Proof.Tests

open Sys2Proof Sys2Proof.Machine

set_option Elab.async false

/-- A pinned page of 2 MiB with R and W at 0x40000000: the first of stack 0's DRAM (R277). -/
def page : WEntry := { lo := 0xA000000040000023, hi := 0x0000008000000000 }

/-- An own entry for the page's region: token 1 of generation 1. -/
def entry : HeldTok := { id := 0x10001, base := 0x8000000000, size := 21, mode := .own, dirty := false, leaving := false, spad := false }

/-- Bank 0: a strand of group 1 with some registers. -/
def strand0 : Strand :=
  { Strand.empty with st := .running, prev := .running, grp := 1, s := [(1, 7), (2, 0xFFFFFFFFFFFFFFFD), (3, 0x40000000)], held := [entry] }

/-- A package that runs one timed group in row 0 of stack 0, its strand's word executing. -/
def lab : State :=
  { State.reset with
    agenda := [], dev := { Device.off with powered := true, ready := true, step := 4 }, banks := [(0, strand0)], groups := [(1, loadGroup)],
    kernels := [(1, { loadKernel with table := [page] })], rows := [(0, { Row.empty with pwr := .on })],
    stackTab := [(0, { Stack.empty with images := [(1, { base := 0, size := 0x1000 })], tables := [(1, [page])] })],
    tokens := [(1, { Token.free with st := .owned, size := 21, base := 0x8000000000, gen := 1, holder := 0x80 })],
    cur := { Ctx.none with grp := 1, waddr := 4, nxt := 8, tbl := [page] } }

/-- The lab with another strand in bank 0. -/
def withStrand (t : Strand) : State := { lab with banks := [(0, t)] }

/-- The lab with another context of the executing word. -/
def withCur (c : Ctx) : State := { lab with cur := c }

/-- The state that an instruction answers. -/
def after (i : Instr) (s : State) : State := match exec i s with | .next t => t | _ => s

/-- What the last entry of the agenda is, and its kc. -/
def posted (s : State) : Option (Nat × Pay) := s.agenda.getLast?.map (fun e => (e.at_, e.pay))

/-- A scalar result that lands. -/
def landing (t r : Nat) (v : Dword) (f : BitVec 8) : Option (Nat × Pay) := some (t, .ev (.resultLand { kind := .regs [.s r v], flags := f }))
/-- The lab with a second strand of the group, in row 1. -/
def pair : State :=
  { lab with banks := [(0, strand0), (2, { strand0 with grow := 1, held := [] })], rows := [(0, { Row.empty with pwr := .on }), (1, { Row.empty with pwr := .on })],
             groups := [(1, { loadGroup with rR := 2 })] }

theorem test_decode_p : decodeTableWord 32 0xC005A005 = some (.packetHeader 5 5 5) := rfl

theorem test_decode_c0 :
    decodeTableWord 32 0x0C088640 = some (.add 6 2 3 4) ∧
    decodeTableWord 32 0x0C088641 = some (.sub 6 2 3 4) ∧
    decodeTableWord 32 0x0C088642 = some (.and 6 2 3 4) ∧
    decodeTableWord 32 0x0C088643 = some (.or 6 2 3 4) ∧
    decodeTableWord 32 0x0C088644 = some (.xor 6 2 3 4) ∧
    decodeTableWord 32 0x0C088645 = some (.shl 6 2 3 4) ∧
    decodeTableWord 32 0x0C088646 = some (.shr 6 2 3 4) ∧
    decodeTableWord 32 0x0C088647 = some (.shra 6 2 3 4) ∧
    decodeTableWord 32 0x0C088648 = some (.min 6 2 3 4) ∧
    decodeTableWord 32 0x0C088649 = some (.max 6 2 3 4) ∧
    decodeTableWord 32 0x0C08860A = some (.clz 6 2 3) ∧
    decodeTableWord 32 0x0C08860B = some (.popc 6 2 3) ∧
    decodeTableWord 32 0x0C108640 = some (.mul 6 2 3 4) ∧
    decodeTableWord 32 0x0C108641 = some (.mulh 6 2 3 4) ∧
    decodeTableWord 32 0x0C108642 = some (.mulhu 6 2 3 4) ∧
    decodeTableWord 32 0x0C108643 = some (.div 6 2 3 4) ∧
    decodeTableWord 32 0x0C108644 = some (.divu 6 2 3 4) ∧
    decodeTableWord 32 0x0C108645 = some (.rem 6 2 3 4) ∧
    decodeTableWord 32 0x0C108646 = some (.remu 6 2 3 4) ∧
    decodeTableWord 32 0x0C188640 = some (.cmpEq 6 2 3 4) := by
  refine ⟨rfl, rfl, rfl, rfl, rfl, rfl, rfl, rfl, rfl, rfl, rfl, rfl, rfl, rfl, rfl, rfl, rfl, rfl, rfl, rfl⟩

theorem test_decode_c1 :
    decodeTableWord 32 0x0C188641 = some (.cmpLt 6 2 3 4) ∧
    decodeTableWord 32 0x0C188642 = some (.cmpLtu 6 2 3 4) ∧
    decodeTableWord 32 0x0C188643 = some (.cmpLe 6 2 3 4) ∧
    decodeTableWord 32 0x0C188644 = some (.cmpLeu 6 2 3 4) ∧
    decodeTableWord 32 0x0C208640 = some (.pand 6 2 3 4) ∧
    decodeTableWord 32 0x0C208641 = some (.por 6 2 3 4) ∧
    decodeTableWord 32 0x0C208642 = some (.pxor 6 2 3 4) ∧
    decodeTableWord 32 0x0C208643 = some (.pandn 6 2 3 4) ∧
    decodeTableWord 32 0x0C288600 = some (.jr 6 2 3) ∧
    decodeTableWord 32 0x0C408605 = some (.addi 6 2 3 5) ∧
    decodeTableWord 32 0x0C488605 = some (.andi 6 2 3 5) ∧
    decodeTableWord 32 0x0C508605 = some (.ori 6 2 3 5) ∧
    decodeTableWord 32 0x0C588605 = some (.xori 6 2 3 5) ∧
    decodeTableWord 32 0x0C608605 = some (.shli 6 2 3 5) ∧
    decodeTableWord 32 0x0C688605 = some (.shri 6 2 3 5) ∧
    decodeTableWord 32 0x0C708605 = some (.shrai 6 2 3 5) ∧
    decodeTableWord 32 0x0C788605 = some (.cmpiEq 6 2 3 5) ∧
    decodeTableWord 32 0x0C808605 = some (.cmpiLt 6 2 3 5) ∧
    decodeTableWord 32 0x0C888605 = some (.cmpiLtu 6 2 3 5) ∧
    decodeTableWord 32 0x0CA00005 = some (.br 6 5) := by
  refine ⟨rfl, rfl, rfl, rfl, rfl, rfl, rfl, rfl, rfl, rfl, rfl, rfl, rfl, rfl, rfl, rfl, rfl, rfl, rfl, rfl⟩

theorem test_decode_c2 :
    decodeTableWord 32 0x0CA80005 = some (.call 6 5) ∧
    decodeTableWord 32 0x00B0C005 = some (.loop 3 5) ∧
    decodeTableWord 32 0x00B80A05 = some (.loopi 5 5) ∧
    decodeTableWord 32 0x0CC146A5 = some (.ldB 6 5 3 5 5) ∧
    decodeTableWord 32 0x0CC946A5 = some (.ldBu 6 5 3 5 5) ∧
    decodeTableWord 32 0x0CD146A5 = some (.ldH 6 5 3 5 5) ∧
    decodeTableWord 32 0x0CD946A5 = some (.ldHu 6 5 3 5 5) ∧
    decodeTableWord 32 0x0CE146A5 = some (.ldW 6 5 3 5 5) ∧
    decodeTableWord 32 0x0CE946A5 = some (.ldWu 6 5 3 5 5) ∧
    decodeTableWord 32 0x0CF146A5 = some (.ldD 6 5 3 5 5) ∧
    decodeTableWord 32 0x0D0146A5 = some (.stB 6 5 3 5 5) ∧
    decodeTableWord 32 0x0D0946A5 = some (.stH 6 5 3 5 5) ∧
    decodeTableWord 32 0x0D1146A5 = some (.stW 6 5 3 5 5) ∧
    decodeTableWord 32 0x0D1946A5 = some (.stD 6 5 3 5 5) ∧
    decodeTableWord 32 0x0D208645 = some (.amoAdd 6 2 3 4 5) ∧
    decodeTableWord 32 0x0D288645 = some (.amoAnd 6 2 3 4 5) ∧
    decodeTableWord 32 0x0D308645 = some (.amoOr 6 2 3 4 5) ∧
    decodeTableWord 32 0x0D388645 = some (.amoMax 6 2 3 4 5) ∧
    decodeTableWord 32 0x0D408645 = some (.amoSwap 6 2 3 4 5) ∧
    decodeTableWord 32 0x0D488645 = some (.amoCas 6 2 3 4 5) := by
  refine ⟨rfl, rfl, rfl, rfl, rfl, rfl, rfl, rfl, rfl, rfl, rfl, rfl, rfl, rfl, rfl, rfl, rfl, rfl, rfl, rfl⟩

theorem test_decode_c3 :
    decodeTableWord 32 0x0D808014 = some (.csrr 6 2 5) ∧
    decodeTableWord 32 0x0D888048 = some (.csrw 6 2 18) ∧
    decodeTableWord 32 0x0D908048 = some (.csrs 6 2 18) ∧
    decodeTableWord 32 0x0D988048 = some (.csrc 6 2 18) ∧
    decodeTableWord 32 0x0DC00000 = some (.trapEnd 6) ∧
    decodeTableWord 32 0x0DC00005 = some (.trapService 6 5) ∧
    decodeTableWord 32 0x01C80000 = some .rett ∧
    decodeTableWord 32 0x0DD00000 = some (.tfence 6) ∧
    decodeTableWord 32 0x01D80000 = some .node0 ∧
    decodeTableWord 32 0x01D80001 = some .node1 ∧
    decodeTableWord 32 0x01D80002 = some .node2 ∧
    decodeTableWord 32 0x01E00000 = some .yield := by
  refine ⟨rfl, rfl, rfl, rfl, rfl, rfl, rfl, rfl, rfl, rfl, rfl, rfl⟩

theorem test_decode_v0 :
    decodeTableWord 32 0x2C084189 = some (.vfaddF32 6 2 3 4 1) ∧
    decodeTableWord 32 0x2C104189 = some (.vfaddBf16 6 2 3 4 1) ∧
    decodeTableWord 32 0x2C184189 = some (.vfsubF32 6 2 3 4 1) ∧
    decodeTableWord 32 0x2C204189 = some (.vfsubBf16 6 2 3 4 1) ∧
    decodeTableWord 32 0x2C284189 = some (.vfmulF32 6 2 3 4 1) ∧
    decodeTableWord 32 0x2C304189 = some (.vfmulBf16 6 2 3 4 1) ∧
    decodeTableWord 32 0x2C384189 = some (.vfmaF32 6 2 3 4 1) ∧
    decodeTableWord 32 0x2C404189 = some (.vfmaBf16 6 2 3 4 1) ∧
    decodeTableWord 32 0x2C484189 = some (.vfmaxF32 6 2 3 4 1) ∧
    decodeTableWord 32 0x2C504189 = some (.vfminF32 6 2 3 4 1) ∧
    decodeTableWord 32 0x2C584181 = some (.vfrcp 6 2 3 1) ∧
    decodeTableWord 32 0x2C604181 = some (.vfrsq 6 2 3 1) ∧
    decodeTableWord 32 0x2C684181 = some (.vfexp2 6 2 3 1) ∧
    decodeTableWord 32 0x2C704188 = some (.vfcmpEq 6 2 3 4) ∧
    decodeTableWord 32 0x2C784188 = some (.vfcmpLt 6 2 3 4) ∧
    decodeTableWord 32 0x2C804188 = some (.vfcmpLe 6 2 3 4) ∧
    decodeTableWord 32 0x2C884189 = some (.vaddI32 6 2 3 4 1) ∧
    decodeTableWord 32 0x2C904189 = some (.vaddI16 6 2 3 4 1) ∧
    decodeTableWord 32 0x2C984189 = some (.vsubI32 6 2 3 4 1) ∧
    decodeTableWord 32 0x2CA04189 = some (.vmulI32 6 2 3 4 1) := by
  refine ⟨rfl, rfl, rfl, rfl, rfl, rfl, rfl, rfl, rfl, rfl, rfl, rfl, rfl, rfl, rfl, rfl, rfl, rfl, rfl, rfl⟩

theorem test_decode_v1 :
    decodeTableWord 32 0x2CA84189 = some (.vand 6 2 3 4 1) ∧
    decodeTableWord 32 0x2CB04189 = some (.vor 6 2 3 4 1) ∧
    decodeTableWord 32 0x2CB84189 = some (.vxor 6 2 3 4 1) ∧
    decodeTableWord 32 0x2CC04189 = some (.vshl 6 2 3 4 1) ∧
    decodeTableWord 32 0x2CC84189 = some (.vshr 6 2 3 4 1) ∧
    decodeTableWord 32 0x2CD04189 = some (.vshra 6 2 3 4 1) ∧
    decodeTableWord 32 0x2CD84189 = some (.vminI32 6 2 3 4 1) ∧
    decodeTableWord 32 0x2CE04189 = some (.vmaxI32 6 2 3 4 1) ∧
    decodeTableWord 32 0x2CE84189 = some (.vlut3 6 2 3 4 1) ∧
    decodeTableWord 32 0x2CF04189 = some (.vfsh 6 2 3 4 1) ∧
    decodeTableWord 32 0x2CF84188 = some (.vcmpEq 6 2 3 4) ∧
    decodeTableWord 32 0x2D004188 = some (.vcmpLt 6 2 3 4) ∧
    decodeTableWord 32 0x2D084188 = some (.vcmpLtu 6 2 3 4) ∧
    decodeTableWord 32 0x2D104189 = some (.vcvtBf16F32 6 2 3 4 1) ∧
    decodeTableWord 32 0x2D184183 = some (.vcvtF32Bf16 6 2 3 1 1) ∧
    decodeTableWord 32 0x2D204181 = some (.vcvtF32I32 6 2 3 1) ∧
    decodeTableWord 32 0x2D284181 = some (.vcvtI32F32 6 2 3 1) ∧
    decodeTableWord 32 0x2D304183 = some (.vcvtE4m3F32 6 2 3 1 1) ∧
    decodeTableWord 32 0x2D384183 = some (.vcvtF32E4m3 6 2 3 1 1) ∧
    decodeTableWord 32 0x2D404183 = some (.vqntE2m1 6 2 3 1 1) := by
  refine ⟨rfl, rfl, rfl, rfl, rfl, rfl, rfl, rfl, rfl, rfl, rfl, rfl, rfl, rfl, rfl, rfl, rfl, rfl, rfl, rfl⟩

theorem test_decode_v2 :
    decodeTableWord 32 0x2D484183 = some (.vdqntE2m1 6 2 3 1 1) ∧
    decodeTableWord 32 0x2D504181 = some (.vmov 6 2 3 1) ∧
    decodeTableWord 32 0x2D584500 = some (.vbcast 6 2 5) ∧
    decodeTableWord 32 0x2D60418B = some (.vrot 6 2 3 5 1) ∧
    decodeTableWord 32 0x2D684189 = some (.vperm 6 2 3 4 1) ∧
    decodeTableWord 32 0x2D704189 = some (.vsel 6 2 3 4 1) ∧
    decodeTableWord 32 0x2D784555 = some (.vld 6 2 5 5 5) ∧
    decodeTableWord 32 0x2D804555 = some (.vst 6 2 5 5 5) ∧
    decodeTableWord 32 0x2D884195 = some (.vldg 6 2 3 5 1) ∧
    decodeTableWord 32 0x2D90418B = some (.vredAdd 6 2 3 5 1) ∧
    decodeTableWord 32 0x2D98418B = some (.vredMax 6 2 3 5 1) ∧
    decodeTableWord 32 0x2DA04180 = some (.vany 6 2 3) ∧
    decodeTableWord 32 0x2DA84180 = some (.vpush 6 2 3) ∧
    decodeTableWord 32 0x2DA84182 = some (.vpushBal 6 2 3) ∧
    decodeTableWord 32 0x2DB04189 = some (.vpop 6 2 3 4 1) ∧
    decodeTableWord 32 0x2DB84188 = some (.kand 6 2 3 4) ∧
    decodeTableWord 32 0x2DC04188 = some (.kor 6 2 3 4) ∧
    decodeTableWord 32 0x2DC84180 = some (.knot 6 2 3) := by
  refine ⟨rfl, rfl, rfl, rfl, rfl, rfl, rfl, rfl, rfl, rfl, rfl, rfl, rfl, rfl, rfl, rfl, rfl, rfl⟩

theorem test_decode_m0 :
    decodeTableWord 32 0x4C083208 = some (.mload 6 3 4 1) ∧
    decodeTableWord 32 0x4C103208 = some (.mloadt 6 3 4 1) ∧
    decodeTableWord 32 0x4C1A320E = some (.mmulE2m1 6 1 3 4 1 1 1) ∧
    decodeTableWord 32 0x4C22320E = some (.mmulE4m3 6 1 3 4 1 1 1) ∧
    decodeTableWord 32 0x4C2A320E = some (.mmulE5m2 6 1 3 4 1 1 1) ∧
    decodeTableWord 32 0x4C32320E = some (.mmulI8 6 1 3 4 1 1 1) ∧
    decodeTableWord 32 0x4C3A320E = some (.mmulBf16 6 1 3 4 1 1 1) ∧
    decodeTableWord 32 0x4C42320E = some (.mmulF16 6 1 3 4 1 1 1) ∧
    decodeTableWord 32 0x4C4A325E = some (.mmulg 6 1 3 4 5 1 1 1) ∧
    decodeTableWord 32 0x4C52325E = some (.mgrp 6 1 3 4 5 1 1 1) ∧
    decodeTableWord 32 0x4C5A325E = some (.mconv 6 1 3 4 5 1 1 1) ∧
    decodeTableWord 32 0x4C623202 = some (.mscl 6 1 3 4 1) ∧
    decodeTableWord 32 0x4C6A3205 = some (.mdrainF32 6 1 3 4 1 1) ∧
    decodeTableWord 32 0x4C723205 = some (.mdrainBf16 6 1 3 4 1 1) ∧
    decodeTableWord 32 0x4C7A0000 = some (.mzero 6 1) ∧
    decodeTableWord 32 0x4C803200 = some (.mmode 6 3 4) ∧
    decodeTableWord 32 0x4C8A3000 = some (.ckloc 6 1 3) ∧
    decodeTableWord 32 0x4C920000 = some (.ckfix 6 1) ∧
    decodeTableWord 32 0x4C9A0200 = some (.ckinj 6 1 4) ∧
    decodeTableWord 32 0x4CA23200 = some (.ckrd 6 1 3 4) := by
  refine ⟨rfl, rfl, rfl, rfl, rfl, rfl, rfl, rfl, rfl, rfl, rfl, rfl, rfl, rfl, rfl, rfl, rfl, rfl, rfl, rfl⟩

theorem test_decode_m1 : decodeTableWord 32 0x4CAA0000 = some (.mrty 6 1) := rfl

theorem test_decode_x :
    decodeTableWord 32 0x6C08C855 = some (.xcopy 6 3 4 5 5) ∧
    decodeTableWord 32 0x6C10C805 = some (.xsend 6 3 4 5) ∧
    decodeTableWord 32 0x6C18C855 = some (.xrecv 6 3 4 5 5) ∧
    decodeTableWord 32 0x6C20C800 = some (.xjob 6 3 4) ∧
    decodeTableWord 32 0x6C28C800 = some (.xjobf 6 3 4) := by
  refine ⟨rfl, rfl, rfl, rfl, rfl⟩

theorem test_decode_s0 :
    decodeTableWord 32 0x8C050005 = some (.fence 6 5 5) ∧
    decodeTableWord 32 0x8C119140 = some (.tklend 6 3 4 5) ∧
    decodeTableWord 32 0x8C119141 = some (.tklendPass 6 3 4 5) ∧
    decodeTableWord 32 0x8C219140 = some (.tkshare 6 3 4 5) ∧
    decodeTableWord 32 0x8C219141 = some (.tkshareRv 6 3 4 5) ∧
    decodeTableWord 32 0x8C319140 = some (.tktake 6 3 4 5) ∧
    decodeTableWord 32 0x8C319141 = some (.tktakeSh 6 3 4 5) ∧
    decodeTableWord 32 0x8C418140 = some (.tkret 6 3 5) ∧
    decodeTableWord 32 0x8C418141 = some (.tkretSh 6 3 5) ∧
    decodeTableWord 32 0x8C519100 = some (.tksplit 6 3 4) ∧
    decodeTableWord 32 0x8C619100 = some (.tkjoin 6 3 4) ∧
    decodeTableWord 32 0x8C719100 = some (.tkqry 6 3 4 4) ∧
    decodeTableWord 32 0x8C7191C1 = some (.tkqryBase 6 3 4 7) ∧
    decodeTableWord 32 0x8C719102 = some (.tkqryAg 6 3 4 4) ∧
    decodeTableWord 32 0x8C8191C0 = some (.tkmint 6 3 4) ∧
    decodeTableWord 32 0x8C8191C1 = some (.tkmintNew 6 3 4) ∧
    decodeTableWord 32 0x8C9191C0 = some (.barm 6 3 4) ∧
    decodeTableWord 32 0x8C9181C1 = some (.barmFree 6 3) ∧
    decodeTableWord 32 0x8CA18140 = some (.barr 6 3 5) ∧
    decodeTableWord 32 0x8CA19141 = some (.barrQ 6 3 4 5) := by
  refine ⟨rfl, rfl, rfl, rfl, rfl, rfl, rfl, rfl, rfl, rfl, rfl, rfl, rfl, rfl, rfl, rfl, rfl, rfl, rfl, rfl⟩

theorem test_decode_s1 :
    decodeTableWord 32 0x8CB19140 = some (.bwait 6 3 4 5) ∧
    decodeTableWord 32 0x8CC19140 = some (.realign 6 3 4 5) ∧
    decodeTableWord 32 0x8CD19100 = some (.srdef 6 3 4) ∧
    decodeTableWord 32 0x8CE18100 = some (.srkill 6 3) := by
  refine ⟨rfl, rfl, rfl, rfl⟩

theorem test_decode_b :
    decodeTableWord 32 0xAC08C823 = some (.badd 6 3 4 2 1 1) ∧
    decodeTableWord 32 0xAC10C823 = some (.bsub 6 3 4 2 1 1) ∧
    decodeTableWord 32 0xAC18C823 = some (.bmul 6 3 4 2 1 1) ∧
    decodeTableWord 32 0xAC20C823 = some (.bmac 6 3 4 2 1 1) ∧
    decodeTableWord 32 0xAC28C825 = some (.bcmp 6 3 4 2 1 1) ∧
    decodeTableWord 32 0xAC30C825 = some (.blog 6 3 4 2 5) ∧
    decodeTableWord 32 0xAC38C023 = some (.bsum 6 3 2 1 1) := by
  refine ⟨rfl, rfl, rfl, rfl, rfl, rfl, rfl⟩

/-! ## Ill-formed words, one for each check -/

theorem test_ill_formed_words_are_refused :
    (Instr.cmpEq 0 3 1 2).wf = false ∧ (Instr.cmpLt 0 0 1 2).wf = false ∧ (Instr.cmpLe 0 16 1 2).wf = false ∧ (Instr.pand 0 0 1 2).wf = false ∧
    (Instr.por 0 16 1 2).wf = false ∧ (Instr.pxor 0 1 16 2).wf = false ∧ (Instr.pandn 0 1 2 16).wf = false ∧ (Instr.shli 0 1 2 64).wf = false ∧
    (Instr.shri 0 1 2 64).wf = false ∧ (Instr.shrai 0 1 2 511).wf = false ∧ (Instr.loop 1 0).wf = false ∧ (Instr.loopi 1 0).wf = false ∧
    (Instr.csrr 0 1 0x014).wf = false ∧ (Instr.csrw 0 1 0x000).wf = false ∧ (Instr.csrs 0 1 0x050).wf = false ∧ (Instr.trapService 0 0).wf = false ∧
    (Instr.vfaddF32 0 48 1 2 0).wf = false ∧ (Instr.vfcmpEq 0 8 1 2).wf = false ∧ (Instr.kand 0 1 8 2).wf = false ∧ (Instr.knot 0 8 1).wf = false ∧
    (Instr.vany 0 0 1).wf = false ∧ (Instr.vpush 0 4 1).wf = false ∧ (Instr.vpop 0 1 4 1 0).wf = false ∧ (Instr.mmulg 0 1 2 3 6 0 0 0).wf = false ∧
    (Instr.mgrp 0 1 2 3 7 0 0 0).wf = false ∧ (Instr.mconv 0 1 2 3 6 0 0 0).wf = false ∧ (Instr.fence 0 13 1).wf = false ∧ (Instr.fence 0 4 0).wf = false ∧
    (Instr.tklend 0 1 2 0).wf = false ∧ (Instr.tkqry 0 1 2 5).wf = false ∧ (Instr.barr 0 1 0).wf = false ∧ (Instr.bwait 0 1 2 13).wf = false ∧
    (Instr.realign 0 1 2 3).wf = false ∧ (Instr.realign 0 1 2 11).wf = false := by decide

theorem test_ill_formed_encodings_are_refused :
    decode 0x0018C430 = .error .fieldRange ∧ decode 0x00000000 = .error .unassignedOp ∧ decode 0xE0000000 = .error .reservedEngine ∧
    decode 0xC2000000 = .error .guardForbidden ∧ decode 0xC1000000 = .error .prefixWord := ⟨rfl, rfl, rfl, rfl, rfl⟩

/-! ## Single instructions -/

theorem test_add_wraps : posted (after (.add 0 4 1 2) lab) = landing 1 4 4 0 := by decide +kernel
theorem test_sub : posted (after (.sub 0 4 2 1) lab) = landing 1 4 0xFFFFFFFFFFFFFFF6 0 := by decide +kernel
theorem test_shra_keeps_the_sign : posted (after (.shrai 0 4 2 1) lab) = landing 1 4 0xFFFFFFFFFFFFFFFE 0 := by decide +kernel
theorem test_shr_fills_with_zeros : posted (after (.shri 0 4 2 60) lab) = landing 1 4 15 0 := by decide +kernel
theorem test_min_is_signed : posted (after (.min 0 4 1 2) lab) = landing 1 4 0xFFFFFFFFFFFFFFFD 0 := by decide +kernel
theorem test_max_is_signed : posted (after (.max 0 4 1 2) lab) = landing 1 4 7 0 := by decide +kernel
theorem test_clz : posted (after (.clz 0 4 1) lab) = landing 1 4 61 0 := by decide +kernel
theorem test_clz_of_zero : posted (after (.clz 0 4 0) lab) = landing 1 4 64 0 := by decide +kernel
theorem test_popc : posted (after (.popc 0 4 2) lab) = landing 1 4 63 0 := by decide +kernel
theorem test_addi_is_signed : posted (after (.addi 0 4 1 0x1FF) lab) = landing 1 4 6 0 := by decide +kernel
theorem test_mul : posted (after (.mul 0 4 1 2) lab) = landing 3 4 0xFFFFFFFFFFFFFFEB 0 := by decide +kernel
theorem test_mulh_is_signed : posted (after (.mulh 0 4 1 2) lab) = landing 3 4 0xFFFFFFFFFFFFFFFF 0 := by decide +kernel
theorem test_mulhu : posted (after (.mulhu 0 4 1 2) lab) = landing 3 4 6 0 := by decide +kernel
theorem test_div_truncates : posted (after (.div 0 4 1 2) lab) = landing 18 4 0xFFFFFFFFFFFFFFFE 0 := by decide +kernel
theorem test_rem_has_the_dividends_sign : posted (after (.rem 0 4 2 1) lab) = landing 18 4 0xFFFFFFFFFFFFFFFD 0 := by decide +kernel
theorem test_divu : posted (after (.divu 0 4 2 1) lab) = landing 18 4 0x2492492492492491 0 := by decide +kernel
theorem test_div_by_zero : posted (after (.div 0 4 1 0) lab) = landing 18 4 0xFFFFFFFFFFFFFFFF 2 := by decide +kernel
theorem test_rem_by_zero : posted (after (.rem 0 4 1 0) lab) = landing 18 4 7 2 := by decide +kernel
theorem test_write_of_s0_is_dropped : (strandOf (after (.resultLand { kind := .regs [.s 0 5], flags := 0 }) lab) 0).s = strand0.s := by decide +kernel
theorem test_result_lands : sreg (strandOf (after (.resultLand { kind := .regs [.s 4 5], flags := 2 }) lab) 0) 4 = 5 ∧
    (strandOf (after (.resultLand { kind := .regs [.s 4 5], flags := 2 }) lab) 0).aflags = 2 := by decide +kernel
theorem test_cmp_lt_is_signed : posted (after (.cmpLt 0 4 2 1) lab) =
    some (1, .ev (.resultLand { kind := .regs [.p 4 true, .p 5 false], flags := 0 })) := by decide +kernel
theorem test_cmp_ltu : posted (after (.cmpLtu 0 4 2 1) lab) =
    some (1, .ev (.resultLand { kind := .regs [.p 4 false, .p 5 true], flags := 0 })) := by decide +kernel
theorem test_pandn : posted (after (.pandn 0 5 0 4) lab) = some (1, .ev (.resultLand { kind := .regs [.p 5 true], flags := 0 })) := by decide +kernel
theorem test_br_goes_back : (strandOf (after (.br 0 0x7FFFE) (withCur { lab.cur with hdr := 24 })) 0).cp = 16 := by decide +kernel
theorem test_jr_links : (strandOf (after (.jr 0 1 1) lab) 0).cp = 7 ∧ (after (.jr 0 1 1) lab).agenda.length = 2 := by decide +kernel
theorem test_loopi_pushes : (strandOf (after (.loopi 3 4) lab) 0).loops = [{ start := 8, stop := 24, left := 3 }] := by decide +kernel
theorem test_loop_of_zero_skips : (strandOf (after (.loop 0 4) lab) 0).cp = 24 ∧ (strandOf (after (.loop 0 4) lab) 0).loops = [] := by decide +kernel
theorem test_guarded_off : exec (.add 5 4 1 2) (withCur { lab.cur with preds := 0xFFDF }) = .next (withCur { lab.cur with preds := 0xFFDF }) := rfl
theorem test_csrr_of_cp : posted (after (.csrr 0 4 0) (withCur { lab.cur with hdr := 24 })) = landing 1 4 24 0 := by decide +kernel
theorem test_csrw_of_vrm : (strandOf (after (.csrw 0 1 0x012) (withStrand { strand0 with s := [(1, 3)] })) 0).vrm = 3 := by decide +kernel
theorem test_csrw_of_vrm_7_is_ignored : (strandOf (after (.csrw 0 1 0x012) (withStrand { strand0 with vrm := 2 })) 0).vrm = 2 := by decide +kernel
theorem test_load_performs_3_kc_later_in_sram : (posted (after (.ldD 0 4 3 0 1) lab)).map (·.1) = some 39 := by decide +kernel
theorem test_store_then_load : (after (.accessPerform { op := .load 4 true, va := 0x40000001, pa := 0, len := 1, cls := 0, lag := 1 })
    (after (.accessPerform { op := .store 0xFF80, va := 0x40000000, pa := 0, len := 2, cls := 0, lag := 0 }) lab)).agenda.getLast?.map (·.pay) =
    some (.ev (.resultLand { kind := .regs [.s 4 0xFFFFFFFFFFFFFFFF], flags := 0 })) := by decide +kernel
theorem test_store_marks_its_entry_dirty :
    ((strandOf (after (.accessPerform { op := .store 1, va := 0x40000000, pa := 0, len := 1, cls := 0, lag := 0 }) lab) 0).held.map (·.dirty)) = [true] := by
  decide +kernel
theorem test_amo_add : readBytes (after (.accessPerform { op := .amo 0 4 5 0, va := 0x40000008, pa := 0, len := 8, cls := 0, lag := 1 }) lab) 0x8000000008 1 = [5] := by
  decide +kernel
theorem test_trap_0_ends_the_strand : (strandOf (after (.trapEnd 0) pair) 0).st = .done := by decide +kernel
theorem test_service_call : (posted (after (.trapService 0 9) lab)).map (·.1) = some 1 := by decide +kernel
theorem test_node_takes_the_snapshot : (strandOf (after .node0 lab) 0).snap.map (·.regs) = some [7, 0xFFFFFFFFFFFFFFFD, 0x40000000, 0, 0, 0, 0] := by decide +kernel
theorem test_tfence_does_nothing_more : exec (.tfence 0) lab = .next lab := rfl

/-! ## States and operands that meet the statements' hypotheses -/

theorem meets_decode_of_encode : (Instr.add 15 31 31 31).wf = true ∧ encode (.add 15 31 31 31) = [0x1E0FFFF0] := ⟨rfl, rfl⟩
theorem meets_decoded_word : decode 0x1E0FFFF0 = .ok (.add 15 31 31 31) := rfl
theorem meets_unassigned_words : bitsAt (0xE0000000 : Word).toNat 29 3 = 7 ∧ bitsAt (0x60000000 : Word).toNat 29 3 = 3 ∧ bitsAt (0x60000000 : Word).toNat 19 6 = 0 ∧
    bitsAt (0xA1FFFFFF &&& 0xFE07FFFF : Word).toNat 29 3 = 5 ∧ bitsAt (0xA1FFFFFF &&& 0xFE07FFFF : Word).toNat 19 6 = 0 ∧
    bitsAt (0xC1000000 : Word).toNat 29 3 = 6 ∧ bitsAt (0xC1000000 : Word).toNat 25 4 = 0 ∧ bitsAt (0xC1000000 : Word).toNat 24 1 = 1 ∧
    bitsAt (0xC2000000 : Word).toNat 29 3 = 6 ∧ bitsAt (0xC2000000 : Word).toNat 25 4 ≠ 0 := by decide
theorem meets_registers : (15 < 16 ∧ 47 < 48 ∧ 48 ≤ 48) ∧ ([1, 2, 3, 4, 5, 6, 7] : List Dword).length = 7 := by decide
theorem meets_memory : lab.Inv ∧ (∀ i, i < 4 → homeAddr 0x1000 ≠ homeAddr (0x1004 + i)) ∧
    (∀ i j, i < 4 → j < 4 → homeAddr (0x1004 + i) = homeAddr (0x1004 + j) → i = j) ∧ 0x007FFFFFFFFF < 0x008000000000 ∧ 0x008000000000 ≤ 0x008000000000 ∧
    homeAddr 64 = homeAddr 64 := by
  refine ⟨rfl, by decide, ?_, by decide, by decide, rfl⟩
  have h : ∀ i, i < 4 → ∀ j, j < 4 → homeAddr (0x1004 + i) = homeAddr (0x1004 + j) → i = j := by decide
  exact fun i j hi hj => h i hi j hj
theorem meets_memory_stays_canonical : State.reset.Inv ∧ ∃ t, step State.reset = .next t := ⟨rfl, _, rfl⟩

/-- The lab with one entry due, at the strand's kc 0. -/
def dueNow (p : Pay) : State :=
  { lab with agenda := [{ clk := .kern 1 0, at_ := 0, ph := 2, row := 0, eng := 0, seq := 0, ctx := lab.cur, pay := p }] }

theorem meets_step :
    ((dueNow (.word 0x00084430)).inputs = [] ∧ (∃ e, nextDue (dueNow (.word 0x00084430)) = some e ∧ e.pay = .word 0x00084430) ∧
      decode 0x00084430 = .ok (.add 0 1 2 3)) ∧
    (∃ e, nextDue (dueNow (.ev .node0)) = some e ∧ e.pay = .ev .node0) ∧
    (nextDue lab = none ∧ lab.dev.ready = true ∧ lab.turned = false) ∧
    (nextDue { lab with turned := true } = none ∧ ({ lab with turned := true } : State).turned = true) ∧
    (nextDue { lab with dev := Device.off } = none ∧ Device.off.ready = false) ∧
    (({ lab with inputs := [(3, .linkReset)] } : State).inputs = (3, .linkReset) :: [] ∧ fromOutside .linkReset = true) ∧
    (Instr.linkReset ≠ .queueDisable ∧ sideBand .linkReset = false ∧ sideBand .powerUp = true ∧ Device.off.ready = false) := by
  refine ⟨⟨rfl, ⟨_, rfl, rfl⟩, rfl⟩, ⟨_, rfl, rfl⟩, ⟨by decide +kernel, rfl, rfl⟩, ⟨by decide +kernel, rfl⟩, ⟨by decide +kernel, rfl⟩, ⟨rfl, rfl⟩,
    by decide, rfl, rfl, rfl⟩

/-- The lab with a stream of 400 words and every lane picked. -/
def streaming : State := withStrand { strand0 with q := [(1, List.replicate 400 9)], k := [(0, BitVec.allOnes 128)] }

theorem meets_vector_step : let v : Word := (encode (.vpush 0 1 2)).headD 0
    let e : Timed := { clk := .kern 1 0, at_ := 0, ph := 2, row := 0, eng := 0, seq := 0, ctx := { lab.cur with word := v }, pay := .word v }
    sourcesBad lab lab.cur 0x00084430 = none ∧ pushOver lab { e with pay := .word 0x00084430 } = 0 ∧ pushOver streaming e ≠ 0 ∧ sourcesBad streaming e.ctx v = none ∧
    sourcesBad (withStrand { strand0 with vbad := [(2 * 128, false)] }) e.ctx v ≠ none := by decide +kernel

/-- The lab whose image begins with a header of one word. -/
def fetching : State := { (writeNat (writeNat lab (imemAddr 0 0) 4 0xC0002000) (imemAddr 0 4) 4 0x00084430) with
  agenda := [{ clk := .kern 1 0, at_ := 0, ph := 1, row := 0, eng := 0, seq := 0, ctx := lab.cur, pay := .fetch 0 }] }

theorem meets_fetch : (∃ e, nextDue fetching = some e ∧ e.pay = .fetch 0 ∧ fetchFault (asBefore (bankView fetching 0) e 0) 0 = none ∧
    fetchInterrupt (asBefore (bankView fetching 0) e 0) 0 = false ∧
    ∃ t, fetchPacket { without fetching e with cur := e.ctx } 0 = .run (.packetHeader 0 1 0) t) := by
  refine ⟨_, rfl, rfl, ?_, ?_, ?_⟩
  · decide +kernel
  · decide +kernel
  · exact ⟨_, rfl⟩

/-- The fetch finds no header, an interrupt of its strand is due, or its strand waits. -/
def nothingThere : State := { fetching with mem := [] }
def interrupted : State := { fetching with banks := [(0, { strand0 with ie := true, pend := [(1, 0)] })] }
def standing : State := { fetching with banks := [(0, { strand0 with wait := [.issue] })] }

theorem meets_fetches_that_do_not_run :
    (∃ e, nextDue nothingThere = some e ∧ e.pay = .fetch 0 ∧ (fetchFault (asBefore (bankView nothingThere 0) e 0) 0).isSome = true) ∧
    (∃ e, nextDue interrupted = some e ∧ e.pay = .fetch 0 ∧ fetchFault (asBefore (bankView interrupted 0) e 0) 0 = none ∧
      fetchInterrupt (asBefore (bankView interrupted 0) e 0) 0 = true) ∧
    (∃ e, nextDue standing = some e ∧ e.pay = .fetch 0 ∧ fetchFault (asBefore (bankView standing 0) e 0) 0 = none ∧
      fetchInterrupt (asBefore (bankView standing 0) e 0) 0 = false ∧ ∃ t, fetchPacket { without standing e with cur := e.ctx } 0 = .done t) := by
  refine ⟨⟨_, rfl, rfl, ?_⟩, ⟨_, rfl, rfl, ?_, ?_⟩, ⟨_, rfl, rfl, ?_, ?_, _, rfl⟩⟩ <;> decide +kernel

theorem meets_nothing_stops : ∃ f, exec (.accessPerform { op := .store 1, va := 0x40000000, pa := 0, len := 1, cls := 0, lag := 0 })
    (withCur { lab.cur with tbl := [{ page with hi := 0x0000010047000000 }] }) = .fault f := ⟨_, rfl⟩
theorem meets_guarded_off : guardField (.add 5 1 2 3) = some 5 ∧ guardOn (withCur { lab.cur with preds := 0xFFDF }) 5 = false ∧ (5 : BitVec 4) ≠ 0 := by decide +kernel
/-- A landing in vector register 2, and the lab whose register 2 has a word that fails its parity. -/
def toV2 : Landing := { kind := .regs [.v 2 0], flags := 0 }
def failing : State := withStrand { strand0 with vbad := [(2 * 128, false)] }

theorem meets_results_land : lab.cur.drain = false ∧ (strandOf lab lab.cur.bank).grp = lab.cur.grp ∧ landRebuilds lab lab.cur toV2 = false ∧
    failsIn strand0.vbad (vecWritesOf [.v 2 0]) = [] ∧ landRebuilds failing failing.cur toV2 = true ∧ (strandOf failing failing.cur.bank).grp = failing.cur.grp ∧
    failing.cur.hand = false ∧ failing.cur.drain = false := by decide +kernel
theorem meets_alu : guardOn lab 0 = true ∧ (∀ j, j < 64 → 64 - 61 ≤ j → (srcS lab 1).getLsbD j = false) ∧ (srcS lab 1).getLsbD (63 - 61) = true := by
  decide +kernel
theorem meets_divides : srcS lab 0 = 0 ∧ srcS lab 2 ≠ 0 ∧ ¬(srcS lab 1 = 0x8000000000000000 ∧ srcS lab 2 = 0xFFFFFFFFFFFFFFFF) ∧
    srcS (withStrand { strand0 with s := [(1, 0x8000000000000000), (2, 0xFFFFFFFFFFFFFFFF)] }) 1 = 0x8000000000000000 ∧
    srcS (withStrand { strand0 with s := [(1, 0x8000000000000000), (2, 0xFFFFFFFFFFFFFFFF)] }) 2 = 0xFFFFFFFFFFFFFFFF := by decide +kernel
theorem meets_compares : guardOn lab 0 = true ∧ (Instr.cmpEq 0 14 1 2).wf = true ∧ (Instr.cmpiLtu 0 2 1 0x1FF).wf = true := by decide +kernel
theorem meets_predicate_logic : guardOn lab 0 = true ∧ guardOn (withCur { lab.cur with preds := 0xFFDF }) 5 = false := by decide +kernel
theorem meets_completions_of_control : guardOn lab 0 = true ∧ lab.cur.drain = false ∧ (srcS lab 1).toNat % 2 ^ 32 = 7 ∧ (srcS lab 0).toNat % 2 ^ 32 = 0 ∧
    loopCount lab.cur.pre 0 = 0 ∧ loopCount lab.cur.pre 5 = 5 := by decide +kernel
theorem meets_loops : (12 : Nat) ≠ 24 ∧ 1 < 2 ∧ 1 ≤ 1 ∧ (8 ≤ 8 ∧ 8 < 24) ∧ (24 < 8 ∨ 24 ≤ 24) := by decide
theorem meets_scalar_access : inFrame lab 0 0x40000000 = false ∧ translate lab.cur 0x40000000 = some 0x8000000000 ∧ lab.cur.drain = false ∧
    paPkg 0x8000000000 = lab.dev.pkg ∧ placeOf (paLocal 0x8000000000) = .dram 0 0 := by decide +kernel
theorem meets_scalar_access_elsewhere : placeOf (paLocal 0x010020000000) = .sram 0 0 ∧ placeOf (paLocal 0x010020800000) = .sram 1 0 ∧ bankStack 0 = 0 ∧
    placeOf (paLocal 0x010000000000) = .spad 0 0 ∧ placeOf (paLocal 0x010000400000) = .spad 8 0 ∧ bankRow 0 = 0 ∧ paPkg 0x1010040000000 ≠ lab.dev.pkg := by
  decide +kernel
theorem meets_load (sx : Bool) : let a : Access := { op := .load 4 sx, va := 0x40000000, pa := 0x8000000000, len := 8, cls := 0, lag := 1 }
    segsOf lab.cur.tbl 4 0x40000000 8 = [Seg.mk 0x40000000 0x8000000000 8] ∧ segsOf lab.cur.tbl 2 0x40000000 8 = [Seg.mk 0x40000000 0x8000000000 8] ∧
    paPkg 0x8000000000 = lab.dev.pkg ∧ placeExists lab (paLocal 0x8000000000) = true ∧ lab.flips = [] ∧ lab.sramBad = [] ∧
    (linkOf lab 10).st ≠ .retired ∧ cachedAccess lab lab.cur (Seg.mk 0x40000000 0x8000000000 8) = false ∧ performFault lab lab.cur a = none := by cases sx <;> decide +kernel
theorem meets_store : let a : Access := { op := .store 5, va := 0x40000000, pa := 0x8000000000, len := 8, cls := 0, lag := 0 }
    lab.Inv ∧ paLocal 0x8000000000 % 8 = 0 ∧ 8 ∈ [1, 2, 4, 8] ∧ performFault lab lab.cur a = none := by
  refine ⟨rfl, by decide, by decide, by decide +kernel⟩
theorem meets_atomic : performFault lab lab.cur { op := .amo 5 4 1 2, va := 0x40000000, pa := 0x8000000000, len := 8, cls := 0, lag := 1 } = none ∧
    Sparse.find (rowOf lab (bankRow lab.cur.bank)).dcache (cacheLine (paLocal 0x8000000000)) = none := by decide +kernel
theorem meets_acks : let a : Access := { op := .load 4 false, va := 0x40000000, pa := 0x8000000000, len := 8, cls := 0, lag := 1 }
    ackKc lab 0 { at_ := now lab, va := a.va, len := 8, wr := accessWrites a, cls := 0, cached := false } ≤ now lab := by decide +kernel
theorem meets_vector_access : segsOf lab.cur.tbl 4 0x40000000 512 = [Seg.mk 0x40000000 0x8000000000 512] ∧
    segsOf lab.cur.tbl 2 0x40000000 512 = [Seg.mk 0x40000000 0x8000000000 512] ∧ 47 < 48 ∧ paLocal 0x8000000000 % 512 = 0 ∧
    performFault lab lab.cur { op := .vload 47 false 3, va := 0x40000000, pa := 0x8000000000, len := 512, cls := 0, lag := 1 } = none ∧
    performFault lab lab.cur { op := .vgather 0 false 3 (List.replicate 128 none), va := 0x40000000, pa := 0, len := 4, cls := 0, lag := 1 } = none ∧
    performFault lab lab.cur { op := .vstore 9, va := 0x40000000, pa := 0x8000000000, len := 512, cls := 0, lag := 0 } = none := by decide +kernel

theorem meets_csrs : (∀ c ∈ csrWritables, c = c) ∧ (curStrand { lab with hkc := 1 }).freshAt ≠ ({ lab with hkc := 1 } : State).hkc ∧
    (curStrand { lab with hkc := 1 }).cktol.length = 6 ∧ (curStrand lab).frame = none ∧
    0x002 ∈ csrWritables ∧ 0x058 ∈ csrWritables ∧ 0x05D ∈ csrWritables ∧ 0x05D ∈ csrIndices := by decide +kernel

/-- A frame of a strand that stopped at kc 5 with a service call. -/
def frame : Frame :=
  { frec := { FaultRec.blank with cause := 0x38 }, f := 5, n := 6, cp := 24, loops := [], prev := .running, bytes := [], retries := 0, bad := 0, badChk := 0, wait := [], mq := [], bq := [],
    res := MRes.idle, divBusy := 0, xBusy := 0, fences := [] }

/-- The lab with its strand in the handler. -/
def handling : State := withStrand { strand0 with st := .trapped, trap := true, frame := some frame }

theorem meets_csrs_in_a_handler : (curStrand handling).frame = some frame := by decide +kernel
theorem meets_service_calls : guardOn lab 0 = true ∧ (curStrand lab).trap = false ∧ (curStrand handling).trap = true := by decide +kernel
theorem meets_end_of_a_strand : isRecovery pair 0 = false ∧ (strandOf pair (otherBank 0)).st = .unloaded ∧
    ∃ j, j ≠ 0 ∧ (strandOf pair j).st ∉ [.unloaded, .done, .yielded] ∧ (strandOf pair j).grp = (strandOf pair 0).grp :=
  ⟨by decide +kernel, by decide +kernel, 2, by decide +kernel⟩
theorem meets_entry : (strandOf lab 0).st = .running := by decide +kernel

/-- The lab whose image ends with a handler trailer. -/
def withHandler : State := writeNat (writeNat lab (imemAddr 0 0xFF8) 4 0xDE000000) (imemAddr 0 0xFFC) 4 0x40

theorem meets_exceptions : let r : FaultRec := { FaultRec.blank with cause := 0x38 }
    r.cause ∉ [0x04, 0x18, 0x19, 0x32] ∧ (strandOf handling 0).trap = true ∧ (strandOf lab 0).trap = false ∧ probe lab 0 5 r = none ∧
    handlerOf withHandler 0 = some 0x40 ∧ handlerOf lab 0 = none ∧ probe withHandler 0 5 r = none ∧ (strandOf withHandler 0).trap = false ∧
    Sparse.find (stackOf withHandler (bankStack 0)).images (bankGroup withHandler 0).kern = some { base := 0, size := 0x1000 } := by decide +kernel
theorem meets_interrupts : let s := withStrand { strand0 with ie := true, pend := [(0x12, 7)] }
    (strandOf s 0).ie = true ∧ (strandOf s 0).trap = false ∧ (strandOf s 0).pend = (0x12, 7) :: [] ∧
    probe s 0 (bankKc s 0) (interruptRec s 0 (bankKc s 0) 0x12 7) = none := by decide +kernel

/-- The lab with its page away (R281). -/
def away : State :=
  { withCur { lab.cur with tbl := [{ page with lo := 0xA000000040000003 }] } with
    frames := [(0x8000000000, PageFrame.of 0 0x40000000 2 .away false 0 0)] }

theorem meets_faulting_access : let a : Access := { op := .store 5, va := 0x40000000, pa := 0x8000000000, len := 8, cls := 0, lag := 0 }
    accessHole away away.cur a = none ∧ accessRebuilds away away.cur a = false ∧ cacheHit away away.cur a = false ∧
    (performFault away away.cur a).map (·.cause) = some 0x04 ∧ away.cur.drain = false ∧
    (performFault away { away.cur with drain := true } a).map (·.cause) = some 0x04 := by decide +kernel
theorem meets_faulting_access_op : ∀ i k, AccOp.store 5 ≠ .step i k := fun _ _ h => by cases h
theorem meets_rett : (strandOf handling handling.cur.bank).frame = some frame ∧ (strandOf handling 0).pend = [] ∧
    imageNat frame.bytes 32 8 ≠ 2 ^ 64 - 1 ∧ frame.frec.cause ≠ 0x32 := by decide +kernel
theorem no_shootdown (s : State) (h : s.kernels = lab.kernels) (k : Nat) : (kernelOf s k).shootWait = [] := by
  by_cases e : 1 = k <;> simp [kernelOf, h, lab, Sparse.getD, Sparse.find, e, Kernel.blank, loadKernel]
theorem meets_ends_without_a_shootdown : (∀ k, (kernelOf pair k).shootWait = []) ∧
    (∀ k, (kernelOf { pair with groups := [(1, { loadGroup with rR := 2, st := .yielding })] } k).shootWait = []) := ⟨no_shootdown _ rfl, no_shootdown _ rfl⟩
theorem meets_node : (∀ k, (kernelOf lab k).shootWait = []) ∧ (strandOf lab (otherBank 0)).st ≠ .bankedOut ∧ (strandOf lab 0).yreq.getLsbD 0 = false ∧
    (strandOf (withStrand { strand0 with yreq := 1 }) 0).yreq.getLsbD 0 = true := by
  exact ⟨no_shootdown _ rfl, by decide +kernel, by decide +kernel, by decide +kernel⟩
theorem meets_yield : let s : State := { pair with groups := [(1, { loadGroup with rR := 2, st := .yielding })] }
    (strandOf s (otherBank 0)).st = .unloaded ∧ (groupOf s (strandOf s 0).grp).st = .yielding ∧ (strandOf s 2).st = .running ∧
    (strandOf s 2).grp = (strandOf s 0).grp := by decide +kernel
theorem meets_vector_words : guardOn lab 0 = true ∧ 127 < 128 ∧ fp32 ∈ [fp32, bf16, fp16, e5m2, e4m3, e2m1] ∧ 0x3F800000 < 2 ^ (1 + fp32.ew + fp32.fw) ∧
    fpVal fp32 0x3F800000 = .fin false 8388608 (-23) ∧ (0 < 2 ^ 21 - 1 ∧ 2 ^ 21 - 1 < 2 ^ 21) ∧ 0x43000000 ≤ 0x43000000 ∧ 0xC3160000 < 0xC3160001 ∧
    0x7F800000 < 0x7F800001 := by
  decide +kernel
theorem meets_conversions : 127 < 128 ∧ 127 / 32 ≠ (0 : BitVec 2).toNat ∧ 31 / 32 = (0 : BitVec 2).toNat ∧ 3 < 4 ∧ 127 / 16 ≠ (3 : BitVec 2).toNat ∧
    127 ≠ 64 + (3 : BitVec 2).toNat := by decide

theorem meets_streams : (streamOf (curStrand lab) 1).length + 128 ≤ 512 ∧ (streamOf (curStrand streaming) 1).length ≤ 512 ∧
    512 < (streamOf (curStrand streaming) 1).length +
      ((List.range 128).filterMap (fun l => if (maskOf (curStrand streaming) 0).getLsbD l then some (lane (srcV streaming 2) l) else none)).length ∧
    pairBank lab 0 = none := by decide +kernel
theorem meets_balanced_push : let s : State := { pair with groups := [(1, { loadGroup with rR := 2, paired := false })] }
    pairBank s 0 = some 2 ∧ 2 ≠ s.cur.bank ∧ (streamOf (curStrand s) 1).length ≤ 512 ∧ (streamOf (strandOf s 2) 1).length ≤ 512 := by decide +kernel
theorem meets_pushes_and_pops : let s : State := { pair with groups := [(1, { loadGroup with rR := 2, paired := false })] }
    guardOn lab 0 = true ∧ guardOn (withCur { lab.cur with preds := 0xFFDF }) 5 = false ∧
    (streamOf (curStrand streaming) 0).length + ((List.range 128).filterMap (fun l =>
      if (maskOf (curStrand streaming) 0).getLsbD l then some (lane (srcV streaming 2) l) else none)).length ≤ 512 ∧ pairBank streaming 0 = none ∧
    ((List.range 128).filterMap (fun l => if (maskOf (curStrand lab) 0).getLsbD l then some (lane (srcV lab 2) l) else none)) = [] ∧
    guardOn s 0 = true ∧ pairBank s 0 = some 2 ∧ (streamOf (strandOf s 0) 0).length ≤ 512 ∧ (streamOf (strandOf s 2) 0).length ≤ 512 ∧ 0 + 0 + 0 ≤ 1024 ∧
    streamOf (curStrand lab) 3 = [] := by decide +kernel
/- Entries go to the shorter stream, on a tie to the even row's (R145). -/
theorem test_balance_ties_to_even : balance [7, 8, 9] [1] [] = ([1, 8], [7, 9]) := by decide

/-- The lab executing a word, its registers captured. -/
def withWord (i : Instr) : State := withCur { lab.cur with word := (encode i).headD 0, ra := 0x10001, rb := 1 }

theorem meets_macro_words : ∀ i ∈ [Instr.mload 0 1 2 1, .mloadt 0 1 2 0, .mzero 0 3, .mscl 0 3 1 2 1, .mdrainF32 0 3 1 2 1 0, .mdrainBf16 0 0 31 31 0 1,
    .mmulE2m1 0 3 1 2 1 1 1, .mmulE4m3 0 3 1 2 1 1 1, .mmulE5m2 0 3 1 2 1 1 1, .mmulI8 0 3 1 2 1 1 1, .mmulBf16 0 3 1 2 1 1 1, .mmulF16 0 3 1 2 1 1 1,
    .mmulg 0 3 1 2 6 1 1 1, .mconv 0 3 1 2 6 1 1 1, .mgrp 0 3 1 2 6 1 1 1, .ckloc 0 3 1, .ckrd 0 3 1 2, .ckinj 0 3 2, .ckfix 0 3, .mrty 0 3,
    .xcopy 0 1 2 3 15, .xsend 0 1 2 15, .xrecv 0 1 2 3 15, .xjob 0 1 2, .xjobf 0 1 2, .badd 0 1 2 3 1 1, .bsub 0 1 2 3 1 1, .bmul 0 1 2 3 1 1,
    .bmac 0 1 2 3 1 1, .bcmp 0 1 2 3 1 3, .blog 0 1 2 3 15, .bsum 0 1 3 1 1],
    guardOn (withWord i) 0 = true ∧ (withWord i).cur.drain = false ∧ encode i = [(withWord i).cur.word] := by decide +kernel

/-- A product of the word, and the word in progress. -/
def product : Product := { word := (encode (.mmulI8 0 3 1 2 1 1 1)).headD 0, ctx := lab.cur, gens := [], counts := [] }
def zeroing : Macro := { word := (encode (.mzero 0 3)).headD 0, ctx := lab.cur, clk := .kern 1 0, t := 0, win := 0, inj := none, buf := [], words := [], prod := none, dead := false }

theorem meets_tile_clears : let s : State := { lab with rows := [(0, { Row.empty with pwr := .on, macros := [(5, zeroing)] })] }
    macroAt s (curRow s) 5 = some zeroing ∧ encode (.mzero 0 3) = [zeroing.word] ∧ zeroing.prod = none ∧ zeroing.dead = false ∧ (2 : Nat) ≠ (3 : BitVec 2).toNat := by
  decide +kernel
theorem meets_products : (prodOf product.word product.ctx).cout = false ∧ (prodOf product.word { product.ctx with rb := 0x8000 }).cout = true ∧
    (prodOf product.word product.ctx).acc = true ∧ (prodOf ((encode (.mmulI8 0 3 1 2 1 1 0)).headD 0) lab.cur).acc = false ∧
    Tile.clear.typed = false ∧ { Tile.clear with typed := true }.typed = true ∧ ([-128, 127] : List Int).length = [(1 : Int), -1].length ∧ 63 < 64 ∧
    ([1] : List Word) ≠ [] := by decide +kernel
theorem meets_check_words : let x : Tile := { Tile.clear with prod := some product }
    let s : State := { withWord (.mrty 0 3) with rows := [(0, { Row.empty with pwr := .on, tiles := [(3, x)] })] }
    (tileOf (rowOf s (curRow s)) 3).prod = some product ∧ encode (.mrty 0 3) = [s.cur.word] ∧ guardOn s 0 = true ∧ s.cur.drain = false ∧
    (prodOf product.word product.ctx).cout = false ∧ (2 : Nat) ≠ (3 : BitVec 2).toNat := by decide +kernel

/-- A message of one line for channel 1 of the strand, and the strand that holds it. -/
def message : Message := { grp := 1, gstack := 0, grow := 0, chan := 1, sgstack := 0, sgrow := 1, lines := [0] }
def holding : Strand := { strand0 with chans := [(1, { serial := 9, at_ := 0, msg := message })] }

/-- The lab in loose mode. -/
def loose : State := { lab with groups := [(1, { loadGroup with mode := 1 })] }

/-- A state that executes a word with a context. -/
def runs (s : State) (i : Instr) (c : Ctx) : State := { s with cur := { c with word := (encode i).headD 0 } }

theorem meets_bad_buffers : chanBad (withStrand holding) 0 1 = false ∧ chanBad (withStrand { holding with vbad := [((64 + 1) * 128, false)] }) 0 1 = true ∧
    Sparse.find (strandOf (withStrand { holding with vbad := [((64 + 1) * 128, false)] }) 0).chans 1 = some { serial := 9, at_ := 0, msg := message } := by decide +kernel
theorem meets_receives : let s := runs (withStrand holding) (.xrecv 0 1 2 3 15) { lab.cur with rc := 1 }
    Sparse.find (strandOf s 0).chans 1 = some { serial := 9, at_ := 0, msg := message } ∧ message.lines.length = (recLines (rec0 s.cur)).length ∧
    ([] : List (BitVec 512)).length ≠ (recLines (rec0 s.cur)).length ∧ Sparse.find (strandOf s 0).chans 7 = none ∧ timedNow lab 0 = true ∧
    timedNow loose 0 = false ∧ bankAt s 1 0 0 = some 0 ∧ bankAt s 1 0 1 = none ∧ timedMode (groupOf s 1) = true ∧ bankRuns s 0 = true ∧ (9 : Nat) ≠ 8 := by decide +kernel

/-- A receive of the strand on channel 1 that waits (R264). -/
def receiving : Macro := { zeroing with word := (encode (.xrecv 0 1 2 3 15)).headD 0, ctx := { lab.cur with rc := 1 } }

theorem meets_arrival_at_a_receive :
    let s : State := { withStrand { strand0 with wait := [.receive 1] } with rows := [(0, { Row.empty with pwr := .on, macros := [(5, receiving)] })] }
    Sparse.find (strandOf s 0).chans 1 = none ∧ openReceive s 0 1 = some (5, receiving) ∧ receiving.ctx.drain = false ∧
    message.lines.length = (recLines (rec0 receiving.ctx)).length ∧ openReceive lab 0 1 = none := by decide +kernel

/-- The lab with another entry for token 1, and another agent's entry. -/
def tokens (t : Token) : State := { lab with tokens := [(1, t)] }
def owned : Token := { Token.free with st := .owned, size := 21, base := 0x8000000000, gen := 1, holder := 0x80 }

theorem meets_takes : let t : Token := { owned with st := .inFlight, target := 0x80, arrived := true, lender := 1 }
    handArrived (tokens t) 0x10001 (bankAgent (tokens t) 0) false = true ∧ (rowOf (tokens t) (bankRow 0)).dcache = [] ∧
    handArrived lab 0x10001 (bankAgent lab 0) false = false ∧
    handArrived (tokens { owned with grants := [2 ^ 32 + 0x80] }) 0x10001 (bankAgent lab 0) true = true ∧ handArrived lab 0x10001 (bankAgent lab 0) true = false ∧
    timedNow loose 0 = false := by decide +kernel

theorem firstFrom_second (f : Nat → Bool) (i n : Nat) (h : f i = true ∨ f (i + 1) = true) : ∃ u, firstFrom f i (n + 2) = some u := by
  by_cases h0 : f i = true
  · exact ⟨i, by simp only [firstFrom, h0, if_true]⟩
  · exact ⟨i + 1, by simp only [firstFrom, h0, h.resolve_left h0, if_true, if_false, Bool.false_eq_true]⟩

theorem meets_split : heldEntry (strandOf lab 0).held 0x10001 = some entry ∧ (∃ u, (freeEntry lab).1 = some u) ∧ (tokenOf lab (tokIdx 0x10001)).st ≠ .free ∧
    (1 : Nat) ≠ 2 := by
  refine ⟨by decide +kernel, ?_, by decide +kernel, by decide⟩
  have h : ∀ i, i ≠ 1 → entryFree lab i = true := fun i hi => by
    simp [entryFree, tokenOf, lab, Sparse.getD, Sparse.find, Token.free, Ne.symm hi]
  obtain ⟨u, hu⟩ := firstFrom_second (fun i => entryFree lab ((Config.freeNat lab.freeCtr + i) % 65536)) 0 65534
    (by by_cases e : (Config.freeNat lab.freeCtr + 0) % 65536 = 1
        · exact .inr (h _ (by omega))
        · exact .inl (h _ e))
  exact ⟨_, congrArg (Option.map (fun i => (Config.freeNat lab.freeCtr + i) % 65536)) hu⟩

/-- A hand-off of token 1 to the strand's own agent, and to another's. -/
def handoff (k : HandKind) (target : Nat) : Handoff := { kind := k, tok := 0x10001, giver := 0x80, target := target, scope := 2, zone := 0, stamp := 12 }

theorem meets_hand_offs : heldEntry (strandOf lab 0).held 0x10001 = some entry ∧ heldEntry (strandOf lab 0).held 0x10002 = none ∧
    (latestWrite lab lab.cur.bank lab.cur.pkc entry + 1 ≤ now lab + 12 ∧ dirtyLines lab (bankAgent lab lab.cur.bank) entry = []) ∧
    tokCurrent lab (handoff .lend 0x80).tok = true ∧ tokCurrent lab 0x20001 = false ∧ agPkg (handoff .lend 0x80).target = lab.dev.pkg ∧ agKind (handoff .lend 0x80).target ≠ 1 ∧
    agKind (handoff .lend 0x2000000).target = 1 ∧ agPkg (handoff .lend 0x2000000).target = lab.dev.pkg ∧
    agKind (handoff .lend 0x80).target = 0 ∧ (handoff .ret 0).kind = .ret ∧ (handoff .share 0).kind = .share ∧ (handoff .pass 0).kind ≠ .share ∧
    agentGone lab 0x80 = false := by decide +kernel
theorem meets_arrivals : let t : Token := { owned with st := .inFlight, target := 0x80 }
    tokCurrent (tokens t) 0x10001 = true ∧ (tokenOf (tokens t) 1).st = .inFlight ∧ (tokenOf (tokens t) 1).target = 0x80 ∧
    (∀ b, agentBank (tokens t) 0x80 = some b → WaitFor.take 0x10001 false ∉ (strandOf (tokens t) b).wait) := by
  refine ⟨by decide +kernel, by decide +kernel, by decide +kernel, fun b h => ?_⟩
  have : agentBank (tokens { owned with st := .inFlight, target := 0x80 }) 0x80 = some 0 := by decide +kernel
  cases this.symm.trans h; decide +kernel
theorem meets_bank_elements : (0 < 1 ∧ 0 < 32) ∧ bitOf 0 1 = false ∧ bitOf 2 1 = true ∧ bitOf 2 0 = false ∧ bitOf 3 1 = true ∧ bitOf 3 0 = true := by decide
theorem meets_slots : (1 : Nat) ≠ 0 ∧ killStale { lab with stackTab := [(0, { Stack.empty with part := [(1, 2)], slots := [(slotKey 1 1, { live := true, gen := 2, img := 0, defAt := some lab.hkc })] })] } 0 0x1001 = true ∧ (0xFFFF : BitVec 16).getLsbD 15 = true ∧ (0 : BitVec 16).getLsbD 0 = false ∧
    killStale { lab with stackTab := [(0, { Stack.empty with part := [(1, 2)], slots := [(slotKey 1 1, { live := true, gen := 1, img := 0, defAt := none })] })] } 0 0x1001 = false := by decide +kernel

/-- A job that copies one byte within the page, of the strand, in slot 0 of scheduler 0. -/
def region : Nat := 0x8000000 + 21 * 2 ^ 40
def job : Job :=
  { st := .ready, serial := 7, card := BitVec.ofNat 1024 (1 + 2 ^ 24 + 2 ^ 27 + region * 2 ^ 512 + region * 2 ^ 704), src := 0x0300000040000000, dst := 0x0300000040000040,
    agent := 0x2000000, submitter := 0x4000000, ctx := 0, grp := 1, kern := 1, stack := 0, row := 0, waddr := 4, pkc := 0, sched := 0, tbl := [page], toks := [entry], edges := [], phase := false, foImg := [], todo := [], hand := false, tag := 0,
    qlife := 0, held := false }

/-- The lab with jobs in slots 0 and 1. -/
def jobs (s : State) (j k : Job) : State := { s with jobs := [(0, j), (1, k)], nextJob := 9 }
def waitingJob : Job := { job with st := .queued, serial := 8, edges := [7] }

theorem meets_submissions : guardOn (withWord (.xjob 0 1 2)) 0 = true ∧ (withWord (.xjob 0 1 2)).cur.drain = false ∧ 1 ≠ 0 * 64 + freeSlot lab 0 := by decide +kernel

/-- A job that writes to a page which is away, and the lab whose kernel's budget has no bounce page for it. -/
def narrow : State :=
  { lab with kernels := [(1, { loadKernel with bud := { Budget.top with bounce := 0 } })],
             frames := [(0x8000200000, PageFrame.of 0 0x40200000 2 .away false 0 1)] }
def bouncing : Job :=
  { job with card := BitVec.ofNat 1024 (1 + 2 ^ 24 + 2 ^ 27 + region * 2 ^ 512 + (region + 0x200) * 2 ^ 704), dst := 0x0300000040200000,
             tbl := [page, { lo := 0xA000000040200003, hi := 0x0000008000200000 }], toks := [{ entry with size := 22 }] }

/-- The state with stack 0 past the refresh slot of its first cell. -/
def past (s : State) : State := setStack s 0 { stackOf s 0 with f := 300 }

theorem meets_job_runs : let s := past (jobs lab job waitingJob)
    Sparse.find s.jobs 0 = some job ∧ job.st = .ready ∧ waitingJob.st ≠ .ready ∧ job.st ≠ .parked ∧ job.st ≠ .running ∧ startHeld s job = false ∧ startHeld s { job with submitter := 0x80 } = true ∧
    chosen s 0 job = true ∧ chosen s 0 { job with serial := 8 } = false ∧
    (match runJob s 0 job with | .runs u _ => (Sparse.find u.jobs 0).isSome | _ => false) = true ∧
    (match runJob (past (jobs narrow bouncing waitingJob)) 0 bouncing with | .parks _ _ => true | _ => false) = true ∧
    (match runJob s 0 { job with tbl := [] } with | .faults _ c _ _ => c == 0x03 | _ => false) = true ∧
    cardNtok job.card = 0 ∧ cardFo job.card = false ∧ Sparse.wf s.jobs = true ∧ Sparse.find s.jobs 1 = some waitingJob ∧ waitingJob.edges = [job.serial] ∧
    job.serial ∉ job.edges ∧ jobHold s job = 0 ∧ jobHold (past (jobs narrow bouncing waitingJob)) bouncing = 0 ∧ jobHold s { job with tbl := [] } = 0 := by
  refine ⟨?_, ?_, ?_, ?_, ?_, ?_, ?_, ?_, ?_, ?_, ?_, ?_, ?_, ?_, ?_, ?_, ?_, ?_, ?_, ?_, ?_⟩ <;> decide +kernel
theorem meets_job_holds : let s := jobs lab job waitingJob
    jobHold s job ≠ 0 ∧ startHeld s job = false ∧ chosen s 0 job = true ∧ ({ job with st := .running, held := true } : Job).held = true ∧
    ¬(({ job with st := .running } : Job).st = .running ∧ ({ job with st := .running } : Job).held = true) ∧
    jobHold s { job with st := .running, held := true } ≠ 0 ∧ jobHold s { job with st := .parked, todo := [(0x1000000, 0, 1)] } ≠ 0 := by decide +kernel

/-- A notice of barrier 3 for stack 0, and an armed barrier of context 0 that expects two arrivals and 8 bytes. -/
def notice : BarNotice := { stack := 0, idx := 3, state := 1, ctx := 0, phase := false, trips := 0 }
def armed : Barrier := { Barrier.free with state := 1, n := 2, bytes := 8, pending := 8 }
def barriers (x : Barrier) : State := { lab with barriers := [(3, x)] }
def arrival : BarEvent := { idx := 3, ctx := 0, credit := 8, src := 0 }

theorem meets_barrier_words : guardOn lab 0 = true ∧ lab.cur.drain = false ∧ timedNow lab lab.cur.bank = true ∧ timedNow loose loose.cur.bank = false ∧ barKey lab 3 < 4096 ∧ 4096 ≤ barKey lab (3 + 2 ^ 12) ∧
    (mirrorOf lab 0 3).phase ≠ true ∧ (mirrorOf lab 0 3).phase = false := by decide +kernel
theorem meets_barriers_at_the_hub : (barrierOf lab 3).state = 0 ∧ (barrierOf (barriers armed) 3).state ≠ 0 ∧ (lab.cur.pkc = 0 ∧ lab.cur.word = 0) ∧
    arrival.idx ≠ 0 ∧ ({ arrival with idx := 0 } : BarEvent).idx = 0 ∧ (barrierOf lab 3).state ∈ [0, 4] ∧ (barrierOf (barriers { armed with ctx := 1 }) 3).ctx ≠ arrival.ctx ∧
    armed.state ∉ [0, 4] ∧ armed.ctx = arrival.ctx ∧ ({ armed with pending := 7 } : Barrier).pending < arrival.credit ∧ ({ armed with arr := 2 } : Barrier).arr = armed.n ∧
    (arrival.credit ≤ armed.pending ∧ armed.arr ≠ armed.n ∧ armed.arr + 1 ≠ armed.n) ∧
    (({ armed with arr := 1 } : Barrier).arr + 1 = armed.n ∧ armed.pending = arrival.credit) ∧ armed.sig = false := by decide +kernel
theorem meets_notices : timedWaits lab 0 3 = [] ∧ looseWaits lab 0 3 = [] ∧ ((0, 4) : Nat × Nat) ≠ (notice.stack, notice.idx) ∧
    deadlineMet { lab with stackTab := [(0, { Stack.empty with mirror := [(3, { state := 1, ctx := 0, phase := false, trips := 1 })] })] } lab.cur 3 0 = true ∧
    deadlineMet { lab with stackTab := [(0, { Stack.empty with mirror := [(3, { state := 1, ctx := 0, phase := false, trips := 0 })] })] } lab.cur 3 0 = false := by decide +kernel

/-- A state whose image begins with a packet of one word. -/
def imageOf (s : State) (i : Instr) : State := writeNat (writeNat s (imemAddr 0 0) 4 0xC0002000) (imemAddr 0 4) 4 ((encode i).headD 0).toNat

/-- What a packet's verdict lets go. -/
def goes (v : Verdict) (p : PWord × Ctx → Bool) : Bool := match v with | .go ws => ws.any p | _ => false

theorem meets_packets : goes (validate (imageOf lab (.add 0 1 2 3)) 0 0 1 0) (fun x => wordEng x.1.word == 0 && !steers x.1.ins) = true ∧
    goes (validate (imageOf lab (.vmov 0 1 2 0)) 0 0 1 0) (fun x => wordEng x.1.word == 1) = true ∧
    goes (validate (imageOf lab (.mzero 0 3)) 0 0 1 0) (fun x => wordEng x.1.word == 2) = true ∧
    goes (validate (imageOf lab (.br 0 0)) 0 0 1 0) (fun x => steers x.1.ins) = true ∧
    (match validate (imageOf lab (.vmov 0 1 2 0)) 0 0 1 1 with | .fault _ f => f.cause == 0x01 | _ => false) = true ∧
    (match validate (imageOf { loose with rows := [(0, { Row.empty with pwr := .on, divBusy := 9 })] } (.div 0 1 2 3)) 0 0 1 0 with | .hold => true | _ => false) = true := by
  refine ⟨?_, ?_, ?_, ?_, ?_, ?_⟩ <;> decide +kernel

/-- The lab with a word at the head of its row's queues. -/
def queued (i : Instr) (c : Ctx) : QWord := { word := (encode i).headD 0, ctx := { c with word := (encode i).headD 0 }, clk := .kern 1 0, arrive := 0, issueAt := 0, win := 0, job := none, dead := false }
def queueing (q : QWord) (r : Row) : State := { withCur q.ctx with rows := [(0, { r with mq := [q], bq := [q] })] }

theorem meets_engine_queues : let q := queued (.mzero 0 3) lab.cur
    let p := queued (.mmulI8 0 3 1 2 1 1 1) { lab.cur with recs := [BitVec.ofNat 512 (2 * 2 ^ 484)] }
    let s := queueing q { Row.empty with pwr := .on }
    let t := queueing p { Row.empty with pwr := .on, creels := [(1, { Creel.empty with st := .full })] }
    headWord (rowOf s 0) s.cur = some q ∧ mMayIssue s q.word s.cur (rowOf s 0) (now s) = true ∧ rectFault s q (now s) = none ∧
    mMayIssue s q.word s.cur { rowOf s 0 with res := { MRes.idle with issueNow := 1 } } (now s) = false ∧
    (rowOf s 0).bq.head? = some q ∧ bankBusy (rowOf s 0) s.cur = false ∧
    bankBusy { rowOf s 0 with macros := [(1, { zeroing with word := (encode (.bsum 0 1 3 1 1)).headD 0 })] } s.cur = true ∧
    headWord (rowOf t 0) t.cur = some p ∧ mMayIssue t p.word t.cur (rowOf t 0) (now t) = true ∧ (rectFault t p (now t)).isSome = true := by
  refine ⟨?_, ?_, ?_, ?_, ?_, ?_, ?_, ?_, ?_, ?_⟩ <;> decide +kernel
theorem meets_partials : rowBank lab 1 0 = some 0 ∧ rowBank lab 1 7 = none ∧ bankRuns lab 0 = true ∧ Sparse.find (rowOf lab 0).edge 31 = none ∧
    (Sparse.find (rowOf { lab with rows := [(0, { Row.empty with edge := [(31, [])] })] } 0).edge 31) = some [] := by decide +kernel

/-- The lab with its group in another state. -/
def withGroup (x : Group) : State := { lab with groups := [(1, x)] }
def zone0 : GZone := { z := 0, kc := 0, go := true, stopN := 0, stopH := 0, resN := none, reported := false }

theorem meets_freezes : let s := withGroup { loadGroup with rS := 2, zones := [zone0, { zone0 with z := 1 }] }
    { zone0 with z := 1 } ∈ (groupOf s 1).zones ∧ (1 : Nat) ≠ 0 ∧ ({ zone0 with z := 1 } : GZone).go = true ∧
    (strandOf s 0).grp = 1 ∧ bankStack 0 = 0 ∧ (strandOf s 0).st = .running ∧ bankStack 32 ≠ 0 ∧ (strandOf s 2).grp ≠ 1 ∧
    (groupOf (withGroup { loadGroup with stops := [.trap] }) 1).stops = [.trap] ∧ (groupOf lab 1).stops = [] ∧ (groupOf lab 1).restart = none ∧ lab.agenda = [] ∧
    allStrands lab 1 (fun y => y == .done || y == .yielded) = false ∧ (groupOf (withGroup { loadGroup with st := .frozen }) 1).st = .frozen := by decide +kernel
theorem meets_waits : (strandOf (withStrand { strand0 with st := .waiting, wait := [.issue] }) 0).st = .waiting ∧ (∀ w ∈ [WaitFor.issue], w = .issue) ∧
    (strandOf lab 5).st ∈ [StrandState.unloaded, .yielded, .done, .failed] ∧ (strandOf lab 0).st ∉ [StrandState.unloaded, .yielded, .done, .failed] ∧ (0x12 : Nat) ≠ 2 ∧
    (strandOf (withStrand { strand0 with timer := some 0 }) 0).timer = some 0 ∧ 0 ≤ bankKc lab 0 ∧ (∀ k, (some 1 : Option Nat) = some k → bankKc lab 0 < k) ∧
    (strandOf lab 0).st ≠ .unloaded ∧ bankRuns lab 0 = true ∧ bankRuns (withGroup { loadGroup with zones := [{ zone0 with go := false }] }) 0 = false := by
  refine ⟨by decide +kernel, by decide, by decide +kernel, by decide +kernel, by decide, by decide +kernel, by decide +kernel, fun k h => ?_, by decide +kernel, by decide +kernel, by decide +kernel⟩
  cases h; decide +kernel
theorem meets_halts : (strandOf lab 0).st ∉ [StrandState.unloaded, .failed, .halted] ∧ (strandOf lab 5).st ∈ [StrandState.unloaded, .failed, .halted] ∧
    (strandOf (withStrand { strand0 with st := .halted }) 0).st = .halted ∧ (strandOf (withStrand { strand0 with st := .halted, prev := .waiting, ie := true }) 0).prev = .waiting ∧
    (strandOf (withStrand { strand0 with st := .halted, prev := .bankedOut }) 0).prev = .bankedOut ∧ strand0.trap = false ∧ (strandOf (withStrand { strand0 with st := .halted }) 0).prev = .running ∧
    (strandOf (withStrand { strand0 with st := .bankedOut, prev := .ready }) 0).st = .bankedOut ∧
    (strandOf (withStrand { strand0 with st := .bankedOut, prev := .ready }) 0).prev = .ready ∧ (strandOf lab 0).prev ≠ .ready ∧ lab.cur.arg = 0 := by decide +kernel

/-- The lab whose page is on its way in. -/
def paging : State := { away with pages := [(3, { ctx := 0, kern := 0, va := 0x40000000, size := 2, frame := 0x8000000000, back := 0, banks := [0], drained := [] })] }

def moving : State := { paging with frames := [(0x8000000000, PageFrame.of 0 0x40000000 2 .moving false 0 0)] }

theorem meets_pager : Sparse.find lab.pages 3 = none ∧ (Sparse.find paging.pages 3).isSome ∧ (Sparse.find paging.frames 0x8000000000).isSome ∧
    (∀ j, Sparse.find paging.pages 3 = some j → moveHeld paging j = 0) ∧ (∀ j, Sparse.find moving.pages 3 = some j → moveHeld moving j ≠ 0) ∧
    ∃ j, Sparse.find moving.pages 3 = some j := by
  refine ⟨by decide +kernel, by decide +kernel, by decide +kernel, fun j h => ?_, fun j h => ?_, ⟨_, rfl⟩⟩
  all_goals simp only [moving, paging, Sparse.find, Option.some.injEq, if_true] at h; subst h; decide +kernel

/-- The lab whose strand has armed a realign at kc K with slack, and whose zone has stopped and reported. -/
def arming (k : Nat) : Strand := { strand0 with realign := some (k, 9, lab.cur) }
def realigned (k : Nat) : State :=
  { lab with banks := [(0, arming k)], groups := [(1, { loadGroup with stops := [.realign], zones := [{ zone0 with kc := 1, go := false, reported := true }] })] }

theorem meets_realigns : anyArmed lab 1 0 = false ∧ anyArmed (withStrand (arming 0)) 1 0 = true ∧ (gzone (groupOf lab 1) 0).go = true ∧
    (gzone (groupOf (realigned 0) 1) 0).go = false ∧ (groupOf lab 1).withdrawn = false ∧ (strandOf lab 0).st = .running ∧
    (groupOf lab 1).stops.contains .realign = false ∧ (∃ y ∈ (groupOf lab 1).zones, y.reported = false) ∧ (groupOf (realigned 0) 1).stops = [.realign] ∧
    (∀ y ∈ (groupOf (realigned 0) 1).zones, y.reported = true) ∧ (realigned 0).agenda = [] ∧ realignParties (realigned 0) 1 = [0] ∧
    (∀ b ∈ realignParties (realigned 0) 1, realignDiffers (realigned 0) 1 b = false) ∧
    (realignParties (realigned 7) 1).find? (realignDiffers (realigned 7) 1) = some 0 ∧
    allStrands (realigned 0) 1 (fun y => y == .done || y == .yielded) = false ∧ allStrands (realigned 7) 1 (fun y => y == .done || y == .yielded) = false ∧ realignLate lab 0 = false ∧ realignLate (realigned 0) 0 = true := by
  decide +kernel
theorem meets_mismatches : let s : State := { lab with rows := [(0, { Row.empty with pwr := .on, mism := 2 })] }
    (strandOf lab (2 * lab.cur.arg + (rowOf lab 0).run)).st ≠ .unloaded ∧ (strandOf { lab with banks := [] } 0).st = .unloaded ∧ (rowOf lab 0).mism < 2 ∧
    2 ≤ (rowOf s 0).mism ∧ rowGroups s 0 = [1] ∧ (groupOf s 1).st = .running := by decide +kernel
theorem meets_phase_restarts : let s := withGroup { loadGroup with restart := some 0 }
    let u : State := { s with jobs := [(0, { job with phase := true })] }
    restCards s 1 = [] ∧ phaseJobs s 1 = false ∧ phaseJobs (resubmitCards u 1) 1 = true ∧ Sparse.wf s.banks = true ∧ ((groupOf s 1).zones.map (·.z)).Nodup ∧
    0 ∈ goingBanks s 1 ∧ 5 ∉ goingBanks s 1 := by decide +kernel
theorem meets_clocks : lab.dev.powered = true ∧ 0 ∈ liveStacks lab ∧ (stackOf lab 0).f + 1 < 15616 ∧
    (0 = (zone0).z ∧ zone0.go = true) ∧ resumeDue (stackOf lab 0) (gzone (groupOf (withGroup { loadGroup with zones := [{ zone0 with go := false, resN := some 0 }] }) 1) 0) = true ∧
    lab.flips = [] ∧ ¬ ((stackOf lab 0).stretched + 1) * 4096 ≤ 24 * (stackOf lab 0).f := by decide +kernel
theorem meets_no_stretch : stretches { lab with hkc := lab.hkc + 1, turned := false } 0 = false := by
  simp only [stretches, Bool.and_eq_false_iff]
  exact .inr (by decide +kernel)
/-- A package that is not the first of its line, with or without the link to the west. -/
def second (up : Bool) : State :=
  { lab with dev := { lab.dev with pkg := 1 }, links := if up then [(9, { Link.down with st := .up, mods := 8 })] else [], stackTab := [(0, { stackOf lab 0 with f := 15616 })] }
theorem meets_pulses : pulseMaster lab = true ∧ pulseMaster (second true) = false ∧ pulseMaster (second false) = true ∧ lab.cur.arg ≠ 1 ∧
    ((({ second true with cur := { lab.cur with arg := 1 } } : State).cur.arg = 1) ↔ pulseMaster { second true with cur := { lab.cur with arg := 1 } } = false) ∧
    (∀ e ∈ (withGroup { loadGroup with started := true }).groups, e.2.started = true) ∧ 15616 ≤ (stackOf (second true) 0).f ∧ 0 ∈ liveStacks (second true) ∧ (stackOf lab 0).f < 15616 := by decide +kernel

/-- A row's power state, and the lab with it. -/
def powered (p : Power) : State := { lab with rows := [(0, { Row.empty with pwr := p })] }

theorem meets_power : (rowOf lab 0).pwr = .on ∧ arrayUsed { lab with banks := [] } 0 = false ∧ arrayUsed lab 0 = true ∧ (rowOf (powered .draining) 0).pwr = .draining ∧
    arrayQuiet (powered .draining) 0 = true ∧ arrayQuiet (queueing (queued (.mzero 0 3) lab.cur) { Row.empty with pwr := .draining }) 0 = false ∧
    (rowOf (powered .drainingQuiet) 0).pwr = .drainingQuiet ∧ (rowOf (powered .drainingQuiet) 0).pwrGen = lab.cur.pkc ∧ (rowOf (powered .waking) 0).pwr = .waking ∧
    (rowOf (powered .gated) 0).pwr = .gated ∧ 1 ≠ lab.cur.pkc ∧ 2 ∉ [2 * 0, 2 * 0 + 1] ∧
    arrayUsed (powered .waking) 0 = true ∧ arrayUsed { powered .waking with banks := [] } 0 = false := by decide +kernel
theorem meets_yield_requests : holdsRows (groupOf lab 1) = true ∧ holdsRows (groupOf lab 2) = false ∧ zone0 ∈ (groupOf lab 1).zones ∧
    (0 ∈ banksOf lab 1 ∧ bankStack 0 = 0) ∧ 2 ∉ banksOf lab 1 ∧ deadlineOver lab lab.cur = false ∧ (groupOf lab 1).yreq.getLsbD 1 = false ∧
    deadlineOver (withGroup { loadGroup with yreq := 3 }) lab.cur = true ∧
    (deadlineOver (withGroup { loadGroup with yreq := 3 }) { lab.cur with hand := true } = false) ∧ lab.cur.hand = false := by decide +kernel

/-- A change of entry 0 of a window table that makes it unpinned, and the lab whose kernel waits with it for stack 0. -/
def change : WChange := { idx := 0, ent := { page with lo := 0xA000000040000003 } }
def shooting : State := { lab with kernels := [(1, { loadKernel with table := [page], shoot := [change], shootWait := [0] })] }

theorem meets_shootdowns : Sparse.find lab.kernels 2 = none ∧ (Sparse.find lab.kernels 1).isSome ∧ tableWf lab (changed [change] [page]) = true ∧
    (∀ c ∈ [change], c.idx < [page].length) ∧ (kernelOf shooting 1).shoot ≠ [] ∧ (kernelOf lab 1).shoot = [] ∧ (kernelOf lab 1).st ≠ .completing ∧
    (kernelOf ({ lab with kernels := [(1, { loadKernel with st := .completing })] }) 1).st = .completing ∧
    0 ∉ (kernelOf lab 1).shootWait ∧ 0 ∈ (kernelOf shooting 1).shootWait ∧ (∃ b ∈ kernelBanks shooting 1 0, canReachNode shooting b = true) ∧
    (∀ b ∈ kernelBanks { shooting with banks := [] } 1 0, canReachNode { shooting with banks := [] } b = false) ∧
    (∀ y ∈ (kernelOf shooting 1).shootWait, y = 0) ∧ Sparse.find (stackOf lab 0).tables 1 = some [page] ∧
    (kernelOf shooting 1).ended < kernelTotal (kernelOf shooting 1) ∧ shooting.frames = [] ∧ shooting.cur.arg = 0 ∧ (kernelOf shooting 1).shoot[0]? = some change ∧
    (kernelOf shooting 1).shoot[1]? = none := by decide +kernel

/-- The lab with queue 3 of context 0, its block at the start of host memory and its ring behind it, and with memory filled in. -/
def host : Nat := 0x020000000000
def hosted (ws : List (Nat × Nat × Nat)) : State :=
  ws.foldl (fun s w => writeNat s (host + w.1) w.2.1 w.2.2)
    { withCur { lab.cur with arg := 3 } with
      queues := [(3, { Queue.disabled with st := .idle, blk := host, ring := host + 0x1000, priv := true, pi := 1 })], contexts := [(0, { Context.free with st := .opened })] }

/-- The queue in another state. -/
def queueing3 (x : Queue) : State := { hosted [] with queues := [(3, x)] }
def fencing : Queue := { Queue.disabled with st := .fenced, blk := host, ring := host + 0x1000, fence := [(0, [(0, 5, 1)])], since := some 0 }

theorem meets_queue_packets : let s := hosted [(0x1008, 8, baseCommons), (0x1010, 8, 1)]
    let x := queueOf s s.cur.arg
    Memory.wf s.mem = true ∧ Flawless s ∧ x.blk % 256 = 0 ∧ x.ci + 1 < 2 ^ 64 ∧ Sparse.find x.fence x.ci = none ∧ s.dev.pkg < 16 ∧ counterForm s (fieldAt s (headAddr s 3) 8 8) = true ∧ paPkg (fieldAt s (headAddr s 3) 8 8) = s.dev.pkg ∧
    baseHost ≤ paLocal x.blk ∧ fieldAt s (headAddr s 3) 2 1 = 0 := by
  refine ⟨by decide +kernel, ⟨by decide +kernel, by decide +kernel, by decide +kernel⟩, ?_⟩; decide +kernel
theorem meets_signal_elsewhere : let s : State := { hosted [(0x1008, 8, baseCommons + 2 ^ 48)] with dev := { lab.dev with east := 1 } }
    counterForm s (fieldAt s (headAddr s 3) 8 8) = true ∧ paPkg (fieldAt s (headAddr s 3) 8 8) ≠ s.dev.pkg := by decide +kernel
theorem meets_fences : let s := hosted [(0x1002, 1, 1), (0x1008, 8, 1), (0x1010, 4, 5)]
    let t := hosted [(0x1002, 1, 1), (0x1008, 8, 0), (0x1010, 4, 5)]
    let p := headAddr s 3
    fieldAt s p 2 1 = 1 ∧ (fenceEntry s p 0).2.1 = s.dev.pkg ∧ ¬ (fieldAt s p 8 8 ≤ readNat s (baseCommons + 40) 8) ∧ fieldAt t p 8 8 ≤ readNat t (baseCommons + 40) 8 := by
  decide +kernel
theorem meets_fence_polls : (queueing3 fencing).cur.arg = 3 ∧ (queueing3 fencing).cur.pkc = 0 ∧ fencing.st ≠ .disabled ∧ fenceOf fencing 0 ≠ [] ∧ fenceOf Queue.disabled 0 = [] ∧
    (∀ e ∈ fenceOf fencing 0, e.1 = (queueing3 fencing).dev.pkg) ∧ ((fenceOf fencing 0).all (fun e => decide (e.2.2 ≤ readNat (queueing3 fencing) (baseCommons + 8 * e.2.1) 8))) = false ∧
    (0 ≤ readNat (queueing3 fencing) (baseCommons + 40) 8) ∧ Queue.disabled.st = .disabled ∧ fencing.since = some lab.cur.pkc ∧ Queue.disabled.since ≠ some lab.cur.pkc := by
  decide +kernel
theorem meets_token_packets : let s := hosted [(0x100C, 4, 0x80), (0x1010, 8, 0x8000200015)]
    let v : Dword := BitVec.ofNat 64 (fieldAt s (headAddr s 3) 16 8)
    Flawless s ∧ (queueOf s 3).ctx < 256 ∧ mintCause s 0 v 0x80 = none ∧ regionOf s v = some (0x8000200000, 21) ∧ (mintCause s 0 0 0x80).isSome = true ∧
    mintCause s 0 v (hostAgent s 0) = none ∧ agKind (hostAgent s 0) = 2 ∧ agPkg (hostAgent s 0) = s.dev.pkg ∧ agKind 0x80 = 0 ∧ agentBank s 0x80 = some 0 := by
  refine ⟨⟨by decide +kernel, by decide +kernel, by decide +kernel⟩, ?_⟩; decide +kernel

/-- The hosted lab whose host agent owns token 1, of its own or lent. -/
def hostOwns (st : TokState) : State :=
  { hosted [(0x1008, 4, 0x10001), (0x100C, 4, 0x80)] with
    contexts := [(0, { Context.free with st := .opened, hostHeld := [entry] })], tokens := [(1, { owned with st := st, holder := 0x4000000, lender := 0x80 })] }

theorem meets_host_hand_offs : Flawless (hostOwns .owned) ∧ hostHandCause (hostOwns .owned) 0 0x10001 0x80 .lend = none ∧
    hostHandCause (hostOwns .owned) 0 0x10001 0x80 .pass = none ∧ hostHandCause (hostOwns .lent) 0 0x10001 0x80 .ret = none ∧
    (hostHandCause (hostOwns .owned) 0 0x10001 0x80 .ret).isSome = true ∧ (hostHandCause (hostOwns .owned) 0 0x10002 0x80 .lend).isSome = true ∧
    (hostHandCause (hostOwns .owned) 0 0x10002 0x80 .pass).isSome = true := by
  refine ⟨⟨by decide +kernel, by decide +kernel, by decide +kernel⟩, ?_⟩; decide +kernel

/-- The hosted lab's memory with a card of a page move of 4 KiB at its queue's head. -/
def cardAt (kind : Nat) : State :=
  hosted [(0x1008, 8, host + 0x5000), (0x5000, 8, kind + 2 ^ 12 + 2 ^ 24 + 2 ^ 27), (0x5040, 6, 0x8000000 + 12 * 2 ^ 40), (0x5058, 6, 0x8000001 + 12 * 2 ^ 40)]

theorem meets_job_packets : let s := cardAt 7
    let a := fieldAt s (headAddr s 3) 8 8
    jobPacketFail s 3 a (BitVec.ofNat 1024 (fieldAt s a 0 128)) = none ∧ (queueOf s 3).ctx < 256 ∧ 513 ≠ 512 + freeSlot s 8 := by decide +kernel
theorem meets_job_packets_that_fail : let s := cardAt 1
    let a := fieldAt s (headAddr s 3) 8 8
    jobPacketFail s 3 a (BitVec.ofNat 1024 (fieldAt s a 0 128)) = some (0x0C, 1) := by decide +kernel

/-- The hosted lab with a queue block at 0x2000 and a context block at 0x6000. -/
def blocks (c : CtxState) : State :=
  { hosted [(0x2000, 8, 2), (0x2008, 8, host + 0x6000), (0x2040, 8, host + 0x7000), (0x2048, 1, 4), (0x204A, 1, 5), (0x2050, 8, baseCommons),
            (0x6000, 8, 1 + 0x0FFF * 2 ^ 16), (0x6040, 4, 0xFFFFFFFF), (0x6058, 2, 1)] with contexts := [(0, { Context.free with st := c, blk := host + 0x6000 })] }

theorem meets_queue_enable : let s := blocks .opened
    s.dev.ready = true ∧ blockCtx s (host + 0x2000) = 0 ∧ (contextOf s 0).st = .opened ∧ queueForm s 0 (host + 0x2000) = true ∧ fieldAt s (host + 0x2000) 74 1 = 5 ∧
    (queueOf s 5).st = .disabled ∧ readNat s (paLocal (fieldAt s (host + 0x2000) 80 8)) 8 = 0 ∧ Flawless s ∧ (contextOf (blocks .free) 0).st ≠ .opened := by
  refine ⟨?_, ?_, ?_, ?_, ?_, ?_, ?_, ⟨?_, ?_, ?_⟩, ?_⟩ <;> decide +kernel
theorem meets_queue_restart : let s := queueing3 { Queue.disabled with st := .stopped, blk := host, bell := baseCommons }
    (queueOf s 3).st = .stopped ∧ (queueOf s 3).ci ≤ 0 ∧ 0 ≤ readNat s (paLocal (queueOf s 3).bell) 8 ∧ Flawless s ∧ (queueOf (hosted []) 3).st ≠ .stopped := by
  refine ⟨?_, ?_, ?_, ⟨?_, ?_, ?_⟩, ?_⟩ <;> decide +kernel
theorem meets_contexts : let s := blocks .free
    s.dev.ready = true ∧ contextForm s (host + 0x6000) = true ∧ (contextOf s 0).st = .free ∧ (contextOf (blocks .opened) 0).st ≠ .free ∧
    (1 ≤ 1 ∧ paPkg (host + 0x8000) = s.dev.pkg ∧ tableWf s (readTable s (paLocal (host + 0x8000)) 1) = true) ∧
    contextGroups { s with groups := [] } 0 = [] ∧ s.jobs = [] ∧ contextGroups s 0 = [1] ∧ Sparse.wf s.contexts = true ∧ (contextOf (blocks .closing) 0).st = .closing ∧
    (contextOf (blocks .halted) 0).st = .halted ∧ (tokenOf s 1).ctx = 0 ∧ (barrierOf s 3).ctx = 0 := by decide +kernel

/-- The hosted lab with a kernel block at 0x3000, its window table at 0x4000, and its LAUNCH packet at the queue's head. -/
def launching (n : Nat) : State :=
  hosted [(0x3000, 8, 3), (0x3008, 8, host), (0x3040, 8, 0x40000000), (0x3048, 4, 0x1000), (0x304D, 1, 1), (0x304E, 1, 1), (0x3050, 8, host + 0x4000), (0x3058, 2, 1),
          (0x4000, 8, 0xA000000040000061), (0x4008, 8, 0x8000000000), (0x1008, 8, host + 0x3000), (0x1010, 2, n), (0x1012, 2, 1), (0x1014, 2, 1)]

theorem meets_launch : failedCheck (launchChecks (launching 1) 3 (host + 0x3000) 0) = none ∧ Memory.wf (launching 1).mem = true ∧ Flawless (launching 1) ∧
    kernelTotal (newKernel (launching 1) 3 (headAddr (launching 1) 3)) ≠ 0 ∧ kernelTotal (newKernel (launching 0) 3 (headAddr (launching 0) 3)) = 0 ∧
    failedCheck (launchChecks (hosted []) 3 (host + 0x3000) 0) = some 1 ∧ (host + 0x3000) % 256 = 0 := by
  refine ⟨?_, ?_, ⟨?_, ?_, ?_⟩, ?_, ?_, ?_, ?_⟩ <;> decide +kernel

/-- The lab with a kernel whose one group waits for placement, and with a wave that holds the lab's group. -/
def pending : State :=
  { lab with banks := [], groups := [], rows := [], kernels := [(7, { loadKernel with st := .pending, table := [page], nextL := 0, rR := 1, rS := 1 })],
             contexts := [(0, { Context.free with st := .opened, ngrp := 1, pool := host })] }
def waved (x : Group) : State := { lab with groups := [(1, x)], waves := [(4, [1])] }

theorem meets_placement : nextPlaced lab = none ∧ nextPlaced pending = some 7 ∧ wantsPlace pending 7 = true ∧ pending.dev.thold = false ∧
    Sparse.find lab.waves 4 = none ∧ Sparse.find (waved loadGroup).waves 4 = some [1] ∧ lab.cur.arg = 0 ∧ waveAwake (waved loadGroup) [1] = true ∧
    waveAwake { waved loadGroup with rows := [] } [1] = false ∧ (groupOf lab 1).st ≠ .placing ∧ (groupOf (waved { loadGroup with st := .placing }) 1).st = .placing := by
  decide +kernel

/-- The lab whose kernel has nothing left. -/
def ending (f : Bool) : State := { lab with kernels := [(1, { loadKernel with st := .completing, flt := f, blk := host + 0x3000, done := baseCommons })] }

theorem meets_completions : (kernelOf lab 1).st ≠ .completing ∧ (kernelOf (ending true) 1).st = .completing ∧ (kernelOf (ending true) 1).handBy ≤ (ending true).hkc ∧
    kernelFlight (ending true) 1 = false ∧ earlierDone (ending true) 1 = true ∧ kernelFlight { ending true with jobs := [(0, job)] } 1 = true ∧
    (∀ r ∈ [0], (rowOf (ending true) r).dcache = []) ∧ Memory.wf (ending true).mem = true ∧ (kernelOf (ending true) 1).blk % 256 = 0 ∧ (kernelOf (ending true) 1).done ≠ 0 ∧
    paPkg (kernelOf (ending true) 1).done = (ending true).dev.pkg ∧ (kernelOf (ending true) 1).done % 8 = 0 := by
  refine ⟨?_, ?_, ?_, ?_, ?_, ?_, ?_, ?_, ?_, ?_, ?_, ?_⟩ <;> decide +kernel
theorem choose_keeps (n : Nat) : ∀ (s : State) (w : List Nat), w ≠ [] → (choose n s w).2 ≠ [] := by
  induction n with
  | zero => exact fun _ _ h => h
  | succ n ih =>
    intro s w h
    simp only [choose]
    repeat' split
    all_goals first | exact h | exact ih _ _ (by simp)

theorem choose_first (m n k g z r w : Nat) (s s1 : State) (hm : m = n + 1) (h1 : nextPlaced s = some k) (h2 : nextGroup s k = some (g, s1))
    (h4 : findPosition s1 k = some (z, r, w)) : (choose m s []).2 ≠ [] := by
  simp only [hm, choose, h1, h2, h4]
  exact choose_keeps _ _ _ (by simp)

theorem meets_waves : (choose 65536 pending []).2 ≠ [] := by
  have h : (nextGroup pending 7).map (fun x => (findPosition x.2 7).isSome) = some true := by decide +kernel
  cases h2 : nextGroup pending 7 with
  | none => rw [h2] at h; cases h
  | some x =>
    simp only [h2, Option.map_some, Option.some.injEq] at h
    obtain ⟨⟨z, r, w⟩, h4⟩ := Option.isSome_iff_exists.mp h
    have h1 : nextPlaced pending = some 7 := by decide +kernel
    exact choose_first 65536 65535 7 x.1 z r w pending x.2 rfl h1 h2 h4

/-- The lab with a wave whose group is placed and whose stack has its image already, and one that has no token entry free. -/
def placing : State := waved { loadGroup with st := .placing }
theorem meets_copies : waveAwake placing [1] = true ∧ ((waveParts placing [1]).foldl copyPart (some (placing, []))).isSome = true ∧ (loadGroups placing [1]).isSome = true ∧
    (copyWave { placing with stackTab := [(0, { Stack.empty with images := [(9, { base := 0, size := 0x400000 })] })] } [1]).isNone = true ∧
    (({ placing with cur := { lab.cur with arg := 1 } } : State).cur.arg ≠ 0) := by
  refine ⟨?_, ?_, ?_, ?_, ?_⟩ <;> decide +kernel

/-- A flit with its CRC, and the lab with a link in a state. -/
def flit (hdr : Dword) (payload : BitVec 2048) : Flit := { hdr := hdr, payload := payload, crc := flitCrc hdr payload }
def linked (l : Nat) (x : Link) : State := { lab with links := [(l, x)], hkc := 262144 }
def upLink : Link := { Link.down with st := .up, mods := 4 }

theorem flit_good (x : Link) (k : Nat) (hdr : Dword) (p : BitVec 2048) (h : bitsOf hdr.toNat 0 12 = x.expect.getD k 0) : flitGood x k (flit hdr p) = true := by
  simp [flitGood, flit, flitSeq, h]
theorem flit_bad (x : Link) (k : Nat) (hdr : Dword) (p : BitVec 2048) : flitGood x k { flit hdr p with crc := ~~~(flitCrc hdr p) } = false := by
  have h : flitCrc hdr p ≠ ~~~(flitCrc hdr p) := fun e => by
    have := congrArg (fun v : Dword => v.getLsbD 0) e
    simp at this
  simp [flitGood, flit, h]

theorem meets_flits : linkCarries (linkOf (linked 8 upLink) 8) = true ∧ linkCarries (linkOf (linked 8 Link.down) 8) = false ∧
    flitGood upLink 0 (flit 0x9000 0) = true ∧ flitKind (flit 0x9000 0) = 9 ∧ flitGood upLink 0 (flit 0x7000 0) = true ∧ flitKind (flit 0x7000 0) ∉ [1, 3, 4, 6, 8] ∧ wantsAck 8 (flit 0x7000 0) = true ∧ wantsAck 8 (flit 0x8000 0) = false ∧
    flitGood upLink 0 (flit 0x8000 0) = true ∧ flitKind (flit 0x8000 0) = 8 ∧ bitOf (flit 0x8000 0).payload.toNat 13 = false ∧
    flitGood upLink 0 (flit 0x6000 0) = true ∧ flitKind (flit 0x6000 0) = 6 ∧ 8 < 32 ∧ bitOf (flit 0x4000 3).payload.toNat 177 = false ∧ bitOf (flit 0x4000 3).payload.toNat 176 = false ∧
    flitGood upLink 0 (flit 0x4000 3) = true ∧ flitKind (flit 0x4000 3) = 4 ∧ bitsOf (flit 0x4000 3).payload.toNat 12 4 = lab.dev.pkg ∧ 8 ≤ wireOf 8 ∧
    flitGood upLink 0 { flit 0x4000 3 with crc := ~~~(flitCrc 0x4000 3) } = false ∧ upLink.frameReplays < 15 ∧ upLink.st ≠ .retraining ∧
    15 ≤ ({ upLink with frameReplays := 15 } : Link).frameReplays := by
  refine ⟨?_, ?_, flit_good _ _ _ _ (by decide +kernel), ?_, flit_good _ _ _ _ (by decide +kernel), ?_, ?_, ?_, flit_good _ _ _ _ (by decide +kernel), ?_, ?_,
    flit_good _ _ _ _ (by decide +kernel), ?_, ?_, ?_, ?_, flit_good _ _ _ _ (by decide +kernel), ?_, ?_, ?_, flit_bad _ _ _ _, ?_, ?_, ?_⟩ <;> decide +kernel
/-- A hand-off between neighbouring stacks on its way, and a notice on its way from the hub. -/
def onTheWay : Timed := { clk := .kern 1 1, at_ := 5, ph := 0, row := 16, eng := 0, seq := 0, ctx := lab.cur, pay := .ev (.handoffArrival (handoff .lend 0x80)) }
def noticed : Timed := { onTheWay with pay := .ev (.barrierNotice notice) }
theorem meets_wires : fromHub 0 noticed = true ∧ 32 ≤ 32 ∧ (∃ k, onEdge onTheWay = some (0, k)) ∧
    (tokenOf (tokens { owned with st := .inFlight }) (tokKey lab (handoff .lend 0x80).tok)).st = .inFlight := by
  refine ⟨by decide +kernel, by decide, ⟨_, rfl⟩, by decide +kernel⟩
theorem meets_partial_flits : let s := withStrand { strand0 with gstack := 1 }
    edgeStrand lab 0 = none ∧ edgeStrand s 0 = some (1, 0) ∧ (rowBank s 1 0).isSome ∧ Sparse.find (rowOf s 0).edge (nextEdgeEntry (rowOf s 0)) = none ∧
    flitGood upLink 0 (flit 0x1000 0) = true ∧ flitKind (flit 0x1000 0) = 1 ∧ flitRow (flit 0x1000 0) = 0 ∧ slotOfFlit (linked 9 upLink) 9 (flit 0x1000 0) = 0 ∧
    wireOf 9 = 9 ∧ flitGood upLink 0 (flit 0x4000 0x1003) = true ∧ flitKind (flit 0x4000 0x1003) = 4 ∧ bitsOf (flit 0x4000 0x1003).payload.toNat 12 4 ≠ lab.dev.pkg := by
  refine ⟨?_, ?_, ?_, ?_, flit_good _ _ _ _ (by decide +kernel), ?_, ?_, ?_, ?_, flit_good _ _ _ _ (by decide +kernel), ?_, ?_⟩ <;> decide +kernel
theorem meets_token_flits : let f := flit 0x3000 (BitVec.ofNat 2048 (0x10001 + 0x80 * 2 ^ 32 + 2 ^ 98))
    let s := linked 8 upLink
    flitGood upLink 0 f = true ∧ flitKind f = 3 ∧ agPkg (tokenOfPayload s f).target = s.dev.pkg ∧ tokCurrent s (tokenOfPayload s f).tok = true ∧
    (tokenOfPayload s f).kind ∈ [HandKind.lend, .pass] ∧ bitsOf f.payload.toNat 188 3 = 0 := by
  refine ⟨flit_good _ _ _ _ (by decide +kernel), ?_, ?_, ?_, ?_, ?_⟩ <;> decide +kernel
theorem meets_shifted_flits : let p : Partial := { grp := 1, row := 16, entry := 0, vals := [] }
    let e : Timed := { clk := .kern 1 1, at_ := 5, ph := 0, row := 16, eng := 0, seq := 0, ctx := lab.cur, pay := .ev (.chainPartialArrival p) }
    onEdge e = some (0, edgeSlot 0 false) ∧ onEdge e ≠ some (8, 0) := by decide +kernel
theorem meets_replay_complete : let s := linked 8 { upLink with st := .replaying }
    s.cur.arg = 0 ∧ (linkOf s 8).st = .replaying ∧ (linkOf s 8).since ≤ s.hkc ∧ (linkOf (linked 8 upLink) 8).st ≠ .replaying ∧
    s.hkc < (linkOf (linked 8 { upLink with st := .replaying, since := 262145 }) 8).since := by decide +kernel
theorem meets_training : let s := linked 0 { upLink with st := .retraining, fails := 2 }
    (linkOf s 0).st = .retraining ∧ (linkOf s 0).since + 262144 ≤ s.hkc ∧ 0 < linkWidth 0 ∧ ¬ linkWidth 0 < linkWidth 0 ∧ 3 ≤ (linkOf s 0).fails + 1 ∧
    Link.down.fails + 1 < 3 ∧ (∀ e ∈ s.jobs, e.2.st ≠ .running) ∧ Link.down.st = .down ∧ staysDown s 0 = false ∧ staysDown s 9 = true ∧
    ({ upLink with st := .retired } : Link).st = .retired ∧ upLink.st ≠ .retired ∧ upLink.st ≠ .training ∧ upLink.st ≠ .retraining ∧ upLink.rply < 2 ^ 32 := by
  decide +kernel
theorem meets_lost_custody : let s := tokens { owned with st := .inFlight, holder := 0x8000000 }
    (tokenOf s 1).st = .inFlight ∧ (tokenOf s 1).holder = custodyAgent s 8 ∧ 8 ≤ 8 ∧ 8 < 10 ∧ (∀ e ∈ s.tokens, e.2.st = .inFlight → e.2.shares = 0) := by decide +kernel

/-- The lab whose context 0 maps its page for the host, with the port up. -/
def ported : State := { linked 10 upLink with contexts := [(0, { Context.free with st := .opened, hostTable := [page], hostHeld := [entry] })] }
def hostRead : HostAcc := { wr := false, off := 0x40000000, len := 8, data := [] }
def hostWrite : HostAcc := { wr := true, off := 0x40000000, len := 8, data := [1, 2, 3, 4, 5, 6, 7, 8] }
def hostSegs : List Seg := [{ va := 0x40000000, pa := 0x8000000000, len := 8 }]

theorem meets_host_accesses : hostPortOpen ported = true ∧ hostPortOpen lab = false ∧ (contextOf ported 0).st = .opened ∧
    segsOf (contextOf ported 0).hostTable 9 (bitsOf hostRead.off 0 40) 8 = hostSegs ∧ bitsOf hostRead.off 40 8 = 0 ∧
    (∀ g ∈ hostSegs, hostSegOk ported [page] false g = true ∧ hostTokenOk ported [entry] [page] false g = true) ∧
    (∀ g ∈ hostSegs, hostSegOk ported [page] true g = true ∧ hostTokenOk ported [entry] [page] true g = true) ∧ hostWrite.data.length = hostWrite.len ∧
    paPkg 0x8000000000 = ported.dev.pkg ∧ paLocal 0x8000000000 % 64 + 8 ≤ 64 ∧ Memory.wf ported.mem = true ∧ Flawless ported ∧ commonsOk hostSegs = true ∧
    hostHold ported hostSegs ≠ 0 ∧ hostHold (past ported) hostSegs = 0 ∧ (∀ g ∈ hostSegs, hostSegFinds (past ported) 0 true g = true ∧ hostSegFinds (past ported) 0 false g = true) ∧
    hostSegFinds { past ported with flips := [(lineKey 0, 1 + 2 ^ 100 + 2 ^ 200 + 2 ^ 300)] } 0 false { va := 0x40000000, pa := 0x8000000000, len := 8 } = false ∧
    (contextOf ported 1).st = .free := by
  refine ⟨?_, ?_, ?_, ?_, ?_, ?_, ?_, ?_, ?_, ?_, ?_, ⟨?_, ?_, ?_⟩, ?_, ?_, ?_, ?_, ?_, ?_⟩ <;> decide +kernel

theorem meets_bring_up : Device.off.fwAok = true ∧ ({ Device.off with fwAok := false } : Device).fwBok = false ∧
    stackFails State.reset.part = false ∧ stackFails { State.reset.part with badStacks := 1, harvest := 0 } = true ∧ numberFails State.reset.part { Device.off with pkgSet := some (16, 16) } = true ∧
    numberFails State.reset.part { Device.off with pkgSet := some (15, 16) } = true ∧ numberFails State.reset.part { Device.off with pkgSet := some (15, 15) } = false ∧
    Memory.wf State.reset.mem = true ∧ lab.elogLost < 2 ^ 32 ∧ Device.off.fwbank = false := by decide +kernel
theorem meets_temperatures : let hot : State := { lab with dev := { lab.dev with thold := true } }
    lab.cur.arg < 8 ∧ lab.dev.thold = false ∧ hot.dev.thold = true ∧ (lab.elogWr + 1) % 32768 ≠ lab.elogRd ∧ allCool hot = true ∧
    allCool { hot with stackTab := [(1, { Stack.empty with hot := true })] } = false := by decide +kernel

theorem meets_management_mints : regionOf lab 0x8000200015 = some (0x8000200000, 21) ∧ anyFree lab = true ∧ regionOf lab 0 = none ∧
    tokCurrent (tokens { owned with st := .lost }) 0x10001 = true ∧ (tokenOf (tokens { owned with st := .lost }) 1).st = .lost ∧ tokCurrent lab 0x20001 = false ∧
    ((tokenOf lab 1).st ≠ .lost ∧ (tokenOf lab 1).st ≠ .orphaned) ∧ tokHome 0x10001 = lab.dev.pkg ∧ tokCurrent lab 0x10001 = true ∧ tokRoom lab 0 = true ∧
    tokRoom { lab with contexts := [(0, { Context.free with bud := { Budget.top with tok := 0 } })] } 0 = false := by decide +kernel
theorem meets_management_barriers : 0 % 4096 = 0 ∧ 3 % 4096 ≠ 0 ∧ (barrierOf lab 3).state = 0 ∧ (barrierOf (barriers armed) 3).state ≠ 0 := by decide +kernel

/-- The lab without its group and with no stack but stack 0, its context 0 with a page of 4 KiB in its host window table, and perhaps host memory behind it. -/
def unplaced (l : List WEntry) (b : Bool) : State :=
  { lab with groups := [], kernels := [], part := { lab.part with harvest := 0xFE }, contexts := [(0, { Context.free with st := .opened, hostTable := l, hostbk := b, backing := host })] }
def smallPage : WEntry := { page with lo := 0x8000000040000003 }

theorem meets_offline : stackPresent lab 0 = true ∧ stackPresent lab 8 = false ∧ (∀ e ∈ (unplaced [] false).groups, holdsRows e.2 = false) ∧
    allHomed (unplaced [] false) 0 = [] ∧ allHomed (unplaced [smallPage] false) 0 = [(0, smallPage)] ∧ allPages (unplaced [] false) 0 = [] ∧ allPages (unplaced [smallPage] false) 0 = [(0, smallPage)] ∧
    (evacuateAll (setStack (unplaced [smallPage] false) 0 { stackOf lab 0 with online := false }) 0 [(0, smallPage)]).1 = false ∧
    regionMeets (unplaced [smallPage] false) 1 ((frameOf (unplaced [smallPage] false) 0 smallPage).getD (paLocal (wePa smallPage))) (Nat.log2 (pageBytes (weSize smallPage))) = true ∧ Sparse.wf (unplaced [smallPage] false).frames = true := by
  refine ⟨?_, ?_, ?_, ?_, ?_, ?_, ?_, ?_, ?_, ?_⟩ <;> decide +kernel
theorem meets_offline_moves : (evacuate (writeNat (unplaced [smallPage] true) (host + 8) 8 (host + 0x10000)) 0 0 smallPage).isSome = true := by decide +kernel

/-- The lab whose vector registers 1, 2 and 3 hold a number in every lane. -/
def vectors (a b c : Word) : State := withStrand { strand0 with v := [(1, ofLanes (fun _ => a)), (2, ofLanes (fun _ => b)), (3, ofLanes (fun l => BitVec.ofNat 32 l + c))], k := [(0, 0xF0)] }

/-- The state after an instruction and what it posted last. -/
def landed (i : Instr) (s : State) : State :=
  match (after i s).agenda.getLast? with
  | some e => (match e.pay with | .ev j => after j { after i s with cur := e.ctx } | _ => s)
  | none => s
def laneOf (s : State) (r l : Nat) : Word := lane (vecOf (strandOf s 0) r) l

/- 1 + 2 = 3, 3 * 2 + 1 = 7, and 1/4 from 4, in FP32 (R23). -/
theorem test_vfadd : laneOf (landed (.vfaddF32 0 4 1 2 0) (vectors 0x3F800000 0x40000000 0)) 4 127 = 0x40400000 := by decide +kernel
theorem test_vfsub : laneOf (landed (.vfsubF32 0 4 1 2 0) (vectors 0x3F800000 0x40000000 0)) 4 0 = 0xBF800000 := by decide +kernel
theorem test_vfmul : laneOf (landed (.vfmulF32 0 4 1 2 0) (vectors 0x40400000 0x40000000 0)) 4 0 = 0x40C00000 := by decide +kernel
theorem test_vfma_adds_to_d : laneOf (landed (.vfmaF32 0 3 1 2 0) (vectors 0x40400000 0x40000000 0)) 3 0 = 0x40C00000 := by decide +kernel
theorem test_vfrcp_of_4 : laneOf (landed (.vfrcp 0 4 1 0) (vectors 0x40800000 0 0)) 4 0 = 0x3E800000 := by decide +kernel
theorem test_vfmax_of_minus_zero : laneOf (landed (.vfmaxF32 0 4 1 2 0) (vectors 0x80000000 0 0)) 4 0 = 0 := by decide +kernel
theorem test_vadd_wraps : laneOf (landed (.vaddI32 0 4 1 2 0) (vectors 0xFFFFFFFF 2 0)) 4 9 = 1 := by decide +kernel
theorem test_vadd_of_halves : laneOf (landed (.vaddI16 0 4 1 2 0) (vectors 0x0001FFFF 0x00020002 0)) 4 9 = 0x00030001 := by decide +kernel
theorem test_vsub : laneOf (landed (.vsubI32 0 4 1 2 0) (vectors 1 2 0)) 4 0 = 0xFFFFFFFF := by decide +kernel
theorem test_vmin_is_signed : laneOf (landed (.vminI32 0 4 1 2 0) (vectors 0xFFFFFFFF 2 0)) 4 0 = 0xFFFFFFFF := by decide +kernel
theorem test_vshra : laneOf (landed (.vshra 0 4 1 2 0) (vectors 0x80000000 4 0)) 4 0 = 0xF8000000 := by decide +kernel
theorem test_vcmp_lt_is_signed : maskOf (strandOf (landed (.vcmpLt 0 1 1 2) (vectors 0xFFFFFFFF 2 0)) 0) 1 = BitVec.allOnes 128 := by decide +kernel
theorem test_vcmp_ltu : maskOf (strandOf (landed (.vcmpLtu 0 1 1 2) (vectors 0xFFFFFFFF 2 0)) 0) 1 = 0 := by decide +kernel
theorem test_vsel_takes_a_where_set : let s := landed (.vsel 0 4 1 2 0) (vectors 7 9 0)
    laneOf s 4 4 = 7 ∧ laneOf s 4 3 = 9 := by decide +kernel
theorem test_vmov : laneOf (landed (.vmov 0 4 3 0) (vectors 0 0 0)) 4 5 = 5 := by decide +kernel
theorem test_vbcast : laneOf (landed (.vbcast 0 4 1) (runs (vectors 0 0 0) (.vbcast 0 4 1) { lab.cur with ra := 7 })) 4 127 = 7 := by decide +kernel
theorem test_vcvt_to_fp32 : laneOf (landed (.vcvtF32I32 0 4 1 0) (vectors 0xFFFFFFFE 0 0)) 4 0 = 0xC0000000 := by decide +kernel
theorem test_knot : maskOf (strandOf (landed (.knot 0 1 0) (vectors 0 0 0)) 0) 1 = ~~~(0xF0 : Mask) := by decide +kernel
theorem test_vany : (strandOf (landed (.vany 0 2 0) (vectors 0 0 0)) 0).p.getLsbD 2 = true := by decide +kernel

/- A barrier that expects two arrivals and 8 bytes: the first arrival with the bytes counts, the second trips it (R351, R352). -/
theorem test_first_arrival_counts : (barrierOf (after (.barrierEvent { idx := 3, ctx := 0, credit := 8, src := 0 }) (barriers armed)) 3).arr = 1 := by decide +kernel
theorem test_last_arrival_trips : (barrierOf (after (.barrierEvent { idx := 3, ctx := 0, credit := 8, src := 0 }) (barriers { armed with arr := 1 })) 3).phase = true := by
  decide +kernel
theorem test_frame_end_stops_at_15616 : (stackOf (after .frameEnd lab) 0).f = 15616 := by decide +kernel
theorem test_wake_takes_512_kc : (after .wakeRequest { lab with rows := [(0, Row.empty)] }).agenda.map (fun e => (e.at_, e.pay)) = [(512, .ev .wakeComplete)] := by decide +kernel
theorem test_aging_raises_the_level : (queueOf (after .queueLevelAging (queueing3 { fencing with cap := 2, bud := { Budget.top with prio := 0 } })) 3).level = 1 := by decide +kernel
theorem test_fence_poll_waits_64 : (after .fencePoll (queueing3 fencing)).agenda.map (fun e => (e.at_, e.pay)) = [(64, .ev .fencePoll)] := by decide +kernel
theorem test_power_up_fails_without_firmware : (after .powerUp { State.reset with dev := { Device.off with fwAok := false } }).dev.fail = true := by decide +kernel
theorem test_third_failure_retires : (linkOf (after (.linkTrainingDone 0 0 false) (linked 0 { upLink with st := .training, fails := 2 })) 0).st = .retired := by decide +kernel
theorem test_token_query_samples : posted (after (.tkqryBase 0 1 4 1) (withCur { lab.cur with ra := 0x10001 })) =
    some (11, .ev (.resultLand { kind := .tkQry 1 0x10001 4 1, flags := 0 })) := by decide +kernel

end Sys2Proof.Tests
end

section
/-! SUPPORT. Where an exception goes (R356, R361, R362), which interrupt is taken (R370), and what an access that faults at its perform kc does
(R281, R369, R377). One lemma per branch of `takeException`, `handlerOf`, `takeInterrupt` and `execAccessPerform` that O24 speaks of. -/

namespace Sys2Proof.Machine

/-! ## Taking an exception (R356, R362) -/

/-- An exception in a handler is a double fault (R109). -/
theorem takeException_of_trapped {s : State} {b : Nat} (r : FaultRec) (f : Nat) (c : Ctx) (touched : List Seg) (seq : Option Nat)
    (ht : (strandOf s b).trap = true) :
    takeException s b r f c touched seq = fatal s (strandOf s b).grp { r with cause := 0x38 } := by
  unfold takeException
  exact if_pos ht

/-- Only a tile fault can use up the retries (R207). -/
theorem retrySpent_of_not_tileFault (t : Strand) {r : FaultRec} (h : ¬(r.cause = 0x18 ∨ r.cause = 0x19)) : retrySpent t r = false := by
  unfold retrySpent
  rw [Bool.and_eq_false_iff, Bool.or_eq_false_iff, beq_eq_false_iff_ne, beq_eq_false_iff_ne]
  exact .inl (not_or.1 h)

/-- Outside a handler, an exception that is neither the pager's (0x04), nor the tile checks' (0x18, 0x19), nor uncorrectable data (0x32), and in whose
window no older fault is found (R365), enters the handler; where there is none it is fatal (R356). -/
theorem takeException_of_handled {s : State} {b f : Nat} {r : FaultRec} (c : Ctx) (touched : List Seg)
    (hc : r.cause ∉ [0x04, 0x18, 0x19, 0x32]) (ht : (strandOf s b).trap = false) (hp : probe s b f r = none) :
    takeException s b r f c touched none =
      (handlerOf s b).elim (fatal s (strandOf s b).grp r) (fun h => enterHandler s b h r f none) := by
  obtain ⟨hpager, h18, h19, hdata⟩ : r.cause ≠ 0x04 ∧ r.cause ≠ 0x18 ∧ r.cause ≠ 0x19 ∧ r.cause ≠ 0x32 := by
    simpa only [List.mem_cons, List.not_mem_nil, or_false, not_or] using hc
  have htile : ¬(r.cause = 0x18 ∨ r.cause = 0x19) := not_or.2 ⟨h18, h19⟩
  unfold takeException
  simp only [ht, hp, hpager, htile, hdata, retrySpent_of_not_tileFault _ htile, Bool.false_eq_true, false_and, if_false, ite_self]
  cases handlerOf s b <;> rfl

/-! ## The code image's handler (R361) -/

/-- The handler of a strand whose image is loaded: the trailer's mark at offset csize − 8 and the aligned offset below it at csize − 4. -/
theorem handlerOf_eq_some_iff {s : State} {b : Nat} {im : Image} (o : Nat)
    (him : Sparse.find (stackOf s (bankStack b)).images (bankGroup s b).kern = some im) :
    handlerOf s b = some o ↔
      8 ≤ im.size ∧ imageWord s (bankStack b) (bankGroup s b).kern (im.size - 8) = 0xDE000000 ∧
        imageWord s (bankStack b) (bankGroup s b).kern (im.size - 4) = o ∧ o % 4 = 0 ∧ o < im.size - 8 := by
  simp only [handlerOf, him]
  by_cases hsize : im.size < 8
  · rw [if_pos hsize]
    exact ⟨nofun, fun ⟨hlong, _⟩ => absurd hsize (Nat.not_lt_of_le hlong)⟩
  · have hlong : 8 ≤ im.size := Nat.le_of_not_lt hsize
    rw [if_neg hsize, Option.ite_none_right_eq_some, Option.some_inj]
    constructor
    · rintro ⟨⟨hmark, halign, hbelow⟩, rfl⟩
      exact ⟨hlong, hmark, rfl, halign, hbelow⟩
    · rintro ⟨-, hmark, rfl, halign, hbelow⟩
      exact ⟨⟨hmark, halign, hbelow⟩, rfl⟩

/-! ## Interrupts (R370) -/

theorem dueInterrupt_of_pending {t : Strand} {p : Nat × Nat} {rest : Sparse Nat} (hie : t.ie = true) (ht : t.trap = false)
    (hpend : t.pend = p :: rest) : dueInterrupt t = some p := by
  unfold dueInterrupt
  rw [if_pos ⟨hie, by rw [ht]; rfl⟩, hpend, List.head?_cons]

/-- The first pending interrupt is taken, and is no longer pending, where the window finds no fault of an older word (R365). -/
theorem takeInterrupt_of_pending {s : State} {b f sub detail : Nat} {rest : Sparse Nat} (hie : (strandOf s b).ie = true)
    (ht : (strandOf s b).trap = false) (hpend : (strandOf s b).pend = (sub, detail) :: rest)
    (hp : probe s b f (interruptRec s b f sub detail) = none) :
    takeInterrupt s b f =
      takeException (setStrand s b { strandOf s b with pend := rest }) b (interruptRec s b f sub detail) f Ctx.none [] none := by
  have hdrop : (strandOf s b).pend.drop sub = rest := by rw [hpend]; exact if_pos rfl
  unfold takeInterrupt
  simp only [dueInterrupt_of_pending hie ht hpend, hp, hdrop]

/-! ## An access that faults when it performs (R281, R369, R377) -/

theorem accessPhase_of_not_step {a : Access} (ha : ∀ i k, a.op ≠ .step i k) : accessPhase a = if accessWrites a then 4 else 3 := by
  unfold accessPhase
  split
  case h_1 i k h => exact absurd h (ha i k)
  case h_2 => rfl

theorem stepDead_of_not_step (s : State) (c : Ctx) {a : Access} (ha : ∀ i k, a.op ≠ .step i k) : stepDead s c a = false := by
  unfold stepDead
  split
  case h_1 i k h => exact absurd h (ha i k)
  case h_2 => rfl

/-- A fault found while the strand drains waits: the access is posted again for the strand's own clock (R369). -/
theorem accessFaults_of_draining {s : State} (a : Access) (r : FaultRec) (hd : s.cur.drain = true) :
    accessFaults s a r =
      let c := { s.cur with drain := false }
      post s (ctxClk c) (timeOf s (ctxClk c)) (accessPhase a) (bankRow c.bank) (engineRank (wordEng c.word)) c (.ev (.accessPerform a)) := by
  unfold accessFaults
  exact if_pos hd

theorem accessFaults_of_not_step {s : State} {a : Access} (r : FaultRec) (ha : ∀ i k, a.op ≠ .step i k) (hd : s.cur.drain = false) :
    accessFaults s a r = lateFault s (accessPhase a) (.ev (.accessPerform a)) r (accessSegs s.cur a) := by
  unfold accessFaults
  rw [if_neg (Bool.eq_false_iff.1 hd)]
  split
  case h_1 i k h => exact absurd h (ha i k)
  case h_2 => rfl

/-- An access in memory that exists, with no word to rebuild and no line of its own in the core's cache, whose perform finds a fault. -/
theorem execAccessPerform_of_fault {s : State} {a : Access} {r : FaultRec} (hlive : stepDead s s.cur a = false)
    (hhole : accessHole s s.cur a = none) (hrebuild : accessRebuilds s s.cur a = false) (hcache : cacheHit s s.cur a = false)
    (hfault : performFault s s.cur a = some r) : execAccessPerform a s = .next (accessFaults s a r) := by
  unfold execAccessPerform
  simp only [hlive, hhole, hrebuild, hcache, hfault, Bool.false_eq_true, if_false]

/-- Settles O24: each clause is the lemma for its branch of `takeException`, `handlerOf`, `takeInterrupt` and `execAccessPerform`. -/
theorem exceptionsGoToTheHandler : Obligations.ExceptionsGoToTheHandler := by
  unfold Obligations.ExceptionsGoToTheHandler
  refine ⟨⟨?goes, ?handler, ?interrupt⟩, ?access⟩
  case goes =>
    intro s b f r c hc
    refine ⟨takeException_of_trapped r f c [] none, fun ht hp => ?_⟩
    have hgoes := takeException_of_handled c [] hc ht hp
    exact ⟨fun h hh => by rw [hgoes, hh, Option.elim_some], fun hh => by rw [hgoes, hh, Option.elim_none]⟩
  case handler =>
    intro s b o im him
    exact handlerOf_eq_some_iff o him
  case interrupt =>
    intro s b sub detail rest hie ht hpend hp
    refine ⟨interruptRec s b (bankKc s b) sub detail, ?_, rfl, rfl, rfl⟩
    exact congrArg Host.Outcome.next (takeInterrupt_of_pending hie ht hpend hp)
  case access =>
    intro s a r ha hhole hrebuild hcache hfault
    have hexec : exec (.accessPerform a) s = .next (accessFaults s a r) :=
      execAccessPerform_of_fault (stepDead_of_not_step s s.cur ha) hhole hrebuild hcache hfault
    constructor
    · intro hd
      rw [hexec, accessFaults_of_not_step r ha hd, accessPhase_of_not_step ha]
    · intro hd
      rw [accessFaults_of_draining a r hd] at hexec
      exact ⟨_, hexec, rfl, _, rfl, rfl, rfl⟩

end Sys2Proof.Machine
end

section
/-! SUPPORT. What `fence` (R251), `realign` (R344, R345), `srdef` and `srkill` (R157 to R159) do when they issue, and what the landings of the
last two do to their slot: the rules about the agenda, the fences of a strand, the stops of a group's zones, and the slots that O40 speaks of. -/

namespace Sys2Proof.Machine

/-! ## Changes of the agenda and of one strand -/

theorem OnlyAgenda.refl (s : State) : OnlyAgenda s s := rfl

theorem OnlyAgenda.trans {s t u : State} (hst : OnlyAgenda s t) (htu : OnlyAgenda t u) : OnlyAgenda s u := by
  unfold OnlyAgenda at *
  rw [htu, hst]

theorem onlyAgenda_post (s : State) (k : Clk) (t p r e : Nat) (c : Ctx) (y : Pay) : OnlyAgenda s (post s k t p r e c y) := rfl

theorem OnlyAgenda.strandOf_eq {s t : State} (h : OnlyAgenda s t) (b : Nat) : strandOf t b = strandOf s b := by
  unfold OnlyAgenda at h
  have hstrand := congrArg (fun u => strandOf u b) h
  exact hstrand

theorem onlyBank_setStrand (s : State) (b : Nat) (x : Strand) : OnlyBank s (setStrand s b x) b :=
  ⟨rfl, fun _ hj => strandOf_setStrand_ne _ _ _ _ hj⟩

theorem OnlyBank.trans_onlyAgenda {s t u : State} {b : Nat} (hst : OnlyBank s t b) (htu : OnlyAgenda t u) : OnlyBank s u b := by
  obtain ⟨hrest, hother⟩ := hst
  refine ⟨?_, fun j hj => (htu.strandOf_eq j).trans (hother j hj)⟩
  unfold OnlyAgenda at htu
  rw [htu, hrest]

/-- A word that does not drain posts its event as far ahead as it says (R369). -/
theorem posts_later {s : State} (hd : s.cur.drain = false) (d ph eng : Nat) (i : Instr) : Posts s (later s d ph eng i) d i := by
  unfold later
  rw [hd]
  exact ⟨List.prefix_append .., _, List.mem_append_right _ (List.mem_singleton_self _), rfl, rfl, rfl, rfl⟩

/-! ## Fences (R251) -/

theorem bitOf_toNat {w : Nat} (m : BitVec w) (i : Nat) : bitOf m.toNat i = m.getLsbD i := by
  rw [BitVec.getLsbD, Nat.testBit_eq_decide_div_mod_eq, bitOf]

theorem mem_maskClasses_iff (m : BitVec 16) (i : Nat) : i ∈ maskClasses m.toNat ↔ i < 16 ∧ m.getLsbD i = true := by
  rw [maskClasses, List.mem_filter, List.mem_range, bitOf_toNat]

/-- Raising the entries of a list of classes to at least `f` raises those and no others. -/
theorem getD_foldl_put_max (f : Nat) (l : List Nat) (x : Sparse Nat) (i : Nat) :
    (l.foldl (fun y j => y.put j (max (y.getD j 0) f)) x).getD i 0 = if i ∈ l then max (x.getD i 0) f else x.getD i 0 := by
  induction l generalizing x with
  | nil => rfl
  | cons j l ih =>
    rw [List.foldl_cons, ih]
    by_cases hij : i = j
    · subst hij
      simp
    · simp [hij, Sparse.getD_put_ne x _ 0 hij]

theorem now_le_fenceKc (s : State) (mask : Nat) : now s ≤ fenceKc s mask := Nat.le_max_left ..

/-! ## The stops of a group's zones (R345) -/

/-- The agenda's entry by which zone `y` of group `g` stops at the end of kc `k`, or of its own kc where that is later. -/
def StopsZone (g k : Nat) (y : GZone) (e : Timed) : Prop :=
  e.clk = .kern g y.z ∧ e.at_ = max k y.kc ∧ e.pay = .ev (.realignStop g y.z)

theorem stopAt_onlyAgenda (g k : Nat) (s : State) (y : GZone) : OnlyAgenda s (stopAt g k s y) := by
  simp only [stopAt]
  split
  · exact .refl s
  · exact onlyAgenda_post ..

theorem agenda_subset_stopAt (g k : Nat) (s : State) (y : GZone) : s.agenda ⊆ (stopAt g k s y).agenda := by
  simp only [stopAt]
  split
  · exact List.Subset.refl _
  · exact List.subset_append_left ..

/-- The zone's stop stands in the agenda: it stood there already, or it is posted. -/
theorem exists_stopsZone_stopAt (g k : Nat) (s : State) (y : GZone) : ∃ e ∈ (stopAt g k s y).agenda, StopsZone g k y e := by
  simp only [stopAt]
  split
  next hthere =>
    obtain ⟨e, he, hstop⟩ := List.any_eq_true.1 hthere
    rw [Bool.and_eq_true, Bool.and_eq_true, decide_eq_true_eq, decide_eq_true_eq] at hstop
    obtain ⟨⟨hclk, hat⟩, hpay⟩ := hstop
    refine ⟨e, he, hclk, hat, ?_⟩
    split at hpay
    next x z hev =>
      rw [Bool.and_eq_true, beq_iff_eq, beq_iff_eq] at hpay
      obtain ⟨hx, hz⟩ := hpay
      rw [hev, hx, hz]
    next => cases hpay
  next => exact ⟨_, List.mem_append_right _ (List.mem_singleton_self _), rfl, rfl, rfl⟩

theorem foldl_stopAt_onlyAgenda (g k : Nat) (l : List GZone) (s : State) : OnlyAgenda s (l.foldl (stopAt g k) s) := by
  induction l generalizing s with
  | nil => exact .refl s
  | cons y l ih => exact (stopAt_onlyAgenda g k s y).trans (ih _)

theorem agenda_subset_foldl_stopAt (g k : Nat) (l : List GZone) (s : State) : s.agenda ⊆ (l.foldl (stopAt g k) s).agenda := by
  induction l generalizing s with
  | nil => exact List.Subset.refl _
  | cons y l ih => exact List.Subset.trans (agenda_subset_stopAt g k s y) (ih _)

theorem exists_stopsZone_foldl_stopAt (g k : Nat) (l : List GZone) (s : State) :
    ∀ y ∈ l, ∃ e ∈ (l.foldl (stopAt g k) s).agenda, StopsZone g k y e := by
  induction l generalizing s with
  | nil => exact nofun
  | cons x l ih =>
    intro y hy
    obtain rfl | hy := List.mem_cons.1 hy
    · obtain ⟨e, he, hstop⟩ := exists_stopsZone_stopAt g k s y
      exact ⟨e, agenda_subset_foldl_stopAt g k l _ he, hstop⟩
    · exact ih _ y hy

/-! ## Slots and the registers that a landing writes (R152, R157) -/

@[simp] theorem slotOf_setSlot_self (s : State) (z g j : Nat) (x : Slot) : slotOf (setSlot s z g j x) z g j = x := by
  simp [slotOf, setSlot]

@[simp] theorem strandOf_setSlot (s : State) (z g j b : Nat) (x : Slot) : strandOf (setSlot s z g j x) b = strandOf s b := rfl
@[simp] theorem setSlot_banks (s : State) (z g j : Nat) (x : Slot) : (setSlot s z g j x).banks = s.banks := rfl
@[simp] theorem slotOf_setStrand (s : State) (b z g j : Nat) (t : Strand) : slotOf (setStrand s b t) z g j = slotOf s z g j := rfl

@[simp] theorem strandOf_logWrites (s : State) (b : Nat) (rs : List Nat) (j : Nat) : strandOf (logWrites s b rs) j = strandOf s j := by
  simp only [logWrites]
  split <;> rfl

@[simp] theorem slotOf_logWrites (s : State) (b : Nat) (rs : List Nat) (z g j : Nat) : slotOf (logWrites s b rs) z g j = slotOf s z g j := by
  simp only [logWrites]
  split <;> rfl

theorem sreg_setSreg_self (t : Strand) {r : Nat} (v : Dword) (hr : r ≠ 0) : sreg (setSreg t r v) r = v := by
  simp [sreg, setSreg, hr]

@[simp] theorem slotOf_putReg (s : State) (b r : Nat) (v : Dword) (z g j : Nat) : slotOf (putReg s b r v) z g j = slotOf s z g j :=
  slotOf_logWrites ..

theorem sreg_putReg_self (s : State) (b : Nat) {r : Nat} (v : Dword) (hr : r ≠ 0) : sreg (strandOf (putReg s b r v) b) r = v := by
  rw [putReg, strandOf_logWrites, strandOf_setStrand_self, sreg_setSreg_self _ v hr]

/-! ## Landings that write no vector register (R53) -/

@[simp] theorem failsIn_nil (m : Sparse Bool) : failsIn m [] = [] := by
  simp [failsIn]

theorem landRebuilds_of_no_vectors {s : State} {c : Ctx} {l : Landing} (hv : landVecs s c l = []) : landRebuilds s c l = false := by
  simp only [landRebuilds, hv, failsIn_nil, List.any_nil]

theorem landLogs_of_no_vectors {s : State} {l : Landing} (hv : landVecs s s.cur l = []) : landLogs s l = s := by
  simp only [landLogs, hv, failsIn_nil, List.any_nil, Bool.false_eq_true, if_false]

theorem land_of_no_flags (s : State) (k : LandKind) : land s { kind := k, flags := 0 } = landKind s k := by
  unfold land
  exact if_pos (.inl rfl)

/-- A landing that names no vector register rebuilds and logs nothing; with no flag it is its effect. -/
theorem execResultLand_of_no_vectors {s : State} {k : LandKind} (hv : landVecs s s.cur { kind := k, flags := 0 } = []) :
    execResultLand { kind := k, flags := 0 } s = .next (landKind s k) := by
  simp only [execResultLand, landRebuilds_of_no_vectors hv, landLogs_of_no_vectors hv, land_of_no_flags, Bool.false_eq_true, if_false]

theorem slotOf_landSrdef (s : State) (b slot : Nat) (img : ShapeImg) (reg : Nat) :
    slotOf (landSrdef s b slot img reg) (bankStack b) (strandOf s b).grp slot =
      { live := true, gen := nextGen (slotOf s (bankStack b) (strandOf s b).grp slot).gen, img := img, defAt := some s.hkc } := by
  rw [landSrdef, slotOf_putReg, slotOf_setSlot_self]

theorem sreg_landSrdef (s : State) (b slot : Nat) (img : ShapeImg) {reg : Nat} (hreg : reg ≠ 0) :
    sreg (strandOf (landSrdef s b slot img reg) b) reg =
      BitVec.ofNat 64 (nextGen (slotOf s (bankStack b) (strandOf s b).grp slot).gen * 4096 + slot) :=
  sreg_putReg_self _ b _ hreg

theorem bitsOf_zero_twelve (x : Nat) : bitsOf x 0 12 = x % 4096 :=
  congrArg (fun y => y % 4096) (Nat.div_one x)

theorem slotOf_landSrkill (s : State) (b : Nat) (h : Dword) :
    slotOf (landSrkill s b h) (bankStack b) (strandOf s b).grp (h.toNat % 4096) =
      { slotOf s (bankStack b) (strandOf s b).grp (h.toNat % 4096) with
        live := false, gen := nextGen (slotOf s (bankStack b) (strandOf s b).grp (h.toNat % 4096)).gen } := by
  rw [landSrkill, bitsOf_zero_twelve, slotOf_setSlot_self]

/-! ## The words at their engine -/

theorem exec_fence_spec {s : State} {g : BitVec 4} (c : BitVec 4) (m : BitVec 16) (hg : guardOn s g = true) :
    ∃ t, exec (.fence g c m) s = .next t ∧ OnlyBank s t s.cur.bank ∧ t.agenda = s.agenda ∧
      SameRegisters (strandOf s s.cur.bank) (strandOf t s.cur.bank) ∧
      ∀ i, (strandOf t s.cur.bank).fences.getD i 0 =
        if i ∈ maskClasses m.toNat then max ((strandOf s s.cur.bank).fences.getD i 0) (fenceKc s m.toNat)
        else (strandOf s s.cur.bank).fences.getD i 0 := by
  refine ⟨_, (exec_fence ..).trans (runWord_on s g _ hg), onlyBank_setStrand .., rfl, ?_, fun i => ?_⟩
  · rw [strandOf_setStrand_self]
    exact ⟨rfl, rfl, rfl, rfl, rfl, rfl⟩
  · rw [strandOf_setStrand_self]
    exact getD_foldl_put_max ..

theorem exec_realign_spec {s : State} {g : BitVec 4} (a b : BitVec 5) (c : BitVec 4) (hg : guardOn s g = true) :
    ∃ t, exec (.realign g a b c) s = .next t ∧ OnlyBank s t s.cur.bank ∧
      strandOf t s.cur.bank = { strandOf s s.cur.bank with realign := some (s.cur.ra.toNat, s.cur.rb.toNat % 2 ^ 32, s.cur) } ∧
      ∀ y ∈ (groupOf s s.cur.grp).zones, ∃ e ∈ t.agenda, StopsZone s.cur.grp s.cur.ra.toNat y e := by
  have hstops (u : State) := foldl_stopAt_onlyAgenda s.cur.grp s.cur.ra.toNat (groupOf s s.cur.grp).zones u
  refine ⟨_, (exec_realign ..).trans (runWord_on s g _ hg), (onlyBank_setStrand ..).trans_onlyAgenda (hstops _), ?_,
    exists_stopsZone_foldl_stopAt _ _ _ _⟩
  exact ((hstops _).strandOf_eq _).trans (strandOf_setStrand_self ..)

theorem exec_srdef_spec {s : State} {g : BitVec 4} (a b : BitVec 5) (hg : guardOn s g = true) (hd : s.cur.drain = false) :
    ∃ t, exec (.srdef g a b) s = .next t ∧ OnlyAgenda s t ∧ Posts s t 3 (.accessPerform
      { op := .srdef (s.cur.rb.toNat % 4096) b.toNat, va := s.cur.ra.toNat, pa := 0, len := 64, cls := 0, lag := 3, sel := 1 }) :=
  ⟨_, (exec_srdef ..).trans (runWord_on s g _ hg), onlyAgenda_post .., posts_later hd ..⟩

theorem exec_srkill_spec {s : State} {g : BitVec 4} (a : BitVec 5) (hg : guardOn s g = true) :
    exec (.srkill g a) s = .next (landLater s 1 (.srkill s.cur.ra) 0) :=
  (exec_srkill ..).trans (runWord_on s g _ hg)

/-! ## The landings of `srdef` and `srkill` -/

theorem exec_land_srdef (s : State) (slot : Nat) (img : ShapeImg) (reg : Nat) :
    exec (.resultLand { kind := .srdef slot img reg, flags := 0 }) s = .next (landSrdef s s.cur.bank slot img reg) :=
  execResultLand_of_no_vectors rfl

theorem exec_land_srkill (s : State) (h : Dword) :
    exec (.resultLand { kind := .srkill h, flags := 0 }) s =
      .next (if killStale s s.cur.bank h then
          lateFault s 0 (.ev (.resultLand { kind := .srkill h, flags := 0 })) (killRec s s.cur h) []
        else landSrkill s s.cur.bank h) :=
  execResultLand_of_no_vectors rfl

/-- Settles O40: each clause is the lemma for its word at the engine, or for its landing. -/
theorem fencesRealignAndSlots : Obligations.FencesRealignAndSlots := by
  unfold Obligations.FencesRealignAndSlots
  refine ⟨fun g a b c m s hg hd => ⟨?fence, ?realign, exec_srdef_spec a b hg hd, exec_srkill_spec a hg⟩, ?srdef, ?srkill⟩
  case fence =>
    obtain ⟨t, hexec, honly, hagenda, hregs, hfences⟩ := exec_fence_spec c m hg
    refine ⟨t, hexec, honly, hagenda, hregs, now_le_fenceKc .., fun i hi hin => ?_, fun i hi hout => ?_⟩
    · rw [hfences i, if_pos ((mem_maskClasses_iff m i).2 ⟨hi, hin⟩)]
    · have hclass : i ∉ maskClasses m.toNat := fun hmem => Bool.eq_false_iff.1 hout ((mem_maskClasses_iff m i).1 hmem).2
      rw [hfences i, if_neg hclass]
  case realign =>
    obtain ⟨t, hexec, honly, hstrand, hstops⟩ := exec_realign_spec a b c hg
    refine ⟨t, hexec, honly, ?_, ?_, hstops⟩
    · rw [hstrand]
      exact ⟨rfl, rfl, rfl, rfl, rfl, rfl⟩
    · rw [hstrand]
  case srdef =>
    intro slot reg img s hreg
    exact ⟨_, exec_land_srdef .., slotOf_landSrdef .., sreg_landSrdef _ _ _ _ hreg⟩
  case srkill =>
    intro h s
    refine ⟨fun hcurrent => ⟨landSrkill s s.cur.bank h, ?_, ?_, ?_, rfl⟩, fun hstale => ⟨rfl, ?_⟩⟩
    · rw [exec_land_srkill, hcurrent, if_neg Bool.false_ne_true]
    · rw [slotOf_landSrkill]
    · rw [slotOf_landSrkill]
    · rw [exec_land_srkill, hstale, if_pos rfl]

end Sys2Proof.Machine
end

section
/-! SUPPORT. The M and B queues at their engines (R162, R163, R296) and the arrival of a chain partial (R181, R182): one equation per branch of
`execMQueueIssue`, `execBQueueIssue` and `landPartial`, and what a word that issues or waits leaves of its row. -/

namespace Sys2Proof.Machine

/-! ## A row replaced and an event posted -/

theorem onlyRow_post_setRow (s : State) (row : Nat) (x : Row) (k : Clk) (t p r e : Nat) (c : Ctx) (y : Pay) :
    OnlyRow s (post (setRow s row x) k t p r e c y) row :=
  ⟨rfl, fun _ hj => rowOf_setRow_ne _ _ _ _ hj⟩

theorem exists_mem_agenda_post (s : State) (k : Clk) (t p r e : Nat) (c : Ctx) (y : Pay) :
    ∃ x ∈ (post s k t p r e c y).agenda, x.clk = k ∧ x.at_ = t ∧ x.ctx = c ∧ x.pay = y :=
  ⟨_, List.mem_append_right _ (List.mem_singleton_self _), rfl, rfl, rfl, rfl⟩

/-- A word that leaves its queue for its engine (R162, R296): the row is as given, and the word issues in this kc, with the kc in its context. -/
theorem toEngine_spec (s : State) (row : Nat) (x : Row) (c : Ctx) (dead : Bool) :
    OnlyRow s (toEngine (setRow s row x) row c dead) row ∧ rowOf (toEngine (setRow s row x) row c dead) row = x ∧
      s.agenda <+: (toEngine (setRow s row x) row c dead).agenda ∧
      ∃ e ∈ (toEngine (setRow s row x) row c dead).agenda,
        e.clk = ctxClk c ∧ e.at_ = now s ∧ e.pay = .word c.word ∧ e.ctx.bank = c.bank ∧ e.ctx.arg = now s :=
  ⟨onlyRow_post_setRow .., rowOf_setRow_self .., List.prefix_append .., _, List.mem_append_right _ (List.mem_singleton_self _),
    rfl, rfl, rfl, rfl, rfl⟩

/-- A word that waits (R163): its row's engines are as before, and its event comes again in the next kc. -/
theorem waitQueue_spec (s : State) (row : Nat) (c : Ctx) (i : Instr) :
    OnlyRow s (waitQueue s row c i) row ∧ (rowOf (waitQueue s row c i) row).tiles = (rowOf s row).tiles ∧
      ∃ e ∈ (waitQueue s row c i).agenda, e.clk = ctxClk c ∧ e.at_ = now s + 1 ∧ e.ctx = c ∧ e.pay = .ev i := by
  refine ⟨onlyRow_post_setRow .., ?_, exists_mem_agenda_post ..⟩
  rw [waitQueue, rowOf_post, rowOf_setRow_self]

theorem ctx_ne_of_mem_unqueue {r : Row} {c : Ctx} {y : QWord} (hy : y ∈ (unqueue r c).mq ++ (unqueue r c).foq) : y.ctx ≠ c := by
  rw [← bne_iff_ne]
  exact (List.mem_append.1 hy).elim (fun hm => (List.mem_filter.1 hm).2) (fun hf => (List.mem_filter.1 hf).2)

/-! ## M_QUEUE_ISSUE (R162, R163) -/

theorem macroRec_cause (s : State) (c : Ctx) (cause opsel addr detail : Nat) (restartable : Bool) :
    (macroRec s c cause opsel addr detail restartable).cause = cause := by
  simp only [macroRec]
  split <;> rfl

/-- A rectangle that does not issue as one fails with a feed row's cause or with another row's (R162). -/
theorem cause_mem_of_rectFault {s : State} {q : QWord} {t : Nat} {f : FaultRec} (h : rectFault s q t = some f) : f.cause ∈ [0x12, 0x13] := by
  have hrec (cause : Nat) (hf : rectRec s q.ctx cause = f) : f.cause = cause := hf ▸ macroRec_cause ..
  simp only [rectFault] at h
  split at h
  next => cases h
  next =>
    split at h
    next =>
      split at h
      next => cases h
      next => rw [hrec 0x12 (Option.some_inj.1 h)]; decide
    next =>
      split at h
      next => cases h
      next => rw [hrec 0x13 (Option.some_inj.1 h)]; decide

section
variable {s : State} {q : QWord} (row win : Nat) (hq : headWord (rowOf s row) s.cur = some q)
include hq

theorem exec_mQueueIssue_of_issues (hmay : mMayIssue s q.word s.cur (rowOf s row) (now s) = true) (hrect : rectFault s q (now s) = none) :
    exec (.mQueueIssue row win) s = .next (toEngine (setRow s row (unqueue (rowOf s row) s.cur)) row s.cur q.dead) := by
  rw [exec_mQueueIssue]
  simp only [execMQueueIssue, hq, hmay, hrect, Bool.not_true, Bool.false_eq_true, if_false]

theorem exec_mQueueIssue_of_waits (hmay : mMayIssue s q.word s.cur (rowOf s row) (now s) = false) :
    exec (.mQueueIssue row win) s = .next (waitQueue s row s.cur (.mQueueIssue row win)) := by
  rw [exec_mQueueIssue]
  simp only [execMQueueIssue, hq, hmay, Bool.not_false, if_true]

theorem exec_mQueueIssue_of_rectFault {f : FaultRec} (hmay : mMayIssue s q.word s.cur (rowOf s row) (now s) = true)
    (hrect : rectFault s q (now s) = some f) :
    exec (.mQueueIssue row win) s = .next (lateFault
      (setRow (killRect s q (now s)) row (unqueue (rowOf (killRect s q (now s)) row) s.cur)) 2 (.ev (.mQueueIssue row win)) f []) := by
  rw [exec_mQueueIssue]
  simp only [execMQueueIssue, hq, hmay, hrect, Bool.not_true, Bool.false_eq_true, if_false]

end

/-! ## B_QUEUE_ISSUE (R296) -/

section
variable {s : State} {q : QWord} {row : Nat} (hq : (rowOf s row).bq.head? = some q) (hctx : q.ctx = s.cur)
include hq hctx

theorem exec_bQueueIssue_of_free (hbusy : bankBusy (rowOf s row) s.cur = false) :
    exec (.bQueueIssue row) s = .next (toEngine (setRow s row { rowOf s row with bq := (rowOf s row).bq.tail }) row s.cur false) := by
  rw [exec_bQueueIssue]
  simp only [execBQueueIssue, hq, hctx, hbusy, Bool.not_false, and_self, if_true]

theorem exec_bQueueIssue_of_busy (hbusy : bankBusy (rowOf s row) s.cur = true) :
    exec (.bQueueIssue row) s = .next (waitQueue s row s.cur (.bQueueIssue row)) := by
  have hqueued : (rowOf s row).bq.any (fun y => decide (y.ctx = s.cur)) = true :=
    List.any_eq_true.2 ⟨q, List.mem_of_mem_head? hq, decide_eq_true hctx⟩
  rw [exec_bQueueIssue]
  simp only [execBQueueIssue, hq, hbusy, hqueued, Bool.not_true, Bool.false_eq_true, and_false, if_false, if_true]

end

/-! ## CHAIN_PARTIAL_ARRIVAL (R181, R182) -/

theorem landPartial_of_no_strand {s : State} {p : Partial} (hb : rowBank s p.grp p.row = none) : landPartial s p = s := by
  simp only [landPartial, edgeFault, hb]

/-- A partial for a free entry is written there, and the entry's words are good from now on (R182, R450). -/
theorem landPartial_of_free {s : State} {p : Partial} {b : Nat} (hb : rowBank s p.grp p.row = some b)
    (hfree : Sparse.find (rowOf s p.row).edge p.entry = none) :
    landPartial s p = setRow s p.row { rowOf s p.row with
      edge := (rowOf s p.row).edge.put p.entry p.vals, arrBad := wordsWritten (rowOf s p.row).arrBad 1024 [edgeKey p.entry] } := by
  simp only [landPartial, edgeFault, hb, hfree, Option.isSome_none, Bool.false_eq_true, if_false]

theorem landPartial_of_used {s : State} {p : Partial} {b : Nat} {v : List Word} (hb : rowBank s p.grp p.row = some b)
    (hused : Sparse.find (rowOf s p.row).edge p.entry = some v) (hruns : bankRuns s b = true) :
    landPartial s p = strandFault s b (edgeRec s b p.entry) := by
  simp only [landPartial, edgeFault, hb, hused, hruns, if_true]

/-- Settles O43: each clause is the lemma for its branch of the event. -/
theorem engineQueuesIssueInOrder : Obligations.EngineQueuesIssueInOrder := by
  unfold Obligations.EngineQueuesIssueInOrder
  refine ⟨fun row win q s hq => ⟨?issues, ?waits, ?faults⟩, fun row q s hq hctx => ⟨?bank, ?busy⟩, fun p s => ⟨?free, ?used, ?nobody⟩⟩
  case issues =>
    intro hmay hrect
    obtain ⟨honly, hrow, hagenda, hposted⟩ := toEngine_spec s row (unqueue (rowOf s row) s.cur) s.cur q.dead
    refine ⟨_, exec_mQueueIssue_of_issues row win hq hmay hrect, honly, ?_, fun y hy => ?_, hagenda, hposted⟩
    · rw [hrow, unqueue]
    · rw [hrow] at hy
      exact ctx_ne_of_mem_unqueue hy
  case waits => exact fun hmay => ⟨_, exec_mQueueIssue_of_waits row win hq hmay, waitQueue_spec ..⟩
  case faults => exact fun f hmay hrect => ⟨cause_mem_of_rectFault hrect, exec_mQueueIssue_of_rectFault row win hq hmay hrect⟩
  case bank =>
    intro hfree
    obtain ⟨honly, hrow, hagenda, e, he, hclk, hat, hpay, -, -⟩ :=
      toEngine_spec s row { rowOf s row with bq := (rowOf s row).bq.tail } s.cur false
    exact ⟨_, exec_bQueueIssue_of_free hq hctx hfree, honly, hrow, hagenda, e, he, hclk, hat, hpay⟩
  case busy =>
    intro hbusy
    obtain ⟨honly, -, hposted⟩ := waitQueue_spec s row s.cur (.bQueueIssue row)
    exact ⟨_, exec_bQueueIssue_of_busy hq hctx hbusy, honly, hposted⟩
  case free =>
    intro b hb hfree
    refine ⟨_, congrArg Host.Outcome.next (landPartial_of_free hb hfree), fun hgood => ?_⟩
    rw [hgood]
    rfl
  case used => exact fun b v hb hused hruns => ⟨rfl, congrArg Host.Outcome.next (landPartial_of_used hb hused hruns)⟩
  case nobody => exact fun hb => congrArg Host.Outcome.next (landPartial_of_no_strand hb)

end Sys2Proof.Machine
end

section
/-! SUPPORT. What the retirement of a link (R393) does to the strands' held-token sets. O55 says that they stand where no token in flight has read
shares out; that takes a token table with one entry under each key (`Sparse.wf`), which O55 does not ask for. -/

namespace Sys2Proof

/-! ## What a read of a map finds of the entries listed -/

theorem Sparse.le_of_mem_of_risesFrom {α : Type} {m : Sparse α} {lo : Nat} (hm : Sparse.risesFrom lo m = true) {e : Nat × α} (he : e ∈ m) :
    lo ≤ e.1 := by
  induction m generalizing lo with
  | nil => cases he
  | cons d m ih =>
    rw [Sparse.risesFrom, Bool.and_eq_true, decide_eq_true_eq] at hm
    obtain ⟨hlo, hrises⟩ := hm
    obtain rfl | he := List.mem_cons.1 he
    · exact hlo
    · exact Nat.le_trans (Nat.le_succ_of_le hlo) (ih hrises he)

/-- Where the keys rise, the entry that a read finds under a key is the one that is listed under it. -/
theorem Sparse.find_of_mem_of_risesFrom {α : Type} {m : Sparse α} {lo : Nat} (hm : Sparse.risesFrom lo m = true) {e : Nat × α} (he : e ∈ m) :
    Sparse.find m e.1 = some e.2 := by
  induction m generalizing lo with
  | nil => cases he
  | cons d m ih =>
    rw [Sparse.risesFrom, Bool.and_eq_true, decide_eq_true_eq] at hm
    obtain ⟨-, hrises⟩ := hm
    obtain rfl | he := List.mem_cons.1 he
    · exact if_pos rfl
    · exact (if_neg (Nat.ne_of_lt (Sparse.le_of_mem_of_risesFrom hrises he))).trans (ih hrises he)

theorem Sparse.mem_of_find {α : Type} {m : Sparse α} {k : Nat} {x : α} (h : Sparse.find m k = some x) : (k, x) ∈ m := by
  induction m with
  | nil => cases h
  | cons d m ih =>
    rw [Sparse.find] at h
    split at h
    next hk => rw [← hk, ← Option.some_inj.1 h]; exact List.mem_cons_self
    next => exact List.mem_cons_of_mem _ (ih h)

end Sys2Proof

namespace Sys2Proof.Machine

/-! ## A token table that lists one key twice -/

/-- A token with a read share out, and under the same key, where no read of the table finds it, one in the custody of the east edge link; the strand
in bank 0 holds the share; the link's retirement is due. -/
def sharedAndInCustody : State :=
  { State.reset with
    cur := { Ctx.none with arg := 8 }
    links := [(8, { Link.down with st := .up })]
    tokens := [(0, { Token.free with st := .shared, shares := 1 }), (0, { Token.free with st := .inFlight, holder := custodyAgent State.reset 8 })]
    banks := [(0, { Strand.empty with
      held := [{ id := 0, base := 0, size := 6, mode := .share, dirty := false, leaving := false, spad := false }] })] }

theorem no_share_in_flight_of_sharedAndInCustody : ∀ e ∈ sharedAndInCustody.tokens, e.2.st = .inFlight → e.2.shares = 0 := by
  decide

/-- The retirement orphans the entry that it finds under the key, and cancels its share. -/
theorem held_of_retireLink_sharedAndInCustody : (retireLink sharedAndInCustody 8).banks.map (fun e => e.2.held) = [[]] := by
  decide

/-- Refutes O55: a retirement does not leave the held-token sets alone in `sharedAndInCustody`, whose token table lists a key twice. -/
theorem not_linksReplayTrainAndRetire : ¬ Obligations.LinksReplayTrainAndRetire := by
  unfold Obligations.LinksReplayTrainAndRetire
  intro h
  obtain ⟨-, hstates⟩ := h
  obtain ⟨-, hevents, -⟩ := hstates sharedAndInCustody 8
  obtain ⟨-, -, -, -, hretire, -⟩ := hevents rfl
  obtain ⟨t, hexec, -, -, hbanks, -⟩ := hretire (by decide) (List.forall_mem_nil _)
  rw [exec_linkRetireRequest] at hexec
  obtain rfl : retireLink sharedAndInCustody 8 = t := Host.Outcome.next.inj hexec
  have hheld := held_of_retireLink_sharedAndInCustody
  rw [hbanks no_share_in_flight_of_sharedAndInCustody] at hheld
  exact absurd hheld (by decide)

/-! ## The clause for a token table with one entry under each key -/

theorem tokenOf_of_mem {s : State} (hwf : Sparse.wf s.tokens = true) {e : Nat × Token} (he : e ∈ s.tokens) : tokenOf s e.1 = e.2 := by
  rw [tokenOf, Sparse.getD, Sparse.find_of_mem_of_risesFrom hwf he]

theorem mem_tokens_of_inFlight {s : State} {i : Nat} (h : (tokenOf s i).st = .inFlight) : (i, tokenOf s i) ∈ s.tokens := by
  cases hfind : Sparse.find s.tokens i with
  | none => simp [tokenOf, Sparse.getD, hfind, Token.free] at h
  | some t => simpa [tokenOf, Sparse.getD, hfind] using Sparse.mem_of_find hfind

/-- What the retirement of a link reads and could change of held-token sets: the strands, the token table, and the jobs. -/
def SameHolders (s t : State) : Prop := t.banks = s.banks ∧ t.tokens = s.tokens ∧ t.jobs = s.jobs

theorem SameHolders.trans {s t u : State} (hst : SameHolders s t) (htu : SameHolders t u) : SameHolders s u := by
  obtain ⟨hbanks, htokens, hjobs⟩ := hst
  obtain ⟨hbanks', htokens', hjobs'⟩ := htu
  exact ⟨hbanks'.trans hbanks, htokens'.trans htokens, hjobs'.trans hjobs⟩

theorem logRec_sameHolders (s : State) (src sev tag ctx det : Nat) (frec : Option FaultRec) : SameHolders s (logRec s src sev tag ctx det frec) := by
  simp only [logRec]
  split
  · split <;> exact ⟨rfl, rfl, rfl⟩
  · exact ⟨rfl, rfl, rfl⟩

theorem foldl_sameHolders {α : Type} {f : State → α → State} (hf : ∀ s a, SameHolders s (f s a)) (l : List α) (s : State) :
    SameHolders s (l.foldl f s) := by
  induction l generalizing s with
  | nil => exact ⟨rfl, rfl, rfl⟩
  | cons a l ih => exact (hf s a).trans (ih _)

theorem sendFlit_sameHolders (s : State) (l slot row kind stamp payload : Nat) : SameHolders s (sendFlit s l slot row kind stamp payload) := by
  simp only [sendFlit]
  split
  · exact ⟨rfl, rfl, rfl⟩
  · split <;> exact ⟨rfl, rfl, rfl⟩

theorem sendNews_sameHolders (s : State) (id n agent pkg : Nat) : SameHolders s (sendNews s id n agent pkg) := by
  simp only [sendNews]
  split
  · exact ⟨rfl, rfl, rfl⟩
  · exact sendFlit_sameHolders ..

theorem cancelAll_of_no_shares {s : State} {i : Nat} (h : (tokenOf s i).shares = 0) : cancelAll s i = s := by
  simp only [cancelAll, h, if_true]

/-- A token that has no share out is orphaned (R239): nothing changes in the strands and the jobs, and its entry has no share out. -/
theorem orphan_of_no_shares {s : State} {i : Nat} (h : (tokenOf s i).shares = 0) :
    ∃ x : Token, x.shares = 0 ∧ SameHolders (setToken s i x) (orphan s i) := by
  simp only [orphan, cancelAll_of_no_shares h]
  split
  · exact ⟨_, rfl, rfl, rfl, rfl⟩
  · exact ⟨_, rfl, sendNews_sameHolders ..⟩

theorem loseToken_of_no_shares {s : State} {i : Nat} (h : (tokenOf s i).shares = 0) :
    (loseToken s i).banks = s.banks ∧ (loseToken s i).jobs = s.jobs ∧
      ∀ j, (tokenOf s j).shares = 0 → (tokenOf (loseToken s i) j).shares = 0 := by
  obtain ⟨hbanks, htokens, hjobs⟩ := logRec_sameHolders s 4 2 0 (tokenOf s i).ctx (tokId s i) none
  have hread (j : Nat) : tokenOf (logRec s 4 2 0 (tokenOf s i).ctx (tokId s i) none) j = tokenOf s j := by rw [tokenOf, htokens, tokenOf]
  obtain ⟨x, hx, hbanks', htokens', hjobs'⟩ := orphan_of_no_shares (i := i) ((congrArg Token.shares (hread i)).trans h)
  refine ⟨hbanks'.trans hbanks, hjobs'.trans hjobs, fun j hj => ?_⟩
  rw [loseToken, tokenOf, htokens']
  by_cases hji : j = i
  · rw [hji, setToken_tokens, Sparse.getD_put_self, hx]
  · rw [setToken_tokens, Sparse.getD_put_ne _ _ _ hji, ← tokenOf, hread, hj]

theorem foldl_loseToken_of_no_shares (l : List Nat) {s : State} (h : ∀ i ∈ l, (tokenOf s i).shares = 0) :
    (l.foldl loseToken s).banks = s.banks ∧ (l.foldl loseToken s).jobs = s.jobs := by
  induction l generalizing s with
  | nil => exact ⟨rfl, rfl⟩
  | cons i l ih =>
    obtain ⟨hbanks, hjobs, hshares⟩ := loseToken_of_no_shares (h i List.mem_cons_self)
    obtain ⟨hbanks', hjobs'⟩ := ih (s := loseToken s i) (fun j hj => hshares j (h j (List.mem_cons_of_mem _ hj)))
    exact ⟨hbanks'.trans hbanks, hjobs'.trans hjobs⟩

/-- What a retirement drops and logs (R393) changes no strand, token or job. -/
theorem clearedLink_sameHolders (s : State) (l : Nat) (x : Link) (waiting : List Nat) (f : Timed → Bool) (gone : List Timed) :
    SameHolders s (gone.foldl (fun u _ => logRec u 4 2 0 0 l none)
      (dropEntries (waiting.foldl (fun u _ => logRec u 4 2 0 0 l none) (setLink s l x)) f)) := by
  refine SameHolders.trans ?_ (foldl_sameHolders (fun u _ => logRec_sameHolders u ..) _ _)
  exact foldl_sameHolders (fun u _ => logRec_sameHolders u 4 2 0 0 l none) waiting (setLink s l x)

/-- A retirement in three parts (R393): what it drops and logs changes no strand, token or job; then tokens that the table lists as in flight are lost;
then running jobs fault. -/
theorem retireLink_spec {s : State} {l : Nat} (hst : (linkOf s l).st ≠ .retired) :
    ∃ (u : State) (toks : List Nat), SameHolders s u ∧ (∀ i ∈ toks, ∃ x, (i, x) ∈ u.tokens ∧ x.st = .inFlight) ∧
      retireLink s l = ((toks.foldl loseToken u).jobs.filter (fun e => e.2.st == .running && jobCrosses (toks.foldl loseToken u) l e.1 e.2)).foldl
        (fun st e => faultJob st e.1 e.2 0x32 14 0) (toks.foldl loseToken u) := by
  simp only [retireLink, if_neg hst]
  refine ⟨_, _, clearedLink_sameHolders .., fun i hi => ?_, rfl⟩
  split at hi
  case isTrue =>
    obtain ⟨e, he, rfl⟩ := List.mem_map.1 hi
    obtain ⟨hmem, hgoes⟩ := List.mem_filter.1 he
    rw [Bool.and_eq_true, Bool.and_eq_true, beq_iff_eq] at hgoes
    obtain ⟨⟨hflight, -⟩, -⟩ := hgoes
    exact ⟨e.2, hmem, hflight⟩
  case isFalse =>
    obtain ⟨e, -, he⟩ := List.mem_filterMap.1 hi
    split at he
    next =>
      obtain ⟨hflight, hkey⟩ := Option.ite_none_right_eq_some.1 he
      obtain rfl := Option.some_inj.1 hkey
      exact ⟨_, mem_tokens_of_inFlight hflight, hflight⟩
    next => cases he

/-- The clause that `sharedAndInCustody` breaks, where the keys of the token table rise (R393): with no job running and no share out of a token in
flight, a retirement leaves every strand as it is. -/
theorem retireLink_banks_of_wf {s : State} (l : Nat) (hwf : Sparse.wf s.tokens = true) (hjobs : ∀ e ∈ s.jobs, e.2.st ≠ .running)
    (hshares : ∀ e ∈ s.tokens, e.2.st = .inFlight → e.2.shares = 0) : (retireLink s l).banks = s.banks := by
  by_cases hst : (linkOf s l).st = .retired
  · simp only [retireLink, hst, if_true]
  · obtain ⟨u, toks, ⟨hbanks, htokens, hjobs'⟩, hlisted, hretire⟩ := retireLink_spec hst
    have hread (i : Nat) : tokenOf u i = tokenOf s i := by rw [tokenOf, htokens, tokenOf]
    have hnone : ∀ i ∈ toks, (tokenOf u i).shares = 0 := by
      intro i hi
      obtain ⟨x, hmem, hx⟩ := hlisted i hi
      rw [htokens] at hmem
      rw [hread, tokenOf_of_mem hwf hmem]
      exact hshares _ hmem hx
    obtain ⟨hbanksLost, hjobsLost⟩ := foldl_loseToken_of_no_shares toks hnone
    have hidle : (toks.foldl loseToken u).jobs.filter (fun e => e.2.st == .running && jobCrosses (toks.foldl loseToken u) l e.1 e.2) = [] := by
      rw [hjobsLost, hjobs', List.filter_eq_nil_iff]
      intro e he
      simp [hjobs e he]
    rw [hretire, hidle]
    exact hbanksLost.trans hbanks

end Sys2Proof.Machine
end

section
/-! SUPPORT. What the check words (R207, R210 to R216) do when they issue: what a word that works on its row's engines leaves as it is, which events its
steps post, and what each of the state's operations that these words use does to the row's tiles and creels and to the strand. -/

namespace Sys2Proof.Machine

/-! ## A word that executes under its own encoding -/

theorem runMacro_of_encode {s : State} {g : BitVec 4} {i : Instr} (f : State → State) (hg : guardOn s g = true) (hw : encode i = [s.cur.word]) :
    runMacro s g i f = .next (f s) := by
  rw [runMacro_on s g i f hg, hw]
  rfl

/-- A word whose number has 2 in its top three bits is of the M engine, so its steps go in ordering class 0 (R56, R244). -/
theorem stepClass_of_encodeNat {i : Instr} {n : Nat} {w : Word} (hi : encodeNat i = some n) (hlo : 0x40000000 ≤ n) (hhi : n < 0x60000000)
    (hw : encode i = [w]) : stepClass w = 0 := by
  simp only [encode, hi, List.cons.injEq, and_true] at hw
  have heng : wordEng w ≠ 3 := by
    rw [← hw, wordEng, bitsOf, BitVec.toNat_ofNat]
    omega
  exact if_neg heng

theorem stepClass_ckloc {g : BitVec 4} {t : BitVec 2} {a : BitVec 5} {w : Word} (hw : encode (.ckloc g t a) = [w]) : stepClass w = 0 := by
  refine stepClass_of_encodeNat rfl ?_ ?_ hw <;> simp only [tot, put] <;> omega

theorem stepClass_ckrd {g : BitVec 4} {t : BitVec 2} {a b : BitVec 5} {w : Word} (hw : encode (.ckrd g t a b) = [w]) : stepClass w = 0 := by
  refine stepClass_of_encodeNat rfl ?_ ?_ hw <;> simp only [tot, put] <;> omega

theorem stepClass_ckfix {g : BitVec 4} {t : BitVec 2} {w : Word} (hw : encode (.ckfix g t) = [w]) : stepClass w = 0 := by
  refine stepClass_of_encodeNat rfl ?_ ?_ hw <;> simp only [tot, put] <;> omega

/-! ## Events added to the agenda -/

/-- Entries have been added to the agenda, and nothing else has changed. -/
structure Schedules (s t : State) : Prop where
  onlyAgenda : OnlyAgenda s t
  kept : s.agenda <+: t.agenda

theorem Schedules.refl (s : State) : Schedules s s := ⟨.refl s, List.prefix_rfl⟩

theorem Schedules.trans {s t u : State} (hst : Schedules s t) (htu : Schedules t u) : Schedules s u :=
  ⟨hst.onlyAgenda.trans htu.onlyAgenda, hst.kept.trans htu.kept⟩

theorem Schedules.banks_eq {s t : State} (h : Schedules s t) : t.banks = s.banks := by
  obtain ⟨honly, -⟩ := h
  unfold OnlyAgenda at honly
  exact (congrArg State.banks honly :)

theorem Schedules.rowOf_eq {s t : State} (h : Schedules s t) (r : Nat) : rowOf t r = rowOf s r := by
  obtain ⟨honly, -⟩ := h
  unfold OnlyAgenda at honly
  exact (congrArg (fun u => rowOf u r) honly :)

theorem Schedules.mLater {s t : State} (h : Schedules s t) (id cls idx d ph : Nat) (runs : List Nat) (len : Nat) (wr : Bool) (sel : Nat) :
    Schedules s (mLater t id cls idx d ph runs len wr sel) :=
  h.trans ⟨onlyAgenda_post .., List.prefix_append ..⟩

theorem Schedules.forEach {s t : State} (h : Schedules s t) {f : State → Nat → State} (hf : ∀ u n, Schedules u (f u n)) (l : List Nat) :
    Schedules s (forEach t l f) :=
  List.foldlRecOn l f h fun u hu n _ => hu.trans (hf u n)

theorem Schedules.ite {c : Prop} [Decidable c] {s t u : State} (ht : Schedules s t) (hu : Schedules s u) : Schedules s (if c then t else u) := by
  split <;> assumption

theorem readRow_schedules (s : State) (id : Nat) (p : Prod) (c : Ctx) (m idx d : Nat) : Schedules s (readRow s id p c m idx d) := by
  unfold readRow
  extract_lets js s1
  have hrow : Schedules s s1 := (Schedules.refl s).mLater ..
  exact .ite (hrow.mLater ..) hrow

theorem rowSteps_schedules (s : State) (id : Nat) (p : Prod) (c : Ctx) (d first count check : Nat) :
    Schedules s (rowSteps s id p c d first count check) := by
  unfold rowSteps
  extract_lets out ms s1 s2 s3
  have hreads : Schedules s s1 := (Schedules.refl s).forEach (fun u _ => .ite ((Schedules.refl u).mLater ..) (readRow_schedules ..)) _
  have hwrites : Schedules s s2 := hreads.forEach (fun u _ => (Schedules.refl u).mLater ..) _
  have hedge : Schedules s s3 := .ite (hwrites.forEach (fun u _ => (Schedules.refl u).mLater ..) _) hwrites
  exact .ite (hedge.mLater ..) hedge

/-! ## What a word of an engine leaves as it is -/

/-- A word of bank `b` has changed no more than its strand, what the engines of its row work on, and the agenda, from which no entry has gone. -/
structure WordWorks (b : Nat) (s t : State) : Prop where
  onlyBankRow : OnlyBankRow s t b
  onlyEngines : OnlyEngines (rowOf s (bankRow b)) (rowOf t (bankRow b))
  kept : s.agenda <+: t.agenda

theorem OnlyBankRow.trans {b : Nat} {s t u : State} (hst : OnlyBankRow s t b) (htu : OnlyBankRow t u b) : OnlyBankRow s u b := by
  obtain ⟨ht, hbanks, hrows⟩ := hst
  obtain ⟨hu, hbanks', hrows'⟩ := htu
  refine ⟨?_, fun j hj => (hbanks' j hj).trans (hbanks j hj), fun j hj => (hrows' j hj).trans (hrows j hj)⟩
  rw [hu, ht]

theorem OnlyEngines.trans {x y z : Row} (hxy : OnlyEngines x y) (hyz : OnlyEngines y z) : OnlyEngines x z := by
  unfold OnlyEngines at *
  rw [hyz, hxy]

theorem WordWorks.trans {b : Nat} {s t u : State} (hst : WordWorks b s t) (htu : WordWorks b t u) : WordWorks b s u :=
  ⟨hst.onlyBankRow.trans htu.onlyBankRow, hst.onlyEngines.trans htu.onlyEngines, hst.kept.trans htu.kept⟩

theorem Schedules.wordWorks {s t : State} (h : Schedules s t) (b : Nat) : WordWorks b s t := by
  refine ⟨⟨?_, fun j _ => h.onlyAgenda.strandOf_eq j, fun _ _ => h.rowOf_eq _⟩, ?_, h.kept⟩
  · obtain ⟨honly, -⟩ := h
    unfold OnlyAgenda at honly
    rw [honly]
  · rw [h.rowOf_eq]
    rfl

theorem wordWorks_setRow (b : Nat) (s : State) {x : Row} (hx : OnlyEngines (rowOf s (bankRow b)) x) : WordWorks b s (setRow s (bankRow b) x) := by
  refine ⟨⟨rfl, fun _ _ => rfl, fun _ hj => rowOf_setRow_ne _ _ _ _ hj⟩, ?_, List.prefix_rfl⟩
  rwa [rowOf_setRow_self]

theorem wordWorks_setStrand (b : Nat) (s : State) (x : Strand) : WordWorks b s (setStrand s b x) :=
  ⟨⟨rfl, fun _ hj => strandOf_setStrand_ne _ _ _ _ hj, fun _ _ => rfl⟩, rfl, List.prefix_rfl⟩

theorem WordWorks.onlyRow {b : Nat} {s t : State} (h : WordWorks b s t) (hbanks : t.banks = s.banks) : OnlyRow s t (bankRow b) := by
  obtain ⟨⟨hrest, -, hrows⟩, -, -⟩ := h
  exact ⟨hrest.trans (by rw [hbanks]), hrows⟩

theorem WordWorks.cur_eq {b : Nat} {s t : State} (h : WordWorks b s t) : t.cur = s.cur := by
  obtain ⟨⟨hrest, -, -⟩, -, -⟩ := h
  exact (congrArg State.cur hrest :)

theorem WordWorks.now_eq {b : Nat} {s t : State} (h : WordWorks b s t) : now t = now s := by
  obtain ⟨⟨hrest, -, -⟩, -, -⟩ := h
  exact (congrArg now hrest :)

theorem WordWorks.pace_eq {b : Nat} {s t : State} (h : WordWorks b s t) (c : Ctx) : pace t c = pace s c := by
  obtain ⟨⟨hrest, -, -⟩, -, -⟩ := h
  exact (congrArg (fun u => pace u c) hrest :)

/-! ## Steps of a word, posted from a state that it has come to -/

theorem Posts.of_schedules {s t u : State} {n : Nat} {i : Instr} (h : Posts s t n i) (htu : Schedules t u) : Posts s u n i := by
  obtain ⟨hpre, e, he, hposted⟩ := h
  exact ⟨hpre.trans htu.kept, e, htu.kept.subset he, hposted⟩

theorem Posts.of_wordWorks {b : Nat} {s t u : State} {n : Nat} {i : Instr} (hst : WordWorks b s t) (h : Posts t u n i) : Posts s u n i := by
  unfold Posts at *
  rw [hst.cur_eq, hst.now_eq] at h
  obtain ⟨hpre, hposted⟩ := h
  exact ⟨hst.kept.trans hpre, hposted⟩

/-- A step of a word posts its event, on the pace of the word's window (R191, R193). -/
theorem WordWorks.posts_mLater {b : Nat} {s t : State} (h : WordWorks b s t) (hd : s.cur.drain = false) (hcls : stepClass s.cur.word = 0)
    (id cls idx d ph : Nat) (runs : List Nat) (len : Nat) (wr : Bool) (sel : Nat) :
    Posts s (mLater t id cls idx d ph runs len wr sel) (d * pace s s.cur) (stepEvent id cls idx runs len wr sel) := by
  rw [← h.cur_eq] at hd hcls
  have hposts := posts_later hd (d * pace t t.cur) ph (engineRank (wordEng t.cur.word)) (stepEventIn id cls idx runs len wr sel (stepClass t.cur.word) [])
  rw [hcls, h.cur_eq, h.pace_eq] at hposts
  refine .of_wordWorks h ?_
  unfold mLater stepLater stepUnder
  rw [hcls, h.cur_eq, h.pace_eq]
  exact hposts

/-- What step `j` of a list of steps posts, wherever the ones before it stand. -/
theorem posts_forEach {s t : State} {f : State → Nat → State} {l : List Nat} {j n : Nat} {i : Instr} (hj : j ∈ l)
    (hf : ∀ u n, Schedules u (f u n)) (hpost : ∀ u, Schedules t u → Posts s (f u j) n i) : Posts s (forEach t l f) n i := by
  obtain ⟨before, rest, rfl⟩ := List.append_of_mem hj
  rw [forEach, List.foldl_append, List.foldl_cons]
  exact (hpost _ ((Schedules.refl t).forEach hf before)).of_schedules ((Schedules.refl _).forEach hf rest)

/-! ## Changes of a row that leave its tiles -/

/-- A word of bank `b` has changed no more than the agenda and what the engines of its row work on besides the tiles. -/
structure LeavesTiles (b : Nat) (s t : State) : Prop where
  works : WordWorks b s t
  banks : t.banks = s.banks
  tiles : (rowOf t (bankRow b)).tiles = (rowOf s (bankRow b)).tiles

/-- A word of bank `b` has changed neither the tiles of its row nor the creels. -/
structure LeavesArrays (b : Nat) (s t : State) : Prop where
  leavesTiles : LeavesTiles b s t
  creels : (rowOf t (bankRow b)).creels = (rowOf s (bankRow b)).creels

theorem Schedules.leavesArrays {s t : State} (h : Schedules s t) (b : Nat) : LeavesArrays b s t :=
  ⟨⟨h.wordWorks b, h.banks_eq, congrArg Row.tiles (h.rowOf_eq _)⟩, congrArg Row.creels (h.rowOf_eq _)⟩

theorem Schedules.leavesTiles {s t : State} (h : Schedules s t) (b : Nat) : LeavesTiles b s t := (h.leavesArrays b).leavesTiles

theorem LeavesTiles.trans {b : Nat} {s t u : State} (hst : LeavesTiles b s t) (htu : LeavesTiles b t u) : LeavesTiles b s u :=
  ⟨hst.works.trans htu.works, htu.banks.trans hst.banks, htu.tiles.trans hst.tiles⟩

theorem LeavesArrays.trans {b : Nat} {s t u : State} (hst : LeavesArrays b s t) (htu : LeavesArrays b t u) : LeavesArrays b s u :=
  ⟨hst.leavesTiles.trans htu.leavesTiles, htu.creels.trans hst.creels⟩

theorem LeavesTiles.strandOf_eq {b : Nat} {s t : State} (h : LeavesTiles b s t) (j : Nat) : strandOf t j = strandOf s j := by
  rw [strandOf, h.banks, strandOf]

theorem LeavesTiles.tileOf_eq {b : Nat} {s t : State} (h : LeavesTiles b s t) (n : Nat) :
    tileOf (rowOf t (bankRow b)) n = tileOf (rowOf s (bankRow b)) n := by
  rw [tileOf, h.tiles, tileOf]

theorem LeavesTiles.onlyRow {b : Nat} {s t : State} (h : LeavesTiles b s t) : OnlyRow s t (bankRow b) := h.works.onlyRow h.banks

theorem leavesTiles_setRow (b : Nat) (s : State) {x : Row} (hx : OnlyEngines (rowOf s (bankRow b)) x) (ht : x.tiles = (rowOf s (bankRow b)).tiles) :
    LeavesTiles b s (setRow s (bankRow b) x) :=
  ⟨wordWorks_setRow b s hx, rfl, by rw [rowOf_setRow_self, ht]⟩

theorem leavesArrays_setRow (b : Nat) (s : State) {x : Row} (hx : OnlyEngines (rowOf s (bankRow b)) x) (ht : x.tiles = (rowOf s (bankRow b)).tiles)
    (hc : x.creels = (rowOf s (bankRow b)).creels) : LeavesArrays b s (setRow s (bankRow b) x) :=
  ⟨leavesTiles_setRow b s hx ht, by rw [rowOf_setRow_self, hc]⟩

theorem leavesArrays_mHold (s : State) : LeavesArrays s.cur.bank s (mHold s) := leavesArrays_setRow _ s rfl rfl rfl

theorem nextMacro_mHold (s : State) : (rowOf (mHold s) (curRow s)).nextMacro = (rowOf s (curRow s)).nextMacro := by
  rw [mHold, rowOf_setRow_self]

theorem leavesArrays_newMacro {b : Nat} {s : State} (hb : s.cur.bank = b) (prod : Option Product) (inj : Option (BitVec 24)) (dead : Bool) :
    LeavesArrays b s (newMacro s prod inj dead).2 := by
  subst hb
  exact leavesArrays_setRow _ s rfl rfl rfl

theorem leavesArrays_putMacro (b : Nat) (s : State) (id : Nat) (m : Macro) : LeavesArrays b s (putMacro s (bankRow b) id m) :=
  leavesArrays_setRow b s rfl rfl rfl

theorem leavesTiles_setCreel (b : Nat) (s : State) (n : Nat) (x : Creel) : LeavesTiles b s (setCreel s (bankRow b) n x) :=
  leavesTiles_setRow b s rfl rfl

theorem leavesTiles_freeCtr (b : Nat) (s : State) (n : Nat) : LeavesTiles b s { s with freeCtr := n } :=
  ⟨⟨⟨rfl, fun _ _ => rfl, fun _ _ => rfl⟩, rfl, List.prefix_rfl⟩, rfl, rfl⟩

theorem leavesTiles_fillFree (b : Nat) (s : State) (n : Nat) (p : Prod) : LeavesTiles b s (fillFree s (bankRow b) n p) := by
  refine List.foldlRecOn _ _ ((Schedules.refl s).leavesTiles b) fun u hu j _ => ?_
  dsimp only
  split
  · exact hu
  · exact hu.trans ((leavesTiles_freeCtr b u _).trans (leavesTiles_setCreel ..))

theorem leavesTiles_readBuf (b : Nat) (s : State) (p : Prod) (n : Nat) : LeavesTiles b s (readBuf s (bankRow b) p n) :=
  (leavesTiles_fillFree ..).trans (leavesTiles_setCreel ..)

theorem leavesTiles_readBufs (b : Nat) (s : State) (p : Prod) (l : List Nat) :
    LeavesTiles b s (forEach s l fun u n => readBuf u (bankRow b) p n) :=
  List.foldlRecOn _ _ ((Schedules.refl s).leavesTiles b) fun u hu n _ => hu.trans (leavesTiles_readBuf b u p n)

theorem wordWorks_setTile (b : Nat) (s : State) (n : Nat) (x : Tile) : WordWorks b s (setTile s (bankRow b) n x) := wordWorks_setRow b s rfl

@[simp] theorem tileOf_setTile_self (s : State) (r n : Nat) (x : Tile) : tileOf (rowOf (setTile s r n x) r) n = x := by
  simp [tileOf, setTile]

theorem creels_setTile (s : State) (r n : Nat) (x : Tile) : (rowOf (setTile s r n x) r).creels = (rowOf s r).creels := by
  rw [setTile, rowOf_setRow_self]

theorem tileOf_setTile_ne (s : State) (r : Nat) {n j : Nat} (x : Tile) (h : j ≠ n) :
    tileOf (rowOf (setTile s r n x) r) j = tileOf (rowOf s r) j := by
  simp [tileOf, setTile, Sparse.getD_put_ne _ _ _ h]

/-! ## A product's issue (R176, R216) -/

/-- A product that does not send its sums on fills its tile, in whose checks its own flag counts (R176, R196). -/
theorem productIssue_spec (s : State) (p : Prod) (pr : Product) (retry : Bool) :
    WordWorks s.cur.bank s (productIssue s p pr retry) ∧ (productIssue s p pr retry).banks = s.banks ∧
      (p.cout = false → (tileOf (rowOf (productIssue s p pr retry) (bankRow s.cur.bank)) p.tile).st = .filling ∧
        (tileOf (rowOf (productIssue s p pr retry) (bankRow s.cur.bank)) p.tile).checked =
          (productTile (tileOf (rowOf s (bankRow s.cur.bank)) p.tile) p pr).checked) := by
  unfold productIssue
  extract_lets r s2 t _ s3 m s4 done s5 rel
  have hbufs : LeavesTiles s.cur.bank s s2 := (leavesArrays_mHold s).leavesTiles.trans (leavesTiles_readBufs ..)
  have htile : WordWorks s.cur.bank s2 s3 := by
    unfold s3
    split
    · exact (Schedules.refl s2).wordWorks _
    · exact wordWorks_setTile ..
  have hbanks : s3.banks = s2.banks := by
    unfold s3
    split <;> rfl
  have hwritten (hcout : p.cout = false) :
      (tileOf (rowOf s3 r) p.tile).st = .filling ∧ (tileOf (rowOf s3 r) p.tile).checked = (productTile t p pr).checked := by
    unfold s3
    rw [if_neg (Bool.eq_false_iff.1 hcout), tileOf_setTile_self]
    split
    · exact ⟨rfl, rfl⟩
    · exact ⟨rfl, rfl⟩
  have hread : WordWorks s.cur.bank s s3 := hbufs.works.trans htile
  have hmacro : LeavesTiles s.cur.bank s3 m.2 := (leavesArrays_newMacro (congrArg Ctx.bank hread.cur_eq) ..).leavesTiles
  have hrows : Schedules m.2 s4 := .ite ((Schedules.refl _).forEach (fun _ _ => rowSteps_schedules ..) _) (rowSteps_schedules ..)
  have hdone : Schedules m.2 s5 := .ite hrows (hrows.mLater ..)
  have hends := (hdone.forEach (fun u n => (Schedules.refl u).mLater m.1 kRelease n rel 0 [] 0 false 4) (bufsOf p)).mLater m.1 kEnd 0
    (max done rel) 5 [] 0 false 4
  have hsteps := hmacro.trans (hends.leavesTiles _)
  have ht : t = tileOf (rowOf s (bankRow s.cur.bank)) p.tile := hbufs.tileOf_eq _
  refine ⟨hread.trans hsteps.works, hsteps.banks.trans (hbanks.trans hbufs.banks), fun hcout => ?_⟩
  rw [← ht, hsteps.tileOf_eq]
  exact hwritten hcout

/-! ## An attempt to correct a tile (R207) -/

/-- The strand with one attempt more, in the frame too while a handler runs. -/
def attempted (t : Strand) : Strand :=
  { t with ckret := BitVec.ofNat 16 (t.ckret.toNat / 256 * 256 + min 255 (t.ckret.toNat % 256 + 1)),
           frame := t.frame.map (fun f => { f with retries := f.retries + 1 }) }

theorem countAttempt_eq (s : State) : countAttempt s = setStrand s s.cur.bank (attempted (strandOf s s.cur.bank)) := rfl

theorem attempted_ckret_toNat (t : Strand) :
    (attempted t).ckret.toNat = t.ckret.toNat / 256 * 256 + min 255 (t.ckret.toNat % 256 + 1) := by
  have hlt := t.ckret.isLt
  rw [attempted, BitVec.toNat_ofNat]
  omega

/-- The strand when `mrty` runs a product again (R216): one attempt more, and `cksyn` without valid, loc and fixed. -/
def retried (t : Strand) : Strand := { attempted t with cksyn := t.cksyn &&& 0x1FFFFFFFFFFFFFFF }

/-- The attempts stand in the low byte of `ckret`, which saturates. -/
theorem attempted_ckret (t : Strand) :
    (attempted t).ckret.toNat / 256 = t.ckret.toNat / 256 ∧ (attempted t).ckret.toNat % 256 = min 255 (t.ckret.toNat % 256 + 1) := by
  rw [attempted_ckret_toNat]
  omega

/-- The strand has one attempt more to its account, and perhaps another syndrome. -/
def CountsAttempt (t u : Strand) : Prop := u = { attempted t with cksyn := u.cksyn }

theorem countsAttempt_attempted (t : Strand) : CountsAttempt t (attempted t) := rfl

theorem countsAttempt_retried (t : Strand) : CountsAttempt t (retried t) := rfl

/-- An attempt counted leaves the strand's registers, its `cp` and its state. -/
theorem CountsAttempt.spec {t u : Strand} (h : CountsAttempt t u) :
    (u.ckret.toNat / 256 = t.ckret.toNat / 256 ∧ u.ckret.toNat % 256 = min 255 (t.ckret.toNat % 256 + 1)) ∧ SameRegisters t u ∧
      u.cp = t.cp ∧ u.st = t.st := by
  unfold CountsAttempt at h
  rw [h]
  exact ⟨attempted_ckret t, ⟨rfl, rfl, rfl, rfl, rfl, rfl⟩, rfl, rfl⟩

theorem wordWorks_countAttempt (s : State) : WordWorks s.cur.bank s (countAttempt s) := wordWorks_setStrand ..

theorem strandOf_countAttempt (s : State) : strandOf (countAttempt s) s.cur.bank = attempted (strandOf s s.cur.bank) := by
  rw [countAttempt_eq, strandOf_setStrand_self]

/-! ## The words at their engine -/

theorem newMacro_mHold_spec (s : State) (prod : Option Product) (inj : Option (BitVec 24)) (dead : Bool) :
    LeavesArrays s.cur.bank s (newMacro (mHold s) prod inj dead).2 ∧ (newMacro (mHold s) prod inj dead).1 = (rowOf s (curRow s)).nextMacro :=
  ⟨(leavesArrays_mHold s).trans (leavesArrays_newMacro (s := mHold s) rfl ..), nextMacro_mHold s⟩

section
variable {s : State} {g : BitVec 4} (t : BitVec 2) (a b : BitVec 5) (hg : guardOn s g = true) (hd : s.cur.drain = false)

include hg hd in
theorem exec_ckloc_spec (hw : encode (.ckloc g t a) = [s.cur.word]) :
    ∃ v, exec (.ckloc g t a) s = .next v ∧ LeavesArrays s.cur.bank s v ∧
      Posts s v (8 * pace s s.cur) (stepEvent (rowOf s (curRow s)).nextMacro kNote 0 [] 0 false 4) ∧
      Posts s v (9 * pace s s.cur) (stepEvent (rowOf s (curRow s)).nextMacro kNote 1 [recBase (rec0 s.cur)] 64 true 4) := by
  refine ⟨_, (exec_ckloc ..).trans (runMacro_of_encode _ hg hw), ?_⟩
  have hcls : stepClass s.cur.word = 0 := stepClass_ckloc hw
  obtain ⟨hissued, hid⟩ := newMacro_mHold_spec s none none false
  dsimp only
  generalize newMacro (mHold s) none none false = m at hissued hid ⊢
  have hnote := (Schedules.refl m.2).mLater m.1 kNote 0 8 0 [] 0 false 4
  have hrecord := hnote.mLater m.1 kNote 1 9 4 [recBase (rec0 s.cur)] 64 true 4
  rw [← hid]
  exact ⟨hissued.trans (hrecord.leavesArrays _),
    (hissued.leavesTiles.works.posts_mLater hd hcls ..).of_schedules ((Schedules.refl _).mLater ..),
    (hissued.leavesTiles.works.trans (hnote.wordWorks _)).posts_mLater hd hcls ..⟩

include hg hd in
theorem exec_ckrd_spec (hw : encode (.ckrd g t a b) = [s.cur.word]) :
    ∃ v, exec (.ckrd g t a b) s = .next v ∧ LeavesArrays s.cur.bank s v ∧
      ∀ j, j < s.cur.rb.toNat % 256 → Posts s v ((4 + j) * pace s s.cur)
        (stepEvent (rowOf s (curRow s)).nextMacro kOut j [recBase (rec0 s.cur) + j * recStride (rec0 s.cur) 1] 256 true 4) := by
  refine ⟨_, (exec_ckrd ..).trans (runMacro_of_encode _ hg hw), ?_⟩
  have hcls : stepClass s.cur.word = 0 := stepClass_ckrd hw
  obtain ⟨hissued, hid⟩ := newMacro_mHold_spec s none none false
  extract_lets r x trow val m rows words s1 img s2
  have hkept : LeavesArrays s.cur.bank m.2 s1 := by
    unfold s1
    split
    · exact leavesArrays_putMacro ..
    · exact (Schedules.refl _).leavesArrays _
  have hstep (u : State) (i : Nat) : Schedules u _ :=
    (Schedules.refl u).mLater m.1 kOut i (4 + i) 4 [recBase img + i * recStride img 1] 256 true 4
  have hrows : Schedules s1 s2 := (Schedules.refl s1).forEach hstep rows
  have hends : Schedules s2 _ := (Schedules.refl s2).mLater m.1 kEnd 0 (3 + ctlM s.cur.rb) 5 [] 0 false 4
  have hread := hissued.trans hkept
  refine ⟨hread.trans ((hrows.trans hends).leavesArrays _), fun j hj => ?_⟩
  have hrow : j ∈ rows := List.mem_range.2 (by rwa [ctlM, bitsOf, Nat.pow_zero, Nat.div_one])
  rw [← hid]
  exact (posts_forEach hrow hstep fun u hu => (hread.leavesTiles.works.trans (hu.wordWorks _)).posts_mLater hd hcls ..).of_schedules hends

include hg in
theorem exec_ckinj_spec (hw : encode (.ckinj g t b) = [s.cur.word]) :
    exec (.ckinj g t b) s = .next (setTile (mHold s) (curRow s) t.toNat
      { tileOf (rowOf s (curRow s)) t.toNat with inj := some (s.cur.rb.setWidth 24) }) := by
  have htile : tileOf (rowOf (mHold s) (curRow s)) t.toNat = tileOf (rowOf s (curRow s)) t.toNat := (leavesArrays_mHold s).leavesTiles.tileOf_eq _
  rw [← htile]
  exact (exec_ckinj ..).trans (runMacro_of_encode _ hg hw)

include hg in
theorem exec_ckfix_of_none (hw : encode (.ckfix g t) = [s.cur.word]) (hprod : (tileOf (rowOf s (curRow s)) t.toNat).prod = none) :
    exec (.ckfix g t) s = .next (countAttempt (mHold s)) := by
  rw [exec_ckfix, execCkfix, runMacro_of_encode _ hg hw]
  simp only [hprod]

include hg in
theorem exec_mrty_of_none (hw : encode (.mrty g t) = [s.cur.word]) (hprod : (tileOf (rowOf s (curRow s)) t.toNat).prod = none) :
    exec (.mrty g t) s = .next (countAttempt (mHold s)) := by
  rw [exec_mrty, execMrty, runMacro_of_encode _ hg hw]
  simp only [hprod]

include hg hd in
/-- With a product held, `ckfix` reads its row again and writes and rechecks its element later (R213): no tile changes yet. -/
theorem exec_ckfix_of_some (hw : encode (.ckfix g t) = [s.cur.word]) {pr : Product} (hprod : (tileOf (rowOf s (curRow s)) t.toNat).prod = some pr) :
    ∃ v, exec (.ckfix g t) s = .next v ∧ WordWorks s.cur.bank s v ∧
      strandOf v s.cur.bank = attempted (strandOf s s.cur.bank) ∧ (rowOf v (curRow s)).tiles = (rowOf s (curRow s)).tiles ∧
      Posts s v ((4 + 2 * (prodOf pr.word pr.ctx).chain) * pace s s.cur) (stepEvent (rowOf s (curRow s)).nextMacro kWrite
        (synM (strandOf s s.cur.bank).cksyn - (prodOf pr.word pr.ctx).trow) [] 0 false 4) ∧
      Posts s v ((8 + 2 * (prodOf pr.word pr.ctx).chain) * pace s s.cur) (stepEvent (rowOf s (curRow s)).nextMacro kNote 0 [] 0 false 4) := by
  refine ⟨_, (exec_ckfix ..).trans (runMacro_of_encode _ hg hw), ?_⟩
  have hcls : stepClass s.cur.word = 0 := stepClass_ckfix hw
  extract_lets r syn s1
  rw [show (tileOf (rowOf s r) t.toNat).prod = some pr from hprod]
  dsimp -zeta only
  extract_lets p row n _ s2 m s3 s4 s5
  have hattempt : WordWorks s.cur.bank s s1 := (leavesArrays_mHold s).leavesTiles.works.trans (wordWorks_countAttempt (mHold s))
  have hmacro : LeavesTiles s.cur.bank s1 m.2 :=
    (leavesTiles_setCreel ..).trans (leavesArrays_newMacro (b := s.cur.bank) (s := s2) rfl ..).leavesTiles
  have hid : m.1 = (rowOf s r).nextMacro := by
    have hs2 : (rowOf s2 r).nextMacro = (rowOf s1 r).nextMacro := by
      unfold s2
      rw [setCreel, rowOf_setRow_self]
    exact hs2.trans (nextMacro_mHold s)
  have hread : Schedules m.2 s3 := .ite ((Schedules.refl _).mLater ..) (readRow_schedules ..)
  have hwrite : Schedules s3 s4 := (Schedules.refl s3).mLater ..
  have hnote : Schedules s4 s5 := (Schedules.refl s4).mLater ..
  have hrelease : Schedules s5 _ := (Schedules.refl s5).mLater m.1 kRelease n (8 + 2 * p.chain) 0 [] 0 false 4
  have hsteps := hmacro.trans ((hread.trans (hwrite.trans (hnote.trans hrelease))).leavesTiles _)
  have hissued := hattempt.trans (hmacro.works.trans (hread.wordWorks _))
  rw [← hid]
  refine ⟨hattempt.trans hsteps.works, ?_, hsteps.tiles.trans (leavesArrays_mHold s).leavesTiles.tiles,
    (hissued.posts_mLater hd hcls ..).of_schedules (hnote.trans hrelease),
    ((hissued.trans (hwrite.wordWorks _)).posts_mLater hd hcls ..).of_schedules hrelease⟩
  exact (hsteps.strandOf_eq _).trans (strandOf_countAttempt (mHold s))

include hg in
/-- With a product held, `mrty` issues it again, in the overwrite form and with checks (R216). -/
theorem exec_mrty_of_some (hw : encode (.mrty g t) = [s.cur.word]) {pr : Product} (hprod : (tileOf (rowOf s (curRow s)) t.toNat).prod = some pr) :
    exec (.mrty g t) s = .next (productIssue (setStrand (countAttempt s) s.cur.bank (retried (strandOf s s.cur.bank)))
      { prodOf pr.word pr.ctx with acc := false, ck := true } pr true) := by
  rw [exec_mrty, execMrty, runMacro_of_encode _ hg hw]
  simp only [hprod, strandOf_countAttempt]
  rfl

include hg in
theorem exec_mrty_spec (hw : encode (.mrty g t) = [s.cur.word]) {pr : Product} (hprod : (tileOf (rowOf s (curRow s)) t.toNat).prod = some pr) :
    ∃ v, exec (.mrty g t) s = .next v ∧ WordWorks s.cur.bank s v ∧ strandOf v s.cur.bank = retried (strandOf s s.cur.bank) ∧
      ((prodOf pr.word pr.ctx).cout = false → (tileOf (rowOf v (curRow s)) (prodOf pr.word pr.ctx).tile).st = .filling ∧
        (tileOf (rowOf v (curRow s)) (prodOf pr.word pr.ctx).tile).checked = true) := by
  refine ⟨_, exec_mrty_of_some t hg hw hprod, ?_⟩
  obtain ⟨hworks, hbanks, htile⟩ := productIssue_spec (setStrand (countAttempt s) s.cur.bank (retried (strandOf s s.cur.bank)))
    { prodOf pr.word pr.ctx with acc := false, ck := true } pr true
  have hcounted : WordWorks s.cur.bank s (setStrand (countAttempt s) s.cur.bank (retried (strandOf s s.cur.bank))) :=
    (wordWorks_countAttempt s).trans (wordWorks_setStrand ..)
  refine ⟨hcounted.trans hworks, ?_, htile⟩
  rw [strandOf, hbanks, ← strandOf, strandOf_setStrand_self]

/-- With no product held, all that `ckfix` and `mrty` do is to count the attempt (R213, R216). -/
theorem countAttempt_mHold_spec (s : State) :
    WordWorks s.cur.bank s (countAttempt (mHold s)) ∧ CountsAttempt (strandOf s s.cur.bank) (strandOf (countAttempt (mHold s)) s.cur.bank) := by
  refine ⟨(leavesArrays_mHold s).leavesTiles.works.trans (wordWorks_countAttempt (mHold s)), ?_⟩
  have hstrand : strandOf (countAttempt (mHold s)) s.cur.bank = attempted (strandOf s s.cur.bank) := strandOf_countAttempt (mHold s)
  rw [hstrand]
  exact countsAttempt_attempted _

include hg hd in
theorem exec_ckfix_counts (hw : encode (.ckfix g t) = [s.cur.word]) :
    ∃ v, exec (.ckfix g t) s = .next v ∧ WordWorks s.cur.bank s v ∧ CountsAttempt (strandOf s s.cur.bank) (strandOf v s.cur.bank) := by
  cases hprod : (tileOf (rowOf s (curRow s)) t.toNat).prod with
  | none => exact ⟨_, exec_ckfix_of_none t hg hw hprod, countAttempt_mHold_spec s⟩
  | some pr =>
    obtain ⟨v, hexec, hworks, hstrand, -⟩ := exec_ckfix_of_some t hg hd hw hprod
    exact ⟨v, hexec, hworks, hstrand ▸ countsAttempt_attempted _⟩

include hg in
theorem exec_mrty_counts (hw : encode (.mrty g t) = [s.cur.word]) :
    ∃ v, exec (.mrty g t) s = .next v ∧ WordWorks s.cur.bank s v ∧ CountsAttempt (strandOf s s.cur.bank) (strandOf v s.cur.bank) := by
  cases hprod : (tileOf (rowOf s (curRow s)) t.toNat).prod with
  | none => exact ⟨_, exec_mrty_of_none t hg hw hprod, countAttempt_mHold_spec s⟩
  | some pr =>
    obtain ⟨v, hexec, hworks, hstrand, -⟩ := exec_mrty_spec t hg hw hprod
    exact ⟨v, hexec, hworks, hstrand ▸ countsAttempt_retried _⟩

end

/-- Settles O34: each clause is the lemma for its word at the engine. -/
theorem Checks.checkWords : Obligations.CheckWords := by
  unfold Obligations.CheckWords
  intro g t a b s hg hd
  refine ⟨?ckloc, ?ckrd, ?ckinj, ?attempts, ?mrty, ?ckfix⟩
  case ckloc =>
    intro hw
    obtain ⟨v, hexec, hleaves, hposts⟩ := exec_ckloc_spec t a hg hd hw
    exact ⟨v, hexec, hleaves.leavesTiles.onlyRow, hleaves.leavesTiles.works.onlyEngines, hleaves.leavesTiles.tiles, hleaves.creels, hposts⟩
  case ckrd =>
    intro hw
    obtain ⟨v, hexec, hleaves, hposts⟩ := exec_ckrd_spec t a b hg hd hw
    exact ⟨v, hexec, hleaves.leavesTiles.onlyRow, hleaves.leavesTiles.works.onlyEngines, hleaves.leavesTiles.tiles, hleaves.creels, hposts⟩
  case ckinj =>
    intro hw
    have hholds := leavesArrays_mHold s
    have hworks := hholds.leavesTiles.works.trans (wordWorks_setTile s.cur.bank (mHold s) t.toNat
      { tileOf (rowOf s (curRow s)) t.toNat with inj := some (s.cur.rb.setWidth 24) })
    exact ⟨_, exec_ckinj_spec t b hg hw, hworks.onlyRow rfl, hworks.onlyEngines, rfl, tileOf_setTile_self ..,
      fun n hn => (tileOf_setTile_ne _ _ _ hn).trans (hholds.leavesTiles.tileOf_eq n), (creels_setTile ..).trans hholds.creels⟩
  case attempts =>
    simp only [List.forall_mem_cons, List.not_mem_nil, false_imp_iff, implies_true, and_true]
    refine ⟨fun hw => ?_, fun hw => ?_⟩
    · obtain ⟨v, hexec, hworks, hcounts⟩ := exec_ckfix_counts t hg hd hw
      exact ⟨v, hexec, hworks.onlyBankRow, hcounts.spec⟩
    · obtain ⟨v, hexec, hworks, hcounts⟩ := exec_mrty_counts t hg hw
      exact ⟨v, hexec, hworks.onlyBankRow, hcounts.spec⟩
  case mrty =>
    intro pr hprod hw
    obtain ⟨v, hexec, -, hstrand, htile⟩ := exec_mrty_spec t hg hw hprod
    exact ⟨v, hexec, by rw [hstrand]; rfl, htile⟩
  case ckfix =>
    intro pr hprod hw
    obtain ⟨v, hexec, -, hstrand, htiles, hposts⟩ := exec_ckfix_of_some t hg hd hw hprod
    exact ⟨v, hexec, htiles, by rw [hstrand]; rfl, hposts⟩

end Sys2Proof.Machine
end

section
/-! SUPPORT. What `xjob` and `xjobf` (R268, R270) do at their engine. O44 says that the edges of the new job are those of its scheduler, whatever the
state; that takes a scheduler with a free slot, which O44 does not ask for. -/

namespace Sys2Proof.Machine

/-! ## A job enters a scheduler (R268, R270) -/

/-- A job as it stands once it has entered: its edges, its serial number and its agent id are those of its submission. -/
def enteredJob (s : State) (key : Nat) (j : Job) : Job :=
  { j with st := if edgesOf s (key / 64) j.card = [] then .ready else .queued, serial := s.nextJob, edges := edgesOf s (key / 64) j.card,
           agent := jobAgent s key }

theorem enterJob_schedules (s : State) (key : Nat) (j : Job) :
    Schedules { s with jobs := s.jobs.put key (enteredJob s key j), nextJob := s.nextJob + 1 } (enterJob s key j) := by
  simp only [enterJob, List.isEmpty_iff]
  exact .ite ⟨onlyAgenda_post .., List.prefix_append ..⟩ (.refl _)

theorem noteCard_spec (s : State) (b : Nat) (k : BitVec 1024) :
    noteCard s b k = { s with banks := (noteCard s b k).banks } ∧ SameRegisters (strandOf s b) (strandOf (noteCard s b k) b) ∧
      ∀ n, n ≠ b → strandOf (noteCard s b k) n = strandOf s n := by
  simp only [noteCard]
  split
  · refine ⟨rfl, ?_, fun n hn => strandOf_setStrand_ne _ _ _ _ hn⟩
    rw [strandOf_setStrand_self]
    exact ⟨rfl, rfl, rfl, rfl, rfl, rfl⟩
  · exact ⟨rfl, ⟨rfl, rfl, rfl, rfl, rfl, rfl⟩, fun _ _ => rfl⟩

theorem later_schedules (s : State) (d ph eng : Nat) (i : Instr) : Schedules s (later s d ph eng i) := ⟨onlyAgenda_post .., List.prefix_append ..⟩

theorem handDelay_schedules (s : State) (h : HeldTok) : Schedules s (handDelay s h).2 := by
  simp only [handDelay]
  split
  · exact .refl s
  · exact ⟨rfl, List.prefix_rfl⟩

theorem foldl_schedules {α : Type} {f : State → α → State} (hf : ∀ s e, Schedules s (f s e)) (l : List α) (s : State) : Schedules s (l.foldl f s) :=
  List.foldlRecOn l f (.refl s) fun u hu e _ => hu.trans (hf u e)

/-- Job `j` has entered under `key` for the strand of bank `b`. Nothing else has changed but that strand, whose registers stand, and the agenda, from
which no entry has gone. -/
structure Submits (b key : Nat) (j : Job) (s t : State) : Prop where
  rest : t = { s with agenda := t.agenda, seq := t.seq, freeCtr := t.freeCtr, banks := t.banks, jobs := s.jobs.put key j, nextJob := s.nextJob + 1 }
  kept : s.agenda <+: t.agenda
  registers : SameRegisters (strandOf s b) (strandOf t b)
  strands : ∀ n, n ≠ b → strandOf t n = strandOf s n

theorem Submits.find_self {b key : Nat} {j : Job} {s t : State} (h : Submits b key j s t) : Sparse.find t.jobs key = some j := by
  rw [h.rest, Sparse.find_put_self]

theorem Submits.find_ne {b key n : Nat} {j : Job} {s t : State} (h : Submits b key j s t) (hn : n ≠ key) :
    Sparse.find t.jobs n = Sparse.find s.jobs n := by
  rw [h.rest, Sparse.find_put_ne _ _ hn]

theorem Submits.of_schedules {b key : Nat} {j : Job} {s t u : State} (h : Submits b key j s t) (htu : Schedules t u) : Submits b key j s u := by
  obtain ⟨hrest, hkept, hregisters, hstrands⟩ := h
  have hstrand := htu.onlyAgenda.strandOf_eq
  refine ⟨?_, hkept.trans htu.kept, hstrand b ▸ hregisters, fun n hn => (hstrand n).trans (hstrands n hn)⟩
  have honly := htu.onlyAgenda
  unfold OnlyAgenda at honly
  rw [honly, hrest]

theorem Submits.cur_eq {b key : Nat} {j : Job} {s t : State} (h : Submits b key j s t) : t.cur = s.cur := (congrArg State.cur h.rest :)

theorem Submits.posts {b key n : Nat} {j : Job} {i : Instr} {s t u : State} (h : Submits b key j s t) (hp : Posts t u n i) : Posts s u n i := by
  obtain ⟨hpre, e, he, hclk, hat, hctx, hpay⟩ := hp
  have hcur := h.cur_eq
  have hnow : now t = now s := (congrArg now h.rest :)
  exact ⟨h.kept.trans hpre, e, he, hcur ▸ hclk, hnow ▸ hat, hctx.trans hcur, hpay⟩

theorem submits_noteCard_enterJob (s : State) (b key : Nat) (j : Job) (k : BitVec 1024) :
    Submits b key (enteredJob s key j) s (noteCard (enterJob s key j) b k) := by
  obtain ⟨hnoted, hregisters, hstrands⟩ := noteCard_spec (enterJob s key j) b k
  have hentered := enterJob_schedules s key j
  have hstrand (n : Nat) : strandOf (enterJob s key j) n = strandOf s n := hentered.onlyAgenda.strandOf_eq n
  have honly := hentered.onlyAgenda
  unfold OnlyAgenda at honly
  refine ⟨?_, ?_, hstrand b ▸ hregisters, fun n hn => (hstrands n hn).trans (hstrand n)⟩
  · rw [hnoted, honly]
  · rw [hnoted]
    exact hentered.kept

/-! ## The submission at its engine (R268) -/

/-- The slot that a submission of the executing word takes. -/
def submitKey (s : State) : Nat :=
  cardSched (cardOf s.cur) (bankStack s.cur.bank) * 64 + freeSlot s (cardSched (cardOf s.cur) (bankStack s.cur.bank))

/-- The card captured becomes a job with the edges of the scheduler in which its slot lies, and its agent id lands 2 kc later. -/
theorem submit_spec (s : State) (rb : Nat) (hd : s.cur.drain = false) :
    ∃ j : Job, j.card = cardOf s.cur ∧ j.submitter = bankAgent s s.cur.bank ∧
      Submits s.cur.bank (submitKey s) (enteredJob s (submitKey s) j) s (submit s rb) ∧
      Posts s (submit s rb) 2
        (.resultLand { kind := .regs [.s rb (BitVec.ofNat 64 (jobAgent s (submitKey s)))], flags := 0 }) := by
  unfold submit
  extract_lets b z k sched key t ids toks j s1
  have hentered : Submits b key (enteredJob s key j) s (noteCard (enterJob s key j) b k) := submits_noteCard_enterJob s b key j k
  have hcur : (noteCard (enterJob s key j) b k).cur = s.cur := hentered.cur_eq
  refine ⟨j, rfl, rfl, (hentered.of_schedules (later_schedules ..)).of_schedules (foldl_schedules ?hands _ _),
    (hentered.posts (posts_later (by rw [hcur, hd]) ..)).of_schedules (foldl_schedules ?hands _ _)⟩
  intro u e
  exact .ite (.refl u) ((handDelay_schedules u e.1).trans (later_schedules ..))

/-- Both words of a submission do this. -/
theorem exec_xjob_eq {s : State} {g : BitVec 4} (a b : BitVec 5) (hg : guardOn s g = true) :
    ∀ i ∈ [Instr.xjob g a b, .xjobf g a b], exec i s = .next (submit s b.toNat) := by
  simp only [List.forall_mem_cons, List.not_mem_nil, false_imp_iff, implies_true, and_true, exec_xjob, exec_xjobf, execXjob, execXjobf,
    runWord_on s g _ hg]

/-! ## A scheduler without a free slot -/

/-- The card of a collective (kind 4), which goes to the hub's scheduler; its one write region is the byte at address 0. -/
def collectiveCard : BitVec 1024 := BitVec.ofNat 1024 (4 + 2 ^ 27)

/-- A job with that card, the one that came when `n` such jobs had come: it waits for all of them (R253). -/
def collectiveJob (n : Nat) : Job :=
  { st := if n = 0 then .ready else .queued, serial := n, card := collectiveCard, src := 0, dst := 0, agent := jobAgent State.reset (512 + n),
    submitter := 0, ctx := 0, grp := 0, kern := 0, stack := 0, row := 0, waddr := 0, pkc := 0, sched := 8, tbl := [], toks := [],
    edges := List.range n, phase := false, foImg := [], todo := [], hand := false, tag := 0, qlife := 0, held := false }

/-- Such jobs hold the 64 slots of the hub's scheduler, and the executing word has captured the same card. At dispatch an `xjob` counts the submissions
under way (`jobSlotFree`); a JOB packet asks only that the scheduler has a free slot (`jobPacketFail`), and may take the last one before the `xjob`
is at its engine. -/
def fullScheduler : State :=
  { State.reset with
    cur := { Ctx.none with recs := [0, 0, collectiveCard.setWidth 512, 0] }
    jobs := (List.range 64).map (fun n => (512 + n, collectiveJob n))
    nextJob := 64 }

theorem edgesOf_fullScheduler :
    edgesOf fullScheduler (cardSched (cardOf fullScheduler.cur) (bankStack fullScheduler.cur.bank)) (cardOf fullScheduler.cur) = List.range 64 := by
  decide +kernel

/-- The slot that the submission takes lies behind the hub's scheduler, where no job stands. -/
theorem edgesOf_submitKey_fullScheduler : edgesOf fullScheduler (submitKey fullScheduler / 64) (cardOf fullScheduler.cur) = [] := by
  decide +kernel

/-- What O44 asks of `xjob`: the scheduler in which the job's slot lies gives it the edges that its own gives. -/
theorem edgesOf_submitKey_of_jobsAreSubmittedAndComplete (h : Obligations.JobsAreSubmittedAndComplete) {s : State} (hd : s.cur.drain = false) :
    edgesOf s (submitKey s / 64) (cardOf s.cur) = edgesOf s (cardSched (cardOf s.cur) (bankStack s.cur.bank)) (cardOf s.cur) := by
  unfold Obligations.JobsAreSubmittedAndComplete at h
  obtain ⟨⟨hxjob, -⟩, -⟩ := h
  have hg : guardOn s 0 = true := rfl
  obtain ⟨t, hexec, ⟨j, hfind, -, -, -, -, hedges, -⟩, -⟩ := hxjob 0 0 0 s hg hd (.xjob 0 0 0) List.mem_cons_self
  rw [exec_xjob_eq 0 0 hg _ List.mem_cons_self] at hexec
  obtain rfl := Host.Outcome.next.inj hexec
  obtain ⟨x, hcard, -, hsubmits, -⟩ := submit_spec s (0 : BitVec 5).toNat hd
  obtain rfl := Option.some_inj.1 (hsubmits.find_self.symm.trans hfind)
  rw [← hcard]
  rw [← hcard] at hedges
  exact hedges

/-- Refutes O44: in `fullScheduler` the new job stands behind the hub's scheduler, without the edges that it has from the 64 jobs there. -/
theorem not_jobsAreSubmittedAndComplete : ¬ Obligations.JobsAreSubmittedAndComplete := by
  intro h
  have hedges := edgesOf_submitKey_of_jobsAreSubmittedAndComplete h (s := fullScheduler) rfl
  rw [edgesOf_fullScheduler, edgesOf_submitKey_fullScheduler] at hedges
  exact List.cons_ne_nil _ _ hedges.symm

/-! ## The clause for a scheduler with a free slot -/

theorem submitKey_div {s : State} (hfree : freeSlot s (cardSched (cardOf s.cur) (bankStack s.cur.bank)) < 64) :
    submitKey s / 64 = cardSched (cardOf s.cur) (bankStack s.cur.bank) := by
  rw [submitKey]
  omega

/-- The clause that `fullScheduler` breaks, where the scheduler has a free slot (R268): the job stands in that slot with the edges of its scheduler. -/
theorem exec_xjob_of_freeSlot {s : State} {g : BitVec 4} (a b : BitVec 5) (hg : guardOn s g = true) (hd : s.cur.drain = false)
    (hfree : freeSlot s (cardSched (cardOf s.cur) (bankStack s.cur.bank)) < 64) :
    let bk := s.cur.bank
    let k := cardOf s.cur
    let sched := cardSched k (bankStack bk)
    let key := sched * 64 + freeSlot s sched
    ∀ i ∈ [Instr.xjob g a b, .xjobf g a b], ∃ t, exec i s = .next t ∧
      (∃ j, Sparse.find t.jobs key = some j ∧ j.card = k ∧ j.submitter = bankAgent s bk ∧ j.agent = jobAgent s key ∧ j.serial = s.nextJob ∧
        j.edges = edgesOf s sched k ∧ (j.st = if edgesOf s sched k = [] then .ready else .queued)) ∧
      (∀ n, n ≠ key → Sparse.find t.jobs n = Sparse.find s.jobs n) ∧ t.nextJob = s.nextJob + 1 ∧ SameRegisters (strandOf s bk) (strandOf t bk) ∧
      (∀ n, n ≠ bk → strandOf t n = strandOf s n) ∧ SameMemory s t ∧ t.tokens = s.tokens ∧ t.rows = s.rows ∧
      Posts s t 2 (.resultLand { kind := .regs [.s b.toNat (BitVec.ofNat 64 (jobAgent s key))], flags := 0 }) := by
  intro bk k sched key i hi
  obtain ⟨j, hcard, hsubmitter, hsubmits, hposts⟩ := submit_spec s b.toNat hd
  have hrest := hsubmits.rest
  have hedges : edgesOf s (key / 64) j.card = edgesOf s sched k := by
    rw [hcard]
    exact congrArg (fun n => edgesOf s n k) (submitKey_div hfree)
  refine ⟨_, exec_xjob_eq a b hg i hi, ⟨_, hsubmits.find_self, hcard, hsubmitter, rfl, rfl, hedges, ?_⟩, fun n hn => hsubmits.find_ne hn,
    (congrArg State.nextJob hrest :), hsubmits.registers, hsubmits.strands, fun p => by rw [readByte, submit_mem, readByte],
    (congrArg State.tokens hrest :), (congrArg State.rows hrest :), hposts⟩
  rw [← hedges]
  rfl

end Sys2Proof.Machine
end

section
/-! SUPPORT. What `xrecv` (R264) does at its engine, and what a message does at its arrival (R263 to R265): one equation for each thing that either
can meet, and what the consumption of a message leaves and posts. -/

namespace Sys2Proof.Machine

/-! ## Steps of an X word -/

/-- The steps of an `xrecv` go in the ordering class that its last field names (R244). -/
theorem stepClass_xrecv {g : BitVec 4} {a b c : BitVec 5} {l : BitVec 4} {w : Word} (hw : encode (.xrecv g a b c l) = [w]) :
    stepClass w = l.toNat := by
  simp only [encode, encodeNat, tot, put, List.cons.injEq, and_true] at hw
  have hgate := g.isLt
  have ha := a.isLt
  have hb := b.isLt
  have hc := c.isLt
  have hl := l.isLt
  have hword := congrArg BitVec.toNat hw
  rw [BitVec.toNat_ofNat] at hword
  have heng : wordEng w = 3 := by
    rw [wordEng, bitsOf]
    omega
  rw [stepClass, if_pos heng, bitsOf]
  omega

theorem stepUnder_schedules (s : State) (id cls idx d ph : Nat) (runs : List Nat) (len : Nat) (wr : Bool) (sel : Nat) (masks : List Nat) :
    Schedules s (stepUnder s id cls idx d ph runs len wr sel masks) := later_schedules ..

theorem Posts.of_kept {s t u : State} {n : Nat} {i : Instr} (h : Posts s t n i) (htu : t.agenda <+: u.agenda) : Posts s u n i := by
  obtain ⟨hpre, e, he, hposted⟩ := h
  exact ⟨hpre.trans htu, e, htu.subset he, hposted⟩

/-- A step of an X word posts its event, in its word's ordering class. -/
theorem WordWorks.posts_stepUnder {b : Nat} {s t : State} (h : WordWorks b s t) (hd : s.cur.drain = false) (id cls idx d ph : Nat)
    (runs : List Nat) (len : Nat) (wr : Bool) (sel : Nat) (masks : List Nat) :
    Posts s (stepUnder t id cls idx d ph runs len wr sel masks) d
      (stepEventIn id cls idx runs len wr sel (stepClass s.cur.word) masks) := by
  rw [← h.cur_eq] at hd ⊢
  exact .of_wordWorks h (posts_later hd ..)

/-- What the step for one entry of a list posts, wherever the ones before it stand. -/
theorem posts_foldl {α : Type} {s t : State} {f : State → α → State} {l : List α} {e : α} {n : Nat} {i : Instr} (he : e ∈ l)
    (hf : ∀ u x, Schedules u (f u x)) (hpost : ∀ u, Schedules t u → Posts s (f u e) n i) : Posts s (l.foldl f t) n i := by
  obtain ⟨before, rest, rfl⟩ := List.append_of_mem he
  rw [List.foldl_append, List.foldl_cons]
  exact (hpost _ (foldl_schedules hf before t)).of_schedules (foldl_schedules hf rest _)

theorem writeLines_schedules (s : State) (id d sel : Nat) (ls : List Nat) (mask : Nat → Nat) : Schedules s (writeLines s id d sel ls mask) :=
  foldl_schedules (fun _ _ => stepUnder_schedules ..) _ s

/-- Line `j` of the destination is written `j` kc after the first one, under its mask (R264). -/
theorem WordWorks.posts_writeLines {b : Nat} {s t : State} (h : WordWorks b s t) (hd : s.cur.drain = false) (id d sel : Nat) {ls : List Nat}
    (mask : Nat → Nat) {j y : Nat} (hy : ls[j]? = some y) :
    Posts s (writeLines t id d sel ls mask) (d + j) (stepEventIn id xWrite j [64 * y] 64 true sel (stepClass s.cur.word) [mask y]) := by
  have hj : j < ls.length := (List.getElem?_eq_some_iff.1 hy).1
  have hline : (y, j) ∈ ls.zip (List.range ls.length) :=
    List.mem_of_getElem? (List.getElem?_zip_eq_some.2 ⟨hy, List.getElem?_range hj⟩)
  exact posts_foldl hline (fun _ _ => stepUnder_schedules ..) fun u hu => (h.trans (hu.wordWorks b)).posts_stepUnder hd ..

/-! ## The waits of a strand end (R82, R83) -/

theorem strandOf_endWaits (s : State) (b : Nat) (f : WaitFor → Bool) :
    strandOf (endWaits s b f) b = { strandOf s b with wait := (strandOf s b).wait.filter (fun w => !f w) } := by
  unfold endWaits
  extract_lets t rest s1
  split
  next hall =>
    have hkept : rest = t.wait := List.filter_eq_self.2 (List.length_filter_eq_length_iff.1 hall)
    change t = { t with wait := rest }
    rw [hkept]
  next =>
    split
    · exact strandOf_setStrand_self ..
    · exact strandOf_setStrand_self ..

theorem wordWorks_endWaits (s : State) (b : Nat) (f : WaitFor → Bool) : WordWorks b s (endWaits s b f) := by
  unfold endWaits
  extract_lets t rest s1
  have hset : WordWorks b s s1 := wordWorks_setStrand ..
  split
  · exact (Schedules.refl s).wordWorks b
  · split
    · exact hset.trans (Schedules.wordWorks ⟨onlyAgenda_post .., List.prefix_append ..⟩ b)
    · exact hset

/-! ## A message is consumed (R264) -/

/-- The strand when a receive has consumed the message of a channel: the channel is empty, and no receive waits for it. -/
def consumed (t : Strand) (chan : Nat) : Strand := { t with chans := t.chans.drop chan, wait := t.wait.filter (fun w => !(w == .receive chan)) }

theorem consumed_registers (t : Strand) (chan : Nat) : SameRegisters t (consumed t chan) := ⟨rfl, rfl, rfl, rfl, rfl, rfl⟩

/-- Where the receive stands among its row's words in progress, its lines are written from 2 kc on, each under its mask. -/
theorem consume_spec {s : State} {id : Nat} {y : Macro} (chan : Nat) (m : ChanMsg) (hy : macroAt s (curRow s) id = some y)
    (hd : s.cur.drain = false) :
    WordWorks s.cur.bank s (consume s id chan m) ∧ strandOf (consume s id chan m) s.cur.bank = consumed (strandOf s s.cur.bank) chan ∧
      ∀ j n, (recLines (rec0 s.cur))[j]? = some n → Posts s (consume s id chan m) (2 + j)
        (stepEventIn id xWrite j [64 * n] 64 true 1 (stepClass s.cur.word) [lineMask (rec0 s.cur) n]) := by
  unfold consume
  extract_lets b dst t s1 buf
  rw [show macroAt s1 (curRow s1) id = some y from hy]
  dsimp -zeta only
  extract_lets s2 s3
  have htaken : WordWorks b s s1 := wordWorks_setStrand ..
  have hfilled : LeavesArrays b s1 s2 := leavesArrays_putMacro b s1 id _
  have hready : WordWorks b s s2 := htaken.trans hfilled.leavesTiles.works
  have hlines : Schedules s2 s3 := writeLines_schedules ..
  have hsteps : Schedules s2 (stepLater s3 id xEnd 0 (2 + dst.length) 5 [] 0 false 0) := hlines.trans (stepUnder_schedules ..)
  have hends := wordWorks_endWaits (stepLater s3 id xEnd 0 (2 + dst.length) 5 [] 0 false 0) b (fun w => w == .receive chan)
  refine ⟨(hready.trans (hsteps.wordWorks b)).trans hends, ?_, fun j n hn => ?_⟩
  · have hstrand : strandOf s2 b = { t with chans := t.chans.drop chan } := strandOf_setStrand_self ..
    rw [strandOf_endWaits, hsteps.onlyAgenda.strandOf_eq, hstrand, consumed]
  · exact ((hready.posts_writeLines hd id 2 1 _ hn).of_schedules (stepUnder_schedules ..)).of_kept hends.kept

/-! ## `xrecv` at its engine (R264) -/

/-- The strand when a receive of it waits for a message of a channel. -/
def awaiting (t : Strand) (chan : Nat) : Strand :=
  { t with wait := if t.wait.contains (.receive chan) then t.wait else .receive chan :: t.wait }

theorem receive_mem_awaiting (t : Strand) (chan : Nat) : .receive chan ∈ (awaiting t chan).wait := by
  rw [awaiting]
  split
  next hwaits => exact List.contains_iff_mem.1 hwaits
  next => exact List.mem_cons_self

section
variable {s : State} {g : BitVec 4} {a b c : BitVec 5} {l : BitVec 4} (hg : guardOn s g = true) (hw : encode (.xrecv g a b c l) = [s.cur.word])

include hg hw in
theorem exec_xrecv_of_bad {x : ChanMsg} (hx : Sparse.find (strandOf s s.cur.bank).chans (recvChan s.cur) = some x)
    (hbad : chanBad s s.cur.bank (recvChan s.cur) = true) :
    exec (.xrecv g a b c l) s = .next (chanFault s s.cur.bank (recvChan s.cur)) := by
  rw [exec_xrecv, execXrecv, runMacro_of_encode _ hg hw]
  simp only [hx, hbad, if_true]

include hg hw in
theorem exec_xrecv_of_misfit {x : ChanMsg} (hx : Sparse.find (strandOf s s.cur.bank).chans (recvChan s.cur) = some x)
    (hgood : chanBad s s.cur.bank (recvChan s.cur) = false) (hfits : fits s.cur x.msg = false) :
    exec (.xrecv g a b c l) s = .next (misfit s 2 (.word s.cur.word) (recvChan s.cur) x) := by
  rw [exec_xrecv, execXrecv, runMacro_of_encode _ hg hw]
  simp only [hx, hgood, hfits, Bool.false_eq_true, if_false]

include hg hw in
theorem exec_xrecv_of_fits {x : ChanMsg} (hx : Sparse.find (strandOf s s.cur.bank).chans (recvChan s.cur) = some x)
    (hgood : chanBad s s.cur.bank (recvChan s.cur) = false) (hfits : fits s.cur x.msg = true) :
    exec (.xrecv g a b c l) s =
      .next (consume (newMacro s none none false).2 (rowOf s (curRow s)).nextMacro (recvChan s.cur) x) := by
  rw [exec_xrecv, execXrecv, runMacro_of_encode _ hg hw]
  simp only [hx, hgood, hfits, Bool.false_eq_true, if_false, if_true]
  rfl

include hg hw in
theorem exec_xrecv_of_timed (hnone : Sparse.find (strandOf s s.cur.bank).chans (recvChan s.cur) = none) (htimed : timedNow s s.cur.bank = true) :
    exec (.xrecv g a b c l) s =
      .next (later (newMacro s none none false).2 (s.cur.rb.toNat % 2 ^ 32) 5 3 (.xrecvTimeout (rowOf s (curRow s)).nextMacro)) := by
  rw [exec_xrecv, execXrecv, runMacro_of_encode _ hg hw]
  simp only [hnone, htimed, if_true]
  rfl

include hg hw in
theorem exec_xrecv_of_loose (hnone : Sparse.find (strandOf s s.cur.bank).chans (recvChan s.cur) = none) (hloose : timedNow s s.cur.bank = false) :
    exec (.xrecv g a b c l) s =
      .next (setStrand (newMacro s none none false).2 s.cur.bank (awaiting (strandOf s s.cur.bank) (recvChan s.cur))) := by
  rw [exec_xrecv, execXrecv, runMacro_of_encode _ hg hw]
  simp only [hnone, hloose, Bool.false_eq_true, if_false]
  rfl

end

/-- The word that executes stands among its row's words in progress, under the row's next number. -/
theorem macroAt_newMacro (s : State) (prod : Option Product) (inj : Option (BitVec 24)) (dead : Bool) :
    ∃ y, macroAt (newMacro s prod inj dead).2 (curRow s) (rowOf s (curRow s)).nextMacro = some y := by
  rw [newMacro, macroAt, rowOf_setRow_self]
  exact ⟨_, Sparse.find_put_self ..⟩

/-- A receive whose message waits for it consumes the message at once. -/
theorem consume_newMacro_spec {s : State} (chan : Nat) (m : ChanMsg) (hd : s.cur.drain = false) :
    let id := (rowOf s (curRow s)).nextMacro
    let t := consume (newMacro s none none false).2 id chan m
    WordWorks s.cur.bank s t ∧ strandOf t s.cur.bank = consumed (strandOf s s.cur.bank) chan ∧
      ∀ j n, (recLines (rec0 s.cur))[j]? = some n →
        Posts s t (2 + j) (stepEventIn id xWrite j [64 * n] 64 true 1 (stepClass s.cur.word) [lineMask (rec0 s.cur) n]) := by
  intro id t
  have hissued : LeavesArrays s.cur.bank s (newMacro s none none false).2 := leavesArrays_newMacro rfl ..
  obtain ⟨y, hy⟩ := macroAt_newMacro s none none false
  obtain ⟨hworks, hstrand, hposts⟩ := consume_spec (s := (newMacro s none none false).2) chan m hy hd
  exact ⟨hissued.leavesTiles.works.trans hworks, hstrand, fun j n hn => .of_wordWorks hissued.leavesTiles.works (hposts j n hn)⟩

/-! ## A message arrives (R263 to R265) -/

theorem openReceive_spec {s : State} {b chan id : Nat} {x : Macro} (h : openReceive s b chan = some (id, x)) :
    (id, x) ∈ (rowOf s (bankRow b)).macros ∧ x.ctx.bank = b := by
  refine ⟨List.mem_of_find?_eq_some h, ?_⟩
  have hpicked := List.find?_some h
  simp only [Bool.and_eq_true, decide_eq_true_eq] at hpicked
  obtain ⟨⟨⟨⟨hbank, -⟩, -⟩, -⟩, -⟩ := hpicked
  exact hbank

/-- Under the key of an entry that is listed, a read finds an entry. -/
theorem exists_find_of_mem {α : Type} {m : Sparse α} {e : Nat × α} (he : e ∈ m) : ∃ x, Sparse.find m e.1 = some x := by
  induction m with
  | nil => cases he
  | cons d m ih =>
    rw [Sparse.find]
    split
    next => exact ⟨_, rfl⟩
    next hne => exact ih ((List.mem_cons.1 he).resolve_left fun heq => hne (heq ▸ rfl))

section
variable {s : State} {m : Message}

theorem exec_messageArrival_of_gone (hb : bankAt s m.grp m.gstack m.grow = none) : exec (.messageArrival m) s = .next s := by
  have hmeets : meets s m = .gone := by
    unfold meets
    rw [hb]
  rw [exec_messageArrival, execMessageArrival, hmeets]

variable {b : Nat} (hb : bankAt s m.grp m.gstack m.grow = some b)

include hb in
theorem exec_messageArrival_of_full {x : ChanMsg} (hx : Sparse.find (strandOf s b).chans m.chan = some x)
    (htimed : timedMode (groupOf s m.grp) = true) (hruns : bankRuns s b = true) :
    exec (.messageArrival m) s = .next (strandFault s b (orphanRec s b (bankKc s b) m.chan m)) := by
  have hmeets : meets s m = .orphan b := by
    simp only [meets, hb, hx, htimed, if_true]
  rw [exec_messageArrival, execMessageArrival, hmeets]
  simp only [hruns, if_true]

include hb in
theorem exec_messageArrival_of_empty (hnone : Sparse.find (strandOf s b).chans m.chan = none) (hopen : openReceive s b m.chan = none) :
    exec (.messageArrival m) s = .next (holdMessage s b m) := by
  have hmeets : meets s m = .held b := by
    simp only [meets, hb, hnone, hopen]
  rw [exec_messageArrival, execMessageArrival, hmeets]

include hb in
/-- A receive that waits consumes the message under its own context, and its timeout is gone from the agenda. -/
theorem exec_messageArrival_of_receive {id : Nat} {x : Macro} (hnone : Sparse.find (strandOf s b).chans m.chan = none)
    (hopen : openReceive s b m.chan = some (id, x)) (hfits : fits x.ctx m = true) :
    ∃ f, exec (.messageArrival m) s =
      .next { consume (dropEntries { s with cur := x.ctx } f) id m.chan { serial := 0, at_ := 0, msg := m } with cur := s.cur } := by
  have hmeets : meets s m = .taken b id x := by
    simp only [meets, hb, hnone, hopen]
  rw [exec_messageArrival, execMessageArrival, hmeets]
  simp only [hfits, if_true]
  exact ⟨_, rfl⟩

end

/-- The strand when a message is held in its channel. -/
def holdingMessage (s : State) (b : Nat) (m : Message) : Strand :=
  { strandOf s b with
    chans := (strandOf s b).chans.put m.chan { serial := s.seq, at_ := bankKc s b, msg := m }
    vbad := wordsWritten (strandOf s b).vbad 48 [64 + m.chan] }

theorem holdMessage_spec (s : State) (b : Nat) (m : Message) :
    OnlyBank s (holdMessage s b m) b ∧ strandOf (holdMessage s b m) b = holdingMessage s b m ∧
      (timedMode (groupOf s m.grp) = true → ∃ e ∈ (holdMessage s b m).agenda,
        e.at_ = bankKc s b + 256 ∧ e.ctx.bank = b ∧ e.pay = .ev (.orphanMessageTimeout m.chan s.seq)) := by
  unfold holdMessage
  extract_lets t kc n s1 c
  have hheld : OnlyBank s s1 b := onlyBank_setStrand ..
  have hstrand : strandOf s1 b = holdingMessage s b m := strandOf_setStrand_self ..
  split
  next => exact ⟨hheld.trans_onlyAgenda (onlyAgenda_post ..), hstrand, fun _ => ⟨_, List.mem_append_right _ List.mem_cons_self, rfl, rfl, rfl⟩⟩
  next hloose => exact ⟨hheld.trans_onlyAgenda rfl, hstrand, fun htimed => absurd htimed hloose⟩

/-- A message that a receive waits for is consumed at its arrival, on the clock of the receive. -/
theorem consume_openReceive_spec {s : State} {b chan id : Nat} {x : Macro} (hopen : openReceive s b chan = some (id, x))
    (hd : x.ctx.drain = false) (f : Timed → Bool) (m : ChanMsg) :
    let u := dropEntries { s with cur := x.ctx } f
    WordWorks b u (consume u id chan m) ∧ strandOf (consume u id chan m) b = consumed (strandOf s b) chan ∧
      ∀ j n, (recLines (rec0 x.ctx))[j]? = some n → Posts u (consume u id chan m) (2 + j)
        (stepEventIn id xWrite j [64 * n] 64 true 1 (stepClass x.ctx.word) [lineMask (rec0 x.ctx) n]) := by
  intro u
  obtain ⟨hmem, hbank⟩ := openReceive_spec hopen
  subst hbank
  obtain ⟨y, hy⟩ := exists_find_of_mem hmem
  exact consume_spec (s := u) chan m hy hd

/-! ## A message's time as an orphan runs out (R265) -/

theorem exec_orphanMessageTimeout_of_held {s : State} {chan n : Nat} {x : ChanMsg}
    (hx : Sparse.find (strandOf s s.cur.bank).chans chan = some x) (hn : x.serial = n) :
    exec (.orphanMessageTimeout chan n) s =
      .next (strandFault (setStrand s s.cur.bank { strandOf s s.cur.bank with chans := (strandOf s s.cur.bank).chans.drop chan }) s.cur.bank
        (orphanRec s s.cur.bank (bankKc s s.cur.bank) chan x.msg)) := by
  have horphan : orphanAt s s.cur.bank chan n = some x := by
    simp only [orphanAt, hx, hn, if_true]
  rw [exec_orphanMessageTimeout, execOrphanMessageTimeout, horphan]

theorem exec_orphanMessageTimeout_of_consumed {s : State} {chan n : Nat}
    (hgone : ∀ x, Sparse.find (strandOf s s.cur.bank).chans chan = some x → x.serial ≠ n) :
    exec (.orphanMessageTimeout chan n) s = .next s := by
  have horphan : orphanAt s s.cur.bank chan n = none := by
    unfold orphanAt
    split
    next x hx => exact if_neg (hgone x hx)
    next => rfl
  rw [exec_orphanMessageTimeout, execOrphanMessageTimeout, horphan]

/-- Settles O36: each clause is the lemma for what the receive, the arriving message or the timeout meets. -/
theorem messagesReachTheirReceive : Obligations.MessagesReachTheirReceive := by
  unfold Obligations.MessagesReachTheirReceive
  refine ⟨⟨?receive, ?timeout⟩, ?arrival, ?orphan⟩
  case receive =>
    intro g a b c l s hg hd hw bk r id chan dst held
    refine ⟨fun x hx hgood hlen => ?_, fun x hx hbad => exec_xrecv_of_bad hg hw hx hbad,
      fun x hx hgood hlen => ⟨rfl, exec_xrecv_of_misfit hg hw hx hgood (decide_eq_false hlen)⟩, fun hnone htimed => ?_, fun hnone hloose => ?_⟩
    · obtain ⟨hworks, hstrand, hposts⟩ := consume_newMacro_spec chan x hd
      rw [stepClass_xrecv hw] at hposts
      exact ⟨_, exec_xrecv_of_fits hg hw hx hgood (decide_eq_true hlen), hworks.onlyBankRow, congrArg Strand.chans hstrand,
        hstrand ▸ consumed_registers .., hposts⟩
    · have hissued : LeavesTiles s.cur.bank s (newMacro s none none false).2 := (leavesArrays_newMacro rfl ..).leavesTiles
      have hleaves := hissued.trans ((later_schedules _ (s.cur.rb.toNat % 2 ^ 32) 5 3 (.xrecvTimeout id)).leavesTiles s.cur.bank)
      exact ⟨_, exec_xrecv_of_timed hg hw hnone htimed, hleaves.onlyRow, hleaves.works.onlyEngines,
        .of_wordWorks hissued.works (posts_later hd ..)⟩
    · have hworks := (leavesArrays_newMacro (s := s) rfl none none false).leavesTiles.works.trans
        (wordWorks_setStrand bk _ (awaiting (strandOf s bk) chan))
      refine ⟨_, exec_xrecv_of_loose hg hw hnone hloose, hworks.onlyBankRow, ?_⟩
      rw [strandOf_setStrand_self]
      exact ⟨receive_mem_awaiting .., ⟨rfl, rfl, rfl, rfl, rfl, rfl⟩, rfl, rfl⟩
  case timeout =>
    intro id s
    exact ⟨rfl, rfl, rfl⟩
  case arrival =>
    intro m s
    refine ⟨exec_messageArrival_of_gone, fun b hb => ⟨fun x hx htimed hruns => ⟨rfl, exec_messageArrival_of_full hb hx htimed hruns⟩,
      fun hnone hopen => ?_, fun id x hnone hopen hd hlen => ?_⟩⟩
    · obtain ⟨honly, hstrand, horphan⟩ := holdMessage_spec s b m
      refine ⟨_, s.seq, exec_messageArrival_of_empty hb hnone hopen, honly, ?_⟩
      rw [hstrand]
      exact ⟨⟨rfl, rfl, rfl, rfl, rfl, rfl⟩, rfl, rfl, Sparse.find_put_self .., fun q hq => Sparse.find_put_ne _ _ hq, horphan⟩
    · obtain ⟨f, hexec⟩ := exec_messageArrival_of_receive hb hnone hopen (decide_eq_true hlen)
      obtain ⟨⟨⟨hrest, hother, -⟩, -, -⟩, hstrand, hposts⟩ := consume_openReceive_spec hopen hd f { serial := 0, at_ := 0, msg := m }
      refine ⟨_, hexec, ?_, (congrArg State.mem hrest :), hother, fun j y hy => ?_⟩
      · have hregisters := consumed_registers (strandOf s b) m.chan
        rw [← hstrand] at hregisters
        exact hregisters
      · obtain ⟨-, e, he, hclk, hat, -, hpay⟩ := hposts j y hy
        exact ⟨e, he, hclk, hat, hpay⟩
  case orphan =>
    intro chan n s b
    exact ⟨fun x hx hn => ⟨rfl, exec_orphanMessageTimeout_of_held hx hn⟩, exec_orphanMessageTimeout_of_consumed⟩

end Sys2Proof.Machine
end
